-- ==== Sys2Proof/Word.lean ====
section
/-!
DEFINITION. The word types of the TRX-4100 and their plainest arithmetic (R4: little-endian, 8-bit bytes).
-/

namespace Sys2Proof

/-- A byte. -/
abbrev Byte := BitVec 8
/-- A halfword of code (R40). -/
abbrev Half := BitVec 16
/-- A 32-bit word. -/
abbrev Word := BitVec 32
/-- A 64-bit dword. -/
abbrev Dword := BitVec 64

/-- The 64-bit pattern congruent to `n` (R87, bits). -/
abbrev dw (n : Nat) : Dword := BitVec.ofNat 64 n

end Sys2Proof
end

