-- ==== Sys2Proof/Syntax.lean ====
section
/-!
DEFINITION. The instructions, engine commands and steps of the TRX-4100 as data: operands in their own types, one
constructor of `Instr` per row of the opcode table (03, 95).
-/

namespace Sys2Proof

/-- A `g` register number (R42). -/
abbrev GReg := BitVec 6
/-- A predicate number. -/
abbrev PReg := BitVec 6
/-- A handle register number. -/
abbrev HReg := BitVec 4
/-- A tile register number. -/
abbrev TReg := BitVec 4
/-- A vector register number (R190). -/
abbrev VReg := BitVec 5
/-- A lane mask number (R190). -/
abbrev MReg := BitVec 3
/-- A core of the package, by CID[8:0] (R22): die in [8:7], cluster in [6:2], core in [1:0]. -/
abbrev CoreId := Fin 512
/-- A cluster of the package: CID[8:2]. -/
abbrev ClusterId := Fin 128
/-- A die of the package: CID[8:7]. -/
abbrev DieId := Fin 4
/-- A command queue of a core, `q0` to `q7`. -/
abbrev QueueId := Fin 8

/-- The three strands of a core (R17). -/
inductive StrandId where
  | s | v | m
deriving DecidableEq, Repr, Inhabited

/-- One strand of the package. -/
structure Who where
  core : CoreId
  strand : StrandId
deriving DecidableEq, Repr, Inhabited

/-- Access size of the M, H and EXT formats (R42). -/
inductive Size where
  | b | h | w | d
deriving DecidableEq, Repr, Inhabited

/-- Scope of an atomic or a fence (R42). -/
inductive Scope where
  | core | cluster | die | package
deriving DecidableEq, Repr, Inhabited

/-- Condition of `CMPI` (R42). -/
inductive Cond where
  | eq | ne | lt | ltu | le | leu | gt | gtu
deriving DecidableEq, Repr, Inhabited

/-- Operation of an atomic (R42); codes 13 to 15 are unused. -/
inductive AmoOp where
  | add | and | or | xor | mins | minu | maxs | maxu | swap | cas | fadd | fmin | fmax
deriving DecidableEq, Repr, Inhabited

/-- Element type of the V format (R50). -/
inductive VType where
  | i32 | ui32 | f32 | bf16 | f16 | i16 | i8 | ui8
deriving DecidableEq, Repr, Inhabited

/-- Function of `VMSK` (R209). -/
inductive MskFunc where
  | and | or | xor | andn | not | gtom | mtog | first
deriving DecidableEq, Repr, Inhabited

/-- Element formats shared by `MGO`, layout records and drain stages (R49). -/
inductive Fmt where
  | fp16 | bf16 | e4m3 | e5m2 | e2m1s | int8 | uint8 | int4 | int2t | fp32
deriving DecidableEq, Repr, Inhabited

/-- Accumulate mode of `MGO` (R173). -/
inductive Acc where
  | fp | fps | int
deriving DecidableEq, Repr, Inhabited

/-- What a global access of a strand does at the location (R216, R205, R276). -/
inductive AccessOp where
  /-- a load into a `g` register -/
  | load (d : GReg)
  /-- a store of the low bytes -/
  | store (x : Dword)
  /-- one lane of a load into a vector register -/
  | laneLoad (d : VReg) (lane : Fin 64)
  /-- an atomic: destination, operation, returns the old value, operand, new value of a compare and swap -/
  | atomic (d : GReg) (op : AmoOp) (sc : Scope) (ret : Bool) (x y : Dword)
deriving DecidableEq, Repr, Inhabited

/-- A global access on its way to its home (R267, R289). -/
structure Access where
  who : Who
  /-- the handle it was issued through -/
  h : HReg
  /-- offset within the handle's page -/
  off : Nat
  /-- physical address -/
  pa : Nat
  /-- bytes -/
  n : Nat
  /-- expiry of the translation (R289) -/
  expiry : Dword
  /-- stores or atomics -/
  wr : Bool
  /-- context and page of the translation, for a re-walk -/
  space : BitVec 16
  va : Dword
  /-- its KIND -/
  kind : BitVec 3
  /-- package time of its issue -/
  at_ : Nat
  op : AccessOp
deriving DecidableEq, Repr, Inhabited

/-- A port of the fabric: +X, -X, +Y, -Y, +Z, -Z (R384). -/
abbrev Port := Fin 6
/-- A migration entry of a die (R297). -/
abbrev MigId := Fin 16

/-- What a start of the module meets outside the model: the steps that fail in their normal and in their alternate form; the
dies whose lease clock unit fails its self-check; the dies, clusters and stacks that fail their tests; and the alarms seen
during a step (R291, R346 to R348, R352). -/
structure Startup where
  normal : BitVec 16
  alternate : BitVec 16
  links : BitVec 4
  dies : BitVec 4
  vaults : BitVec 128
  hbm : BitVec 16
  clocks : BitVec 4
  /-- step, and alarms by their bit of `ALARM` -/
  alarms : List (Nat × BitVec 3)
deriving DecidableEq, Repr, Inhabited

/-- Kinds of packets (R399). -/
inductive PKind where
  | write | read | readresp | atomic | atomresp | signal | ack | steal
deriving DecidableEq, Repr, Inhabited

/-- A packet of the fabric (R399). -/
structure Packet where
  kind : PKind
  /-- code of R389 -/
  status : Nat
  src : BitVec 12
  dst : BitVec 12
  space : BitVec 16
  va : Nat
  /-- data bytes, or bytes asked for -/
  len : Nat
  size : BitVec 2
  op : BitVec 4
  tag : Word
  aux : Dword
  data : List Byte
deriving DecidableEq, Repr, Inhabited

/-- A flit as it is on the link (R398). -/
structure Flit where
  header : Dword
  cipher : List Byte
  tag : List Byte
deriving DecidableEq, Repr, Inhabited

/-- A stolen instance on its way (R341). -/
structure Stolen where
  /-- its node record -/
  node : List Byte
  first : Word
  count : Word
  age : Nat
  space : BitVec 16
  /-- its replay and node at the donor -/
  replay : Nat
  index : Nat
  /-- its instance at the donor -/
  inst : Nat
  args : List Byte
deriving DecidableEq, Repr, Inhabited

/-- What a STEAL packet carries (R340, R341, R399). -/
inductive StealMsg where
  | figure (n : Nat)
  | request (slots : Nat)
  | refusal
  | grant (xs : List Stolen)
  | report (inst : Nat) (terminated : Bool)
deriving DecidableEq, Repr, Inhabited

/-- A content-named instruction that the engine performs (R367). -/
inductive CnKind where
  | alloc (interior : Bool) | load | hold | drop | hash
deriving DecidableEq, Repr, Inhabited

/-- A request to the content-named engine, its operands bound at issue (R368). -/
structure CnReq where
  who : Who
  kind : CnKind
  /-- handle of the region, and the context of its translation -/
  h : HReg
  space : BitVec 16
  /-- page frame of the region, and when its translation expires (R288, R289) -/
  frame : Nat
  expiry : Dword
  /-- virtual page base of the region -/
  page : Dword
  /-- destination pair -/
  d : GReg
  /-- the name of the pair, for a load, hold or drop -/
  name : Nat
  /-- scratchpad destination of a load or a hash -/
  off : Nat
  /-- the line -/
  line : List Byte
  /-- minor of the instruction -/
  minor : Nat
  /-- package time of its issue -/
  at_ : Nat
deriving DecidableEq, Repr, Inhabited


/-- A virtual address in a SPACE: what a page walk of `XLATE` or `HRENEW` translates (R217, R287, R288). -/
structure SpaceAddr where
  va : Dword
  space : BitVec 16
deriving DecidableEq, Repr, Inhabited

/-- Steps that the model itself puts off: the agenda holds them until their turn comes (log entry 1). Each is run by the
meaning of the row of its name. -/
inductive Event where
  /-- the far receiver of a sublink has switched to the slot that its sender uses (R401) -/
  | farSwitch (p : Port) (d : DieId)
  /-- an `MAZERO` or `MSCACC` completes (R179, R180) -/
  | deckDone (c : CoreId)
  /-- a result of a fixed latency is there, in these registers, with the flags and the drops it raises (R22, R23, R192) -/
  | resultReady (w : Who) (g : Option GReg) (v : Option VReg) (f : BitVec 9) (drop : Nat)
  /-- records that wait for their instance's writes (R114) -/
  | recordPost
  /-- a lost instance enters the pool again (R314) -/
  | instanceReturn (k : Nat)
  /-- nodes that became ready in an election enter the pool (R313) -/
  | poolReadied
  /-- a die's copy of TIME is brought towards the master's after a handover (R291) -/
  | slew (d : DieId)
  | copyin (c : CoreId) (q : QueueId)
  | copyout (c : CoreId) (q : QueueId)
  | decode (c : CoreId) (q : QueueId)
  | encode (c : CoreId) (q : QueueId)
  | fill (c : CoreId) (q : QueueId)
  | compact (c : CoreId) (q : QueueId)
  | qfence (c : CoreId) (q : QueueId)
  | layset (c : CoreId) (q : QueueId)
  | laysync (c : CoreId) (q : QueueId)
  | resume (c : CoreId) (q : QueueId)
  | gather (c : CoreId) (q : QueueId)
  | scatter (c : CoreId) (q : QueueId)
  | scatadd (c : CoreId) (q : QueueId)
  | madd (c : CoreId) (q : QueueId)
  | mpfx (c : CoreId) (q : QueueId)
  | munion (c : CoreId) (q : QueueId)
  | rsend (c : CoreId) (q : QueueId)
  | rfetch (c : CoreId) (q : QueueId)
  | rsignal (c : CoreId) (q : QueueId)
  | cnout (c : CoreId) (q : QueueId)
  | cnin (c : CoreId) (q : QueueId)
  | cndiff (c : CoreId) (q : QueueId)
  | jobPop (c : CoreId) (q : QueueId)
  | semaphoreCycle (c : CoreId)
  | ktwaitTimeout (w : Who) (til : Nat)
  | tileBitApply (c : CoreId)
  | leaveGrant (d : DieId)
  | jobComplete (c : CoreId) (q : QueueId)
  | jobsDropped (c : CoreId) (q : QueueId)
  | gregFill (w : Who) (d : GReg) (x : Dword)
  | walkComplete (w : Who) (h : HReg) (x : SpaceAddr)
  | walkRestart (w : Who) (h : HReg) (x : SpaceAddr)
  | engineLeaseRenew (c : CoreId) (q : QueueId)
  | codeFetch (w : Who) (va : Dword)
  | homeAccess (a : Access)
  | crossdieWriteApply (d : DieId)
  | appliedCountReport (d : DieId)
  | atomicWriteback (sc : Scope) (point : Nat) (loc : Nat)
  | flushComplete (w : Who)
  | hostAccess (pa : Nat) (n : Nat) (wr : Bool) (x : Dword)
  | clusterAccess (w : Who) (tgt : CoreId) (off : Nat) (n : Nat) (x : Option Dword) (d : GReg)
  | barrierApply (k : ClusterId)
  | ctwaitTimeout (w : Who) (til : Nat)
  | multicastTimeout (c : CoreId) (til : Nat)
  | multicastLoad (c : CoreId)
  | stepBegin (c : CoreId)
  | laneEvaluate (c : CoreId) (lane : Fin 64)
  | windowLoad (c : CoreId)
  | rodTakeItem (c : CoreId) (rod : Fin 64)
  | itemArrival (c : CoreId) (rod : Fin 64)
  | frameJobComplete (c : CoreId)
  | frameJobPause (c : CoreId)
  | drainRowWrite (c : CoreId)
  | mlutCopyDone (c : CoreId)
  | reclaimLine
  | instanceDispatch
  | preemptRequest
  | instanceSave (k : Nat)
  | instanceResume (k : Nat)
  | suspendTimeout (k : Nat)
  | instanceRetire (k : Nat)
  | safepointOverrun (w : Who)
  | deadlockFault (c : CoreId)
  | doorbellRecord (n : Nat) (x : Dword)
  | restart (n : Nat)
  | reload (n : Nat)
  | wqConsume (q : Nat)
  | devqConsume (q : Nat)
  | launch (q : Nat) (e : Dword)
  | struct (q : Nat) (e : Dword)
  | conditionalRead (r : Nat) (i : Nat)
  | replayDone (r : Nat)
  | loadFigure
  | stealRequest
  | stealGrant (p : Port) (slots : Nat)
  | stolenArrival (p : Port) (x : Stolen)
  | stealRetireReport (k : Nat)
  | lcuMeasure (d : DieId) (ofs : Int)
  | skewResync (d : DieId)
  | skewResyncTimeout (d : DieId)
  | dieFence (d : DieId)
  | masterElection
  | migrationArm (d : DieId) (e : MigId) (x : Dword)
  | migrationRemove (d : DieId) (e : MigId)
  | migrationLineCopy (d : DieId) (e : MigId)
  | moduleStart (u : Startup)
  | tamperAlarm
  | voltageGlitch
  | clockGlitch
  | coolantThrottle (d : DieId)
  | pwrcapWrite (d : DieId) (x : Dword)
  | secstatAdv
  | alarmpolWrite (x : Dword)
  | registerWrite (off : Nat) (x : Dword) (host : Bool)
  | fabrd
  | fabwr
  | kempub
  | kekset
  | linkkey
  | cnkey
  | cnkeyclr
  | spareret
  | quote
  | mailboxComplete
  | flitSend (p : Port) (d : DieId)
  | flitReceive (p : Port) (d : DieId) (f : Flit)
  | nakReceive (p : Port) (d : DieId) (ack : BitVec 12)
  | retrainDone (p : Port) (d : DieId)
  | retrainTimeout (p : Port) (d : DieId) (til : Nat)
  | laneRepair (p : Port) (tx : Bool) (d : DieId)
  | write (d : DieId) (x : Packet)
  | read (d : DieId) (x : Packet)
  | readresp (x : Packet)
  | atomic (d : DieId) (x : Packet)
  | atomresp (x : Packet)
  | signal (d : DieId) (x : Packet)
  | ack (x : Packet)
  | steal (p : Port) (x : StealMsg)
  | heldRequestTimeout (d : DieId) (n : Nat)
  | remoteTimeout (t : Word)
  | clusterNetworkFlitFailure (w : Who)
  | coolantBelowLimit (d : DieId)
  | contentNamedOperation (x : CnReq)
  | vldgLanesArrive (w : Who) (d : VReg) (mask : Dword)
  | replicaAcknowledge (d : DieId)
deriving DecidableEq, Repr, Inhabited

/-- The operations and steps of the part: one constructor per row of spec/opcode_table.json, in its order.
The first 194 are the instructions of the strands, the next 22 the engine command kinds (each runs the job at
the front of a queue), the others the steps of the engines, controllers and the package (95). -/
inductive Instr where
  /-- ADD (R89). Writes the 64-bit wrapped sum of two g registers. -/
  | add (d : GReg) (a : GReg) (b : GReg) (ta : Bool) (tb : Bool)
  /-- SUB (R89). Writes the 64-bit wrapped difference of two g registers. -/
  | sub (d : GReg) (a : GReg) (b : GReg) (ta : Bool) (tb : Bool)
  /-- MUL (R89). Writes the low 64 bits of the product of two g registers. -/
  | mul (d : GReg) (a : GReg) (b : GReg) (ta : Bool) (tb : Bool)
  /-- MULHS (R89). Writes the high 64 bits of the signed 128-bit product. -/
  | mulhs (d : GReg) (a : GReg) (b : GReg) (ta : Bool) (tb : Bool)
  /-- MULHU (R89). Writes the high 64 bits of the unsigned 128-bit product. -/
  | mulhu (d : GReg) (a : GReg) (b : GReg) (ta : Bool) (tb : Bool)
  /-- DIVS (R90). Signed division truncated toward zero, with the division-by-zero result and IDZ flag of R90. -/
  | divs (d : GReg) (a : GReg) (b : GReg) (ta : Bool) (tb : Bool)
  /-- DIVU (R90). Unsigned division, with the division-by-zero result and IDZ flag of R90. -/
  | divu (d : GReg) (a : GReg) (b : GReg) (ta : Bool) (tb : Bool)
  /-- REMS (R90). Signed remainder, taking the sign of the dividend. -/
  | rems (d : GReg) (a : GReg) (b : GReg) (ta : Bool) (tb : Bool)
  /-- REMU (R90). Unsigned remainder. -/
  | remu (d : GReg) (a : GReg) (b : GReg) (ta : Bool) (tb : Bool)
  /-- AND (R89). Bitwise AND of two g registers. -/
  | and (d : GReg) (a : GReg) (b : GReg) (ta : Bool) (tb : Bool)
  /-- OR (R89). Bitwise OR of two g registers. -/
  | or (d : GReg) (a : GReg) (b : GReg) (ta : Bool) (tb : Bool)
  /-- XOR (R89). Bitwise XOR of two g registers. -/
  | xor (d : GReg) (a : GReg) (b : GReg) (ta : Bool) (tb : Bool)
  /-- ANDN (R89). Bitwise AND of g[A] with the complement of g[B]. -/
  | andn (d : GReg) (a : GReg) (b : GReg) (ta : Bool) (tb : Bool)
  /-- SHL (R89). Shift left by g[B][5:0]. -/
  | shl (d : GReg) (a : GReg) (b : GReg) (ta : Bool) (tb : Bool)
  /-- SHR (R89). Logical shift right by g[B][5:0]. -/
  | shr (d : GReg) (a : GReg) (b : GReg) (ta : Bool) (tb : Bool)
  /-- SRA (R89). Arithmetic shift right by g[B][5:0]. -/
  | sra (d : GReg) (a : GReg) (b : GReg) (ta : Bool) (tb : Bool)
  /-- MINS (R89). Writes the operand with the smaller signed value. -/
  | mins (d : GReg) (a : GReg) (b : GReg) (ta : Bool) (tb : Bool)
  /-- MINU (R89). Writes the operand with the smaller unsigned value. -/
  | minu (d : GReg) (a : GReg) (b : GReg) (ta : Bool) (tb : Bool)
  /-- MAXS (R89). Writes the operand with the larger signed value. -/
  | maxs (d : GReg) (a : GReg) (b : GReg) (ta : Bool) (tb : Bool)
  /-- MAXU (R89). Writes the operand with the larger unsigned value. -/
  | maxu (d : GReg) (a : GReg) (b : GReg) (ta : Bool) (tb : Bool)
  /-- CLZ (R89). Counts the zero bits above the highest one bit. -/
  | clz (d : GReg) (a : GReg) (ta : Bool)
  /-- CTZ (R89). Counts the zero bits below the lowest one bit. -/
  | ctz (d : GReg) (a : GReg) (ta : Bool)
  /-- POPC (R89). Counts the one bits of g[A]. -/
  | popc (d : GReg) (a : GReg) (ta : Bool)
  /-- ROL (R89). Rotates g[A] left by g[B][5:0]. -/
  | rol (d : GReg) (a : GReg) (b : GReg) (ta : Bool) (tb : Bool)
  /-- BFX (R91). Extracts a zero-extended bit field. -/
  | bfx (d : GReg) (a : GReg) (b : GReg) (ta : Bool) (tb : Bool)
  /-- BFI (R91). Inserts the low bits of g[A] into a field of g[D]. -/
  | bfi (d : GReg) (a : GReg) (b : GReg) (ta : Bool) (tb : Bool)
  /-- SHLI (R89). Shift left by an immediate amount. -/
  | shli (d : GReg) (a : GReg) (n : BitVec 6) (ta : Bool)
  /-- SHRI (R89). Logical shift right by an immediate amount. -/
  | shri (d : GReg) (a : GReg) (n : BitVec 6) (ta : Bool)
  /-- SRAI (R89). Arithmetic shift right by an immediate amount. -/
  | srai (d : GReg) (a : GReg) (n : BitVec 6) (ta : Bool)
  /-- ADDX8 (R89). Adds eight times g[B] to g[A]. -/
  | addx8 (d : GReg) (a : GReg) (b : GReg) (ta : Bool) (tb : Bool)
  /-- ADDI (R92). Adds a sign-extended 12-bit immediate. -/
  | addi (d : GReg) (a : GReg) (i : BitVec 12)
  /-- ANDI (R92). ANDs with a sign-extended 12-bit immediate. -/
  | andi (d : GReg) (a : GReg) (i : BitVec 12)
  /-- ORI (R92). ORs with a sign-extended 12-bit immediate. -/
  | ori (d : GReg) (a : GReg) (i : BitVec 12)
  /-- XORI (R92). XORs with a sign-extended 12-bit immediate. -/
  | xori (d : GReg) (a : GReg) (i : BitVec 12)
  /-- LUI (R92). Writes a sign-extended 18-bit immediate shifted left by 12. -/
  | lui (d : GReg) (i : BitVec 18)
  /-- CMPEQ (R94). Sets a predicate when two registers are equal. -/
  | cmpeq (d : PReg) (a : GReg) (b : GReg) (ta : Bool) (tb : Bool)
  /-- CMPNE (R94). Sets a predicate when two registers differ. -/
  | cmpne (d : PReg) (a : GReg) (b : GReg) (ta : Bool) (tb : Bool)
  /-- CMPLT (R94). Signed less-than compare into a predicate. -/
  | cmplt (d : PReg) (a : GReg) (b : GReg) (ta : Bool) (tb : Bool)
  /-- CMPLTU (R94). Unsigned less-than compare into a predicate. -/
  | cmpltu (d : PReg) (a : GReg) (b : GReg) (ta : Bool) (tb : Bool)
  /-- CMPLE (R94). Signed less-or-equal compare into a predicate. -/
  | cmple (d : PReg) (a : GReg) (b : GReg) (ta : Bool) (tb : Bool)
  /-- CMPLEU (R94). Unsigned less-or-equal compare into a predicate. -/
  | cmpleu (d : PReg) (a : GReg) (b : GReg) (ta : Bool) (tb : Bool)
  /-- PAND (R94). ANDs two predicates. -/
  | pand (d : PReg) (a : PReg) (b : PReg)
  /-- POR (R94). ORs two predicates. -/
  | por (d : PReg) (a : PReg) (b : PReg)
  /-- PXOR (R94). XORs two predicates. -/
  | pxor (d : PReg) (a : PReg) (b : PReg)
  /-- PANDN (R94). ANDs a predicate with the complement of another. -/
  | pandn (d : PReg) (a : PReg) (b : PReg)
  /-- PNOT (R94). Writes the complement of a predicate. -/
  | pnot (d : PReg) (a : PReg)
  /-- PMOV (R94). Copies a predicate. -/
  | pmov (d : PReg) (a : PReg)
  /-- PGET (R94). Copies all 64 predicates into a g register. -/
  | pget (d : GReg)
  /-- PSET (R94). Writes p1 to p63 from bits of a g register. -/
  | pset (a : GReg) (ta : Bool)
  /-- CMPI (R95). Compares a register with a sign-extended 9-bit immediate under a condition code into a predicate. -/
  | cmpi (p : PReg) (a : GReg) (c : Cond) (i : BitVec 9)
  /-- BR (R96). Branches to a block header when the predicate, possibly negated, holds. -/
  | br (n : Bool) (p : PReg) (o : BitVec 17)
  /-- CALL (R97). Writes the return address to g63 and branches. -/
  | call (o : BitVec 24)
  /-- JR (R98). Jumps to the address in a register after checking it. -/
  | jr (a : GReg) (ta : Bool)
  /-- JALR (R98). Jumps to a register address and writes the link. -/
  | jalr (d : GReg) (a : GReg) (ta : Bool)
  /-- RET (R98). Jumps to the address in g63. -/
  | ret
  /-- SPAWN (R99). Moves the IDLE V or M strand to RUNNING at an entry address with an argument. -/
  | spawn (d : GReg) (a : GReg) (b : GReg) (ta : Bool) (tb : Bool)
  /-- HALT (R100). Moves the strand to HALTED. -/
  | halt
  /-- YIELD (R102). Acts as SAFE with every register live. -/
  | yield
  /-- SETRPT (R103). Sets RC from g[A][31:0]. -/
  | setrpt (a : GReg) (ta : Bool)
  /-- TRAP (R104). Raises a software trap that carries an immediate code. -/
  | trap (n : BitVec 6)
  /-- BRK (R104). Raises a breakpoint that suspends the instance. -/
  | brk (n : BitVec 6)
  /-- NOP (R102). Changes nothing but PC and CYC. -/
  | nop
  /-- WAITSTR (R101). S waits until the named strands are IDLE or HALTED and their instructions have completed. -/
  | waitstr (m : BitVec 2)
  /-- MFS (R105). Reads a special register into a g register. -/
  | mfs (d : GReg) (n : BitVec 6)
  /-- MTS (R105). Writes a special register from a g register. -/
  | mts (n : BitVec 6) (a : GReg) (ta : Bool)
  /-- SAFE (R106). Marks a safe point with a 64-bit live mask, and stops the strand when PREQ is set. -/
  | safe (mask : BitVec 64)
  /-- LIT (R93). Writes a 64-bit literal to a g register. -/
  | lit (d : GReg) (x : BitVec 64)
  /-- TREL (R107). Clears a tile's full bit once earlier reads have bound. -/
  | trel (t : TReg)
  /-- TMARK (R107). Sets a tile's full bit once earlier row writes have completed. -/
  | tmark (t : TReg)
  /-- TSTAT (R107). Reads a tile's full bit into a g register. -/
  | tstat (d : GReg) (t : TReg)
  /-- TCLR (R107). Zeroes a tile and marks it empty after the strand's own accesses and any writer in progress. -/
  | tclr (t : TReg)
  /-- LDS (R212). Loads a zero-extended value from scratchpad. -/
  | lds (d : GReg) (a : GReg) (s : Size) (o : BitVec 10)
  /-- STS (R212). Stores to scratchpad. -/
  | sts (d : GReg) (a : GReg) (s : Size) (o : BitVec 10)
  /-- LDG (R216). Loads global memory through a handle after its checks. -/
  | ldg (d : GReg) (h : HReg) (a : GReg) (s : Size) (o : BitVec 6)
  /-- STG (R216). Stores to global memory through a handle after its checks. -/
  | stg (d : GReg) (h : HReg) (a : GReg) (s : Size) (o : BitVec 6)
  /-- XLATE (R217). Sets a handle RESOLVING and starts a walk of a page. -/
  | xlate (h : HReg) (a : GReg) (ta : Bool)
  /-- PROBE (R218). Drains the strand and walks a range, raising a resumable page fault at the first absent page. -/
  | probe (a : GReg) (b : GReg) (ta : Bool) (tb : Bool)
  /-- HREL (R217). Makes a handle INVALID. -/
  | hrel (h : HReg)
  /-- HINFO (R219). Returns a handle's state and translation fields. -/
  | hinfo (d : GReg) (h : HReg)
  /-- HRENEW (R217). Re-walks a handle's page at once. -/
  | hrenew (h : HReg)
  /-- AMO (R276). Performs an atomic read-modify-write at the ordering point of its scope. -/
  | amo (d : GReg) (h : HReg) (a : GReg) (op : AmoOp) (sc : Scope) (z : Bool) (r : Bool)
  /-- FENCE (R220). Holds the strand until earlier loads have bound and earlier stores are performed within the scope. -/
  | fence (sc : Scope)
  /-- FLUSH (R221). Starts making earlier writes to a range visible to the host. -/
  | flush (a : GReg) (b : GReg) (ta : Bool) (tb : Bool)
  /-- PUSH (R222). Checks a 32-byte command and enqueues it as a job once the queue and scoreboard have room. -/
  | push (a : GReg) (q : BitVec 3) (ta : Bool)
  /-- QROOM (R223). Reads a queue's free entries, scoreboard room and halt state. -/
  | qroom (d : GReg) (q : BitVec 3)
  /-- WMARK (R223). Reads a queue's watermark. -/
  | wmark (d : GReg) (q : BitVec 3)
  /-- WMWAIT (R224). Waits until a job retires or its queue halts at or before it. -/
  | wmwait (a : GReg) (q : BitVec 3) (ta : Bool)
  /-- BACQ (R225). Acquires a buffer ring slot. -/
  | bacq (d : GReg) (n : BitVec 3)
  /-- BREL (R225). Releases a buffer ring slot. -/
  | brel (a : GReg) (n : BitVec 3) (ta : Bool)
  /-- KSIG (R226). Signals a semaphore once the strand's earlier scratchpad and tile writes are performed. -/
  | ksig (g : GReg) (k : BitVec 8) (amt : BitVec 4) (tg : Bool)
  /-- KWAIT (R226). Joins a semaphore's FIFO and waits to acquire an amount. -/
  | kwait (g : GReg) (k : BitVec 8) (amt : BitVec 4) (tg : Bool)
  /-- KTWAIT (R227). Acquires a semaphore with a timeout, reporting success or failure. -/
  | ktwait (g : GReg) (k : BitVec 8) (amt : BitVec 4) (tg : Bool)
  /-- KREAD (R226). Reads a semaphore count. -/
  | kread (g : GReg) (k : BitVec 8)
  /-- KSET (R226). Replaces a semaphore count. -/
  | kset (g : GReg) (k : BitVec 8) (tg : Bool)
  /-- CARV (R251). Arrives at a cluster barrier after a cluster fence and returns the phase. -/
  | carv (g : GReg) (b : BitVec 4)
  /-- CWAIT (R252). Waits for a barrier phase to complete. -/
  | cwait (g : GReg) (b : BitVec 4) (tg : Bool)
  /-- CTWAIT (R252). Waits for a barrier phase with a timeout. -/
  | ctwait (g : GReg) (b : BitVec 4) (tg : Bool)
  /-- CBSET (R253). Sets a barrier's participant count. -/
  | cbset (g : GReg) (b : BitVec 4) (tg : Bool)
  /-- VADD (R193). Element-wise addition on active lanes. -/
  | vadd (d : VReg) (a : VReg) (b : VReg) (k : MReg) (ty : VType)
  /-- VSUB (R193). Element-wise subtraction on active lanes. -/
  | vsub (d : VReg) (a : VReg) (b : VReg) (k : MReg) (ty : VType)
  /-- VMUL (R193). Element-wise multiplication on active lanes. -/
  | vmul (d : VReg) (a : VReg) (b : VReg) (k : MReg) (ty : VType)
  /-- VFMA (R193). Element-wise fused multiply-add into vd. -/
  | vfma (d : VReg) (a : VReg) (b : VReg) (k : MReg) (ty : VType)
  /-- VMIN (R193). Element-wise minimum. -/
  | vmin (d : VReg) (a : VReg) (b : VReg) (k : MReg) (ty : VType)
  /-- VMAX (R193). Element-wise maximum. -/
  | vmax (d : VReg) (a : VReg) (b : VReg) (k : MReg) (ty : VType)
  /-- VSADD (R193). Element-wise saturating integer addition. -/
  | vsadd (d : VReg) (a : VReg) (b : VReg) (k : MReg) (ty : VType)
  /-- VSSUB (R193). Element-wise saturating integer subtraction. -/
  | vssub (d : VReg) (a : VReg) (b : VReg) (k : MReg) (ty : VType)
  /-- VAND (R194). Lane-wise bitwise AND. -/
  | vand (d : VReg) (a : VReg) (b : VReg) (k : MReg)
  /-- VOR (R194). Lane-wise bitwise OR. -/
  | vor (d : VReg) (a : VReg) (b : VReg) (k : MReg)
  /-- VXOR (R194). Lane-wise bitwise XOR. -/
  | vxor (d : VReg) (a : VReg) (b : VReg) (k : MReg)
  /-- VSHL (R194). Element-wise shift left. -/
  | vshl (d : VReg) (a : VReg) (b : VReg) (k : MReg) (ty : VType)
  /-- VSHR (R194). Element-wise logical shift right. -/
  | vshr (d : VReg) (a : VReg) (b : VReg) (k : MReg) (ty : VType)
  /-- VSRA (R194). Element-wise arithmetic shift right. -/
  | vsra (d : VReg) (a : VReg) (b : VReg) (k : MReg) (ty : VType)
  /-- VABS (R194). Element-wise absolute value. -/
  | vabs (d : VReg) (a : VReg) (k : MReg) (ty : VType)
  /-- VNEG (R194). Element-wise negation. -/
  | vneg (d : VReg) (a : VReg) (k : MReg) (ty : VType)
  /-- VCMPEQ (R195). Lane-wise equality compare into a mask. -/
  | vcmpeq (d : MReg) (a : VReg) (b : VReg) (k : MReg) (ty : VType)
  /-- VCMPLT (R195). Lane-wise less-than compare into a mask. -/
  | vcmplt (d : MReg) (a : VReg) (b : VReg) (k : MReg) (ty : VType)
  /-- VCMPLE (R195). Lane-wise less-or-equal compare into a mask. -/
  | vcmple (d : MReg) (a : VReg) (b : VReg) (k : MReg) (ty : VType)
  /-- VSEL (R196). Selects lanes from va or vb by mask. -/
  | vsel (d : VReg) (a : VReg) (b : VReg) (k : MReg)
  /-- VMOV (R196). Copies active lanes. -/
  | vmov (d : VReg) (a : VReg) (k : MReg)
  /-- VBCAST (R196). Broadcasts a g register value to every element. -/
  | vbcast (d : VReg) (b : BitVec 5) (k : MReg) (ty : VType)
  /-- VEXT (R196). Extracts one lane into a g register. -/
  | vext (d : BitVec 5) (a : VReg) (b : BitVec 5) (k : MReg) (ty : VType)
  /-- VPERM (R196). Permutes lanes by indices. -/
  | vperm (d : VReg) (a : VReg) (b : VReg) (k : MReg)
  /-- VCVT (R197). Converts elements between vector types with rounding or part selection. -/
  | vcvt (d : VReg) (a : VReg) (rm : BitVec 2) (src : VType) (k : MReg) (ty : VType)
  /-- VRCP (R198). Reciprocal estimate rounded to F12. -/
  | vrcp (d : VReg) (a : VReg) (k : MReg)
  /-- VRSQ (R198). Reciprocal square root estimate rounded to F12. -/
  | vrsq (d : VReg) (a : VReg) (k : MReg)
  /-- VEXP2 (R198). Base-2 exponential estimate rounded to F12. -/
  | vexp2 (d : VReg) (a : VReg) (k : MReg)
  /-- VLUT (R199). Replaces indices with entries of a scratchpad table. -/
  | vlut (d : VReg) (a : VReg) (b : BitVec 5) (k : MReg) (ty : VType)
  /-- VUNPK3 (R200). Decodes packed ternary bytes into I8 weights, trapping or substituting on illegal bytes. -/
  | vunpk3 (d : VReg) (a : VReg) (sub : Bool) (h : BitVec 3) (k : MReg)
  /-- VTACC (R201). Accumulates activations by the sign of ternary weights. -/
  | vtacc (d : VReg) (a : VReg) (b : VReg) (k : MReg) (ty : VType)
  /-- VDOT4 (R202). Adds a four-way byte dot product into each lane. -/
  | vdot4 (d : VReg) (a : VReg) (b : VReg) (k : MReg) (ty : VType)
  /-- VLDS (R203). Loads a 256-byte scratchpad row into active lanes. -/
  | vlds (d : VReg) (a : BitVec 5) (i : BitVec 5) (k : MReg)
  /-- VSTS (R203). Stores active lanes to a 256-byte scratchpad row. -/
  | vsts (d : VReg) (a : BitVec 5) (i : BitVec 5) (k : MReg)
  /-- VLDT (R204). Reads a row of a full tile into active lanes. -/
  | vldt (d : VReg) (t : TReg) (b : BitVec 5) (k : MReg)
  /-- VSTT (R204). Writes active lanes into a row of an empty tile. -/
  | vstt (d : VReg) (t : TReg) (b : BitVec 5) (k : MReg)
  /-- VLDG (R205). Loads 256 bytes of global memory through a handle, lane by lane. -/
  | vldg (d : VReg) (h : HReg) (b : BitVec 5) (k : MReg)
  /-- VSTG (R205). Stores active lanes to global memory through a handle. -/
  | vstg (d : VReg) (h : HReg) (b : BitVec 5) (k : MReg)
  /-- VGATHS (R206). Gathers scratchpad words by lane indices in bank turns. -/
  | vgaths (d : VReg) (a : BitVec 5) (b : VReg) (k : MReg)
  /-- VSCATS (R206). Scatters lane words to scratchpad in bank turns. -/
  | vscats (d : VReg) (a : BitVec 5) (b : VReg) (k : MReg)
  /-- VRSUM (R207). Sums active lanes in a fixed tree into a g register. -/
  | vrsum (d : BitVec 5) (a : VReg) (k : MReg) (ty : VType)
  /-- VRMAX (R207). Tree maximum of active lanes into a g register. -/
  | vrmax (d : BitVec 5) (a : VReg) (k : MReg) (ty : VType)
  /-- VRMIN (R207). Tree minimum of active lanes into a g register. -/
  | vrmin (d : BitVec 5) (a : VReg) (k : MReg) (ty : VType)
  /-- VPFX (R208). Inclusive scan over active lanes. -/
  | vpfx (d : VReg) (a : VReg) (k : MReg) (ty : VType)
  /-- VMSK (R209). Mask logic or mask/g moves selected by FUNC. -/
  | vmsk (d : BitVec 5) (a : BitVec 5) (b : BitVec 5) (f : MskFunc)
  /-- VPOP (R210). Counts mask bits below VC. -/
  | vpop (d : BitVec 5) (a : MReg)
  /-- VCOMP (R210). Packs active lanes to the bottom and zeroes the rest. -/
  | vcomp (d : VReg) (a : VReg) (k : MReg)
  /-- VIOTA (R210). Writes each active lane's count of active lanes below it. -/
  | viota (d : VReg) (k : MReg)
  /-- NSET (R166). Writes a dword of a shadow nest level. -/
  | nset (n : BitVec 6) (a : GReg) (ta : Bool)
  /-- NCLR (R167). Resets the shadow table and zeroes the drain table. -/
  | nclr
  /-- MSRC (R168). Writes a dword of an operand descriptor in the shadow table. -/
  | msrc (n : BitVec 6) (a : GReg) (ta : Bool)
  /-- MDST (R169). Writes the mode, CBASE and semaphore dwords of the shadow table. -/
  | mdst (d : GReg) (a : GReg) (b : GReg) (ta : Bool) (tb : Bool)
  /-- MEPI (R171). Writes an EPI dword of the shadow table. -/
  | mepi (n : BitVec 2) (a : GReg) (ta : Bool)
  /-- MMODE (R170). Writes the mode dword from immediates. -/
  | mmode (c : BitVec 3) (w : BitVec 2) (ord : Bool) (asg : Bool)
  /-- MGO (R175). Checks the shadow table and starts a frame job with a copy of it. -/
  | mgo (fa : Fmt) (fb : Fmt) (acc : Acc) (v : GReg) (tv : Bool)
  /-- MWAIT (R177). Waits until no frame job or deck operation of the instance remains. -/
  | mwait
  /-- MDRAIN (R182). Drains a deck tile through bias, activation and requantisation to a tile or scratchpad. -/
  | mdrain (n : BitVec 2) (ds : Bool) (quant : Bool) (act : Bool) (bias : Bool) (a : GReg) (ipl : Bool) (satm : Bool) (ta : Bool)
  /-- MAZERO (R179). Zeroes all planes of a deck tile. -/
  | mazero (n : BitVec 2)
  /-- MSCACC (R180). Folds scaled chunk partials into the T plane of a deck tile. -/
  | mscacc (n : BitVec 2) (sfa : Bool) (sfb : Bool) (nsa : Bool) (nsb : Bool) (a : GReg) (b : GReg) (ta : Bool) (tb : Bool)
  /-- MSTAT (R176). Reads the frame job status word. -/
  | mstat (d : GReg)
  /-- MLUT (R172). Copies 2 KiB of scratchpad into the drain activation table. -/
  | mlut (a : GReg) (ta : Bool)
  /-- RST (R246). Stores to a scratchpad of a core in the instance's core set over the cluster network. -/
  | rst (d : GReg) (a : GReg) (s : Size) (ta : Bool)
  /-- RLD (R246). Loads from a scratchpad of a core in the core set over the cluster network. -/
  | rld (d : GReg) (a : GReg) (s : Size) (ta : Bool)
  /-- CNLA_L (R370). Looks up or allocates a content-named leaf line and takes a hold. -/
  | cnlaL (d : GReg) (a : GReg) (h : HReg) (ta : Bool)
  /-- CNLA_I (R370). Looks up or allocates a content-named interior line, holding its children when new. -/
  | cnlaI (d : GReg) (a : GReg) (h : HReg) (ta : Bool)
  /-- CNLD (R371). Writes the bytes of a named line to scratchpad. -/
  | cnld (d : GReg) (a : GReg) (h : HReg) (ta : Bool)
  /-- CNHOLD (R372). Adds one hold to a named line. -/
  | cnhold (d : GReg) (h : HReg)
  /-- CNDROP (R372). Drops one hold on a named line, freeing it at zero. -/
  | cndrop (d : GReg) (h : HReg)
  /-- RSWAP (R375). Compares and replaces a root cell, handing holds over on success. -/
  | rswap (d : GReg) (a : GReg) (h : HReg) (ta : Bool)
  /-- RGET (R374). Reads a root cell and takes a hold on its root name. -/
  | rget (d : GReg) (hr : HReg) (hc : HReg)
  /-- CNHASH (R370). Computes the name a line would have without changing the region. -/
  | cnhash (d : GReg) (a : GReg) (h : HReg) (ta : Bool)
  /-- FST (R391). Sends a remote write to a peer. -/
  | fst (d : GReg) (a : GReg) (b : GReg) (ta : Bool) (tb : Bool)
  /-- FLD (R391). Sends a remote read to a peer into a g register. -/
  | fld (d : GReg) (a : GReg) (b : GReg) (ta : Bool) (tb : Bool)
  /-- FAMO (R391). Sends a remote atomic to a peer. -/
  | famo (d : GReg) (a : GReg) (b : GReg) (ta : Bool) (tb : Bool)
  /-- FFENCE (R392). Holds the strand until its remote operations complete and local accesses are package-performed. -/
  | ffence
  /-- FWAIT (R392). Waits as FFENCE, then returns and clears the collected remote status. -/
  | fwait (d : GReg)
  /-- GLAUNCH (R338). Hands a launch entry to the master for a device queue. -/
  | glaunch (a : GReg) (b : GReg) (ta : Bool) (tb : Bool)
  /-- C_NOP (R51). Compact alias of NOP. -/
  | cNop
  /-- C_HALT (R51). Compact alias of HALT. -/
  | cHalt
  /-- C_YIELD (R51). Compact alias of YIELD. -/
  | cYield
  /-- C_BRK (R51). Compact alias of BRK 0. -/
  | cBrk
  /-- C_IF (R36). Guard prefix that executes the next instruction only if the predicate is 1. -/
  | cIf (p : PReg)
  /-- C_IFN (R36). Guard prefix that executes the next instruction only if the predicate is 0. -/
  | cIfn (p : PReg)
  /-- C_MOV (R51). Compact register move. -/
  | cMov (d : GReg) (a : GReg)
  /-- C_ADDI (R51). Compact add of an 8-bit signed immediate. -/
  | cAddi (d : BitVec 4) (i : BitVec 8)
  /-- C_ADD (R51). Compact two-register add. -/
  | cAdd (d : GReg) (b : GReg)
  /-- C_SUB (R51). Compact two-register subtract. -/
  | cSub (d : GReg) (b : GReg)
  /-- C_LDS_D (R214). Compact dword scratchpad load. -/
  | cLdsD (d : BitVec 4) (a : BitVec 4) (o : BitVec 4)
  /-- C_STS_D (R214). Compact dword scratchpad store. -/
  | cStsD (d : BitVec 4) (a : BitVec 4) (o : BitVec 4)
  /-- C_BR (R51). Compact unconditional branch. -/
  | cBr (o : BitVec 12)
  /-- C_KSIG (R226). Compact semaphore signal. -/
  | cKsig (k : BitVec 8) (amt : BitVec 4)
  /-- C_KWAIT (R226). Compact semaphore wait. -/
  | cKwait (k : BitVec 8) (amt : BitVec 4)
  /-- C_TREL (R107). Compact TREL. -/
  | cTrel (t : TReg)
  /-- C_TMARK (R107). Compact TMARK. -/
  | cTmark (t : TReg)
  /-- C_SHLI (R51). Compact shift left by immediate. -/
  | cShli (d : GReg) (n : BitVec 6)
  /-- C_LI (R51). Compact load of an 8-bit zero-extended immediate. -/
  | cLi (d : BitVec 4) (i : BitVec 8)
  /-- COPYIN (R232). Engine job that copies global memory to scratchpad or a tile. -/
  | copyin (c : CoreId) (q : QueueId)
  /-- COPYOUT (R232). Engine job that copies scratchpad or a tile to global memory. -/
  | copyout (c : CoreId) (q : QueueId)
  /-- DECODE (R238). Engine job that expands a KPACK stream into local memory. -/
  | decode (c : CoreId) (q : QueueId)
  /-- ENCODE (R240). Engine job that compresses a local buffer into a KPACK stream. -/
  | encode (c : CoreId) (q : QueueId)
  /-- FILL (R233). Engine job that fills a destination with a 64-bit pattern. -/
  | fill (c : CoreId) (q : QueueId)
  /-- COMPACT (R241). Engine job that packs upper-bound slots into one global array. -/
  | compact (c : CoreId) (q : QueueId)
  /-- QFENCE (R234). Job that completes once recorded jobs of other queues have retired. -/
  | qfence (c : CoreId) (q : QueueId)
  /-- LAYSET (R230). Privileged job that installs a layout record in a SPACE's table. -/
  | layset (c : CoreId) (q : QueueId)
  /-- LAYSYNC (R230). Privileged job that makes engines discard cached layout records of a SPACE. -/
  | laysync (c : CoreId) (q : QueueId)
  /-- RESUME (R236). Job that continues a halted copy-kind job from its PCHUNK. -/
  | resume (c : CoreId) (q : QueueId)
  /-- GATHER (R318). Gather-engine job that fetches indexed table rows into scratchpad. -/
  | gather (c : CoreId) (q : QueueId)
  /-- SCATTER (R319). Gather-engine job that writes local rows to indexed table rows. -/
  | scatter (c : CoreId) (q : QueueId)
  /-- SCATADD (R320). Gather-engine job that sums rows per index and adds them atomically. -/
  | scatadd (c : CoreId) (q : QueueId)
  /-- MADD (R259). Merge-engine job that adds two compressed-row matrices. -/
  | madd (c : CoreId) (q : QueueId)
  /-- MPFX (R262). Merge-engine job that forms an exclusive prefix sum. -/
  | mpfx (c : CoreId) (q : QueueId)
  /-- MUNION (R259). Merge-engine job that forms the union or intersection of two sparsity patterns. -/
  | munion (c : CoreId) (q : QueueId)
  /-- RSEND (R394). Fabric job that sends scratchpad bytes to a peer's memory. -/
  | rsend (c : CoreId) (q : QueueId)
  /-- RFETCH (R394). Fabric job that fetches a peer's memory into scratchpad. -/
  | rfetch (c : CoreId) (q : QueueId)
  /-- RSIGNAL (R395). Fabric job that signals a semaphore of a core on a peer. -/
  | rsignal (c : CoreId) (q : QueueId)
  /-- CNOUT (R377). Content-named job that writes a tree's bytes to global memory. -/
  | cnout (c : CoreId) (q : QueueId)
  /-- CNIN (R378). Content-named job that builds a tree from global memory. -/
  | cnin (c : CoreId) (q : QueueId)
  /-- CNDIFF (R379). Content-named job that lists differing leaves of two trees. -/
  | cndiff (c : CoreId) (q : QueueId)
  /-- JOB_POP (R135). A queue pops its head job, checks dwords 1-3 and captures the layout record. -/
  | jobPop (c : CoreId) (q : QueueId)
  /-- SEMAPHORE_CYCLE (R140). The core applies a cycle's semaphore signals and serves waiters from each queue head. -/
  | semaphoreCycle (c : CoreId)
  /-- KTWAIT_TIMEOUT (R227). A KTWAIT's timeout expires and it reports failure. -/
  | ktwaitTimeout (w : Who) (til : Nat)
  /-- TILE_BIT_APPLY (R28). A deferred TREL or TMARK takes effect once its own accesses have completed. -/
  | tileBitApply (c : CoreId)
  /-- LEAVE_GRANT (R350). The die power manager grants the head request when headroom and budgets allow. -/
  | leaveGrant (d : DieId)
  /-- JOB_COMPLETE (R136). A running job ends with a status, retires, advances the watermark and signals. -/
  | jobComplete (c : CoreId) (q : QueueId)
  /-- JOBS_DROPPED (R137). Unstarted jobs of a halted queue are DROPPED once every strand has stopped. -/
  | jobsDropped (c : CoreId) (q : QueueId)
  /-- GREG_FILL (R25). A long-latency producer completes and fills its empty g register. -/
  | gregFill (w : Who) (d : GReg) (x : Dword)
  /-- WALK_COMPLETE (R288). A page walk ends and the handle becomes VALID or ABSENT. -/
  | walkComplete (w : Who) (h : HReg) (x : SpaceAddr)
  /-- WALK_RESTART (R288). A walk longer than 1000 ns from its first read starts again. -/
  | walkRestart (w : Who) (h : HReg) (x : SpaceAddr)
  /-- ENGINE_LEASE_RENEW (R294). An engine job re-walks a translation whose lease fell below one eighth. -/
  | engineLeaseRenew (c : CoreId) (q : QueueId)
  /-- CODE_FETCH (R35). A loop-buffer line returns from memory to a strand. -/
  | codeFetch (w : Who) (va : Dword)
  /-- HOME_ACCESS (R267). A home performs one access to a location, forwarding it under migration or returning it when expired. -/
  | homeAccess (a : Access)
  /-- CROSSDIE_WRITE_APPLY (R272). A held cross-die write is applied once its vector clock is satisfied. -/
  | crossdieWriteApply (d : DieId)
  /-- APPLIED_COUNT_REPORT (R272). A die reports the count of its writes applied at their homes, at least every 64 cycles. -/
  | appliedCountReport (d : DieId)
  /-- ATOMIC_WRITEBACK (R277). A nearer ordering point writes back a held location after 16 idle cycles or 64 atomics. -/
  | atomicWriteback (sc : Scope) (point : Nat) (loc : Nat)
  /-- FLUSH_COMPLETE (R221). A FLUSH completes when covered writes are visible to the host. -/
  | flushComplete (w : Who)
  /-- HOST_ACCESS (R281). A host load or store reaches the coherent window or bulk HBM. -/
  | hostAccess (pa : Nat) (n : Nat) (wr : Bool) (x : Dword)
  /-- CLUSTER_ACCESS (R245). A remote scratchpad access or operand fetch is served at the target core in slot 3. -/
  | clusterAccess (w : Who) (tgt : CoreId) (off : Nat) (n : Nat) (x : Option Dword) (d : GReg)
  /-- BARRIER_APPLY (R254). The barrier controller applies arriving CARV and CBSET operations and evaluates waiters. -/
  | barrierApply (k : ClusterId)
  /-- CTWAIT_TIMEOUT (R252). A CTWAIT reaches its deadline without its phase and reports failure. -/
  | ctwaitTimeout (w : Who) (til : Nat)
  /-- MULTICAST_TIMEOUT (R152). A multicast member waiting 2^20 cycles for a load ends its job FAULT 0x0053. -/
  | multicastTimeout (c : CoreId) (til : Nat)
  /-- MULTICAST_LOAD (R248). A B window load is fetched once and delivered to every multicast member. -/
  | multicastLoad (c : CoreId)
  /-- STEP_BEGIN (R153). A frame step begins and its address range is checked. -/
  | stepBegin (c : CoreId)
  /-- LANE_EVALUATE (R154). A reckoner lane evaluates a chunk of its row and places an item. -/
  | laneEvaluate (c : CoreId) (lane : Fin 64)
  /-- WINDOW_LOAD (R155). The B rows of a chunk land in the window. -/
  | windowLoad (c : CoreId)
  /-- ROD_TAKE_ITEM (R157). A rod takes the head item of its queue into bead 0. -/
  | rodTakeItem (c : CoreId) (rod : Fin 64)
  /-- ITEM_ARRIVAL (R158). An item's partials reach the deck and are added or buffered by ORD. -/
  | itemArrival (c : CoreId) (rod : Fin 64)
  /-- FRAME_JOB_COMPLETE (R159). A frame job completes after its last step and retires. -/
  | frameJobComplete (c : CoreId)
  /-- FRAME_JOB_PAUSE (R162). A running frame job pauses at a step boundary for pre-emption. -/
  | frameJobPause (c : CoreId)
  /-- DRAIN_ROW_WRITE (R184). A drain writes one output row to a tile or scratchpad. -/
  | drainRowWrite (c : CoreId)
  /-- MLUT_COPY_DONE (R172). The MLUT copy into the drain table completes. -/
  | mlutCopyDone (c : CoreId)
  /-- RECLAIM_LINE (R373). The reclaim engine drops a freed interior line's children and frees it. -/
  | reclaimLine
  /-- INSTANCE_DISPATCH (R306). The master dispatches the eligible instance of highest priority onto a core or cluster. -/
  | instanceDispatch
  /-- PREEMPT_REQUEST (R310). The master sets PREQ for selected running instances. -/
  | preemptRequest
  /-- INSTANCE_SAVE (R122). After every strand stops and started jobs finish, the instance is saved to its slots. -/
  | instanceSave (k : Nat)
  /-- INSTANCE_RESUME (R125). A saved instance is restored on a core or cluster and PREQ cleared. -/
  | instanceResume (k : Nat)
  /-- SUSPEND_TIMEOUT (R115). A suspended instance is saved after 100 us on its core. -/
  | suspendTimeout (k : Nat)
  /-- INSTANCE_RETIRE (R39). An instance retires when all strands are stopped and every job has retired. -/
  | instanceRetire (k : Nat)
  /-- SAFEPOINT_OVERRUN (R119). A strand with SPCNT of 4096 or more under PREQ takes a fatal overrun. -/
  | safepointOverrun (w : Who)
  /-- DEADLOCK_FAULT (R126). The deadlock count reaches 2^20 and the instance takes a full/empty deadlock fault. -/
  | deadlockFault (c : CoreId)
  /-- DOORBELL_RECORD (R117). A fault doorbell write of a record address applies its handler action. -/
  | doorbellRecord (n : Nat) (x : Dword)
  /-- RESTART (R326). A doorbell write of 1 clears STOPPED so the region dispatches again. -/
  | restart (n : Nat)
  /-- RELOAD (R326). A doorbell write of 3 re-reads a region's blocks and those beneath it. -/
  | reload (n : Nat)
  /-- WQ_CONSUME (R329). The master consumes the next host work queue entry when the tail exceeds CONS. -/
  | wqConsume (q : Nat)
  /-- DEVQ_CONSUME (R337). The master takes the next entry of a device queue. -/
  | devqConsume (q : Nat)
  /-- LAUNCH (R334). A LAUNCH entry starts a replay of a graph with patched parameters. -/
  | launch (q : Nat) (e : Dword)
  /-- STRUCT (R334). A STRUCT entry patches a graph's node records when nothing is in flight. -/
  | struct (q : Nat) (e : Dword)
  /-- CONDITIONAL_READ (R336). A conditional node reads its predicate word and skips the unchosen list. -/
  | conditionalRead (r : Nat) (i : Nat)
  /-- REPLAY_DONE (R335). Every node of a replay is complete; STATUS and COMPL are written and the slot freed. -/
  | replayDone (r : Nat)
  /-- LOAD_FIGURE (R340). Every 10 us a donor sends its load figure in idle flits. -/
  | loadFigure
  /-- STEAL_REQUEST (R340). An idle package sends a steal request to its most loaded neighbour. -/
  | stealRequest
  /-- STEAL_GRANT (R340). A donor grants instances it would dispatch last. -/
  | stealGrant (p : Port) (slots : Nat)
  /-- STOLEN_ARRIVAL (R341). A stolen instance arrives and is placed in region GUEST. -/
  | stolenArrival (p : Port) (x : Stolen)
  /-- STEAL_RETIRE_REPORT (R341). The thief reports a stolen instance's retirement to the donor. -/
  | stealRetireReport (k : Nat)
  /-- LCU_MEASURE (R290). Every 1 us a die measures its TIME copy against the master's. -/
  | lcuMeasure (d : DieId) (ofs : Int)
  /-- SKEW_RESYNC (R292). A die resynchronises after a skew fault and resumes its walkers. -/
  | skewResync (d : DieId)
  /-- SKEW_RESYNC_TIMEOUT (R292). Resynchronisation fails within 100 us and the die is fenced. -/
  | skewResyncTimeout (d : DieId)
  /-- DIE_FENCE (R313). A die is fenced, its work stopped and its unapplied writes discarded. -/
  | dieFence (d : DieId)
  /-- MASTER_ELECTION (R313). The lowest-numbered healthy die's distributor becomes master from its replica. -/
  | masterElection
  /-- MIGRATION_ARM (R297). A STATE write of 1 to an IDLE migration entry starts the copy. -/
  | migrationArm (d : DieId) (e : MigId) (x : Dword)
  /-- MIGRATION_REMOVE (R297). A STATE write of 0 to a FORWARDING entry removes it. -/
  | migrationRemove (d : DieId) (e : MigId)
  /-- MIGRATION_LINE_COPY (R298). The controller copies the line at PROG from OLD to NEW. -/
  | migrationLineCopy (d : DieId) (e : MigId)
  /-- MODULE_START (R346). The module runs its sixteen start-up steps after power-on or restart. -/
  | moduleStart (u : Startup)
  /-- TAMPER_ALARM (R352). A tamper alarm applies the ALARMPOL TAMPER actions. -/
  | tamperAlarm
  /-- VOLTAGE_GLITCH (R352). A voltage glitch alarm applies the VGLITCH actions. -/
  | voltageGlitch
  /-- CLOCK_GLITCH (R352). A clock glitch alarm applies the CGLITCH actions. -/
  | clockGlitch
  /-- COOLANT_THROTTLE (R350). Coolant outlet temperature passing its limit sets THROT and halves the effective cap. -/
  | coolantThrottle (d : DieId)
  /-- PWRCAP_WRITE (R350). A CAP write changes the die cap and refuses waiting requests that exceed it. -/
  | pwrcapWrite (d : DieId) (x : Dword)
  /-- SECSTAT_ADV (R353). Writing ADV raises the fused rollback counter to the loaded image's number. -/
  | secstatAdv
  /-- ALARMPOL_WRITE (R352). A write to ALARMPOL sets the alarm actions unless LOCK is set. -/
  | alarmpolWrite (x : Dword)
  /-- REGISTER_WRITE (R5). A write to a management register without behaviour of its own, under its access codes. -/
  | registerWrite (off : Nat) (x : Dword) (host : Bool)
  /-- FABRD (R355). Mailbox command that returns FABCFG or a PORTSTAT. -/
  | fabrd
  /-- FABWR (R355). Mailbox command that writes FABCFG. -/
  | fabwr
  /-- KEMPUB (R355). Mailbox command that returns the ML-KEM-768 encapsulation key. -/
  | kempub
  /-- KEKSET (R356). Mailbox command that decapsulates a ciphertext into the key-encryption key. -/
  | kekset
  /-- LINKKEY (R355). Mailbox command that installs a wrapped link key and switch point in a port slot. -/
  | linkkey
  /-- CNKEY (R355). Mailbox command that installs a wrapped content-named key in a slot. -/
  | cnkey
  /-- CNKEYCLR (R355). Mailbox command that empties a content-named key slot. -/
  | cnkeyclr
  /-- SPARERET (R355). Mailbox command that tests fibres and returns passing spares to the pool. -/
  | spareret
  /-- QUOTE (R357). Mailbox command that returns a signed attestation quote. -/
  | quote
  /-- MAILBOX_COMPLETE (R354). A mailbox command completes, writing its reply, RLEN, RESULT and MSEQ and clearing BUSY. -/
  | mailboxComplete
  /-- FLIT_SEND (R401). A sublink sends its next flit, switching key slot with a MARKER at SWPT. -/
  | flitSend (p : Port) (d : DieId)
  /-- FLIT_RECEIVE (R402). A receiver authenticates a flit, accepting it or dropping it and sending a NAK. -/
  | flitReceive (p : Port) (d : DieId) (f : Flit)
  /-- NAK_RECEIVE (R402). A sender receiving a NAK resends from the retry buffer. -/
  | nakReceive (p : Port) (d : DieId) (ack : BitVec 12)
  /-- RETRAIN_DONE (R402). A retrain succeeds and resending resumes. -/
  | retrainDone (p : Port) (d : DieId)
  /-- RETRAIN_TIMEOUT (R402). A retrain fails within 100 us and the sublink goes down. -/
  | retrainTimeout (p : Port) (d : DieId) (til : Nat)
  /-- LANE_REPAIR (R403). A lane's error rate passes the limit and a spare is assigned or the width steps down. -/
  | laneRepair (p : Port) (tx : Bool) (d : DieId)
  /-- WRITE (R387). A WRITE packet arrives and is translated and performed at the destination. -/
  | write (d : DieId) (x : Packet)
  /-- READ (R387). A READ packet arrives and is translated and performed at the destination. -/
  | read (d : DieId) (x : Packet)
  /-- READRESP (R391). A read response arrives and completes the requester's operation. -/
  | readresp (x : Packet)
  /-- ATOMIC (R391). An ATOMIC packet is performed indivisibly at the destination home. -/
  | atomic (d : DieId) (x : Packet)
  /-- ATOMRESP (R391). An atomic response arrives and completes the FAMO. -/
  | atomresp (x : Packet)
  /-- SIGNAL (R395). A SIGNAL packet signals a target core's semaphore or answers NOTARGET. -/
  | signal (d : DieId) (x : Packet)
  /-- ACK (R394). A write acknowledgement arrives and completes its packet. -/
  | ack (x : Packet)
  /-- STEAL (R399). A STEAL packet carrying stealing items arrives. -/
  | steal (p : Port) (x : StealMsg)
  /-- HELD_REQUEST_TIMEOUT (R388). A held request is answered REMOTEFAULT 1 ms after its first arrival. -/
  | heldRequestTimeout (d : DieId) (n : Nat)
  /-- REMOTE_TIMEOUT (R389). A remote operation with no answer 3 ms after issue ends UNREACHABLE. -/
  | remoteTimeout (t : Word)
  /-- CLUSTER_NETWORK_FLIT_FAILURE (R264). A cluster-network flit fails its check and the port resends it; after 16 consecutive failures the cluster is removed from the pool and its instances terminate. -/
  | clusterNetworkFlitFailure (w : Who)
  /-- COOLANT_BELOW_LIMIT (R350). The coolant outlet falls back below its limit, THROT clears and the effective cap returns to CAP. -/
  | coolantBelowLimit (d : DieId)
  /-- CONTENT_NAMED_OPERATION (R368). The content-named engine performs a CNLA, CNHASH, CNLD, CNHOLD or CNDROP at the name-table homes as one step of the serial order, then completes it and writes CNST. -/
  | contentNamedOperation (x : CnReq)
  /-- VLDG_LANES_ARRIVE (R205). The lane responses of a VLDG return and write vd, releasing readers held until all 64 lanes have arrived. -/
  | vldgLanesArrive (w : Who) (d : VReg) (mask : Dword)
  /-- REPLICA_ACKNOWLEDGE (R303). A replica distributor acknowledges a change to the ready pool, and the change takes effect once every healthy replica has acknowledged it. -/
  | replicaAcknowledge (d : DieId)
deriving DecidableEq, Repr, Inhabited

end Sys2Proof
end

