-- ==== Sys2Proof/WellFormed.lean ====
section
/-!
DEFINITION. Which instruction terms have an encoding the part accepts: the checks of R42, R44, R47 to R52, R190, R191,
R197, R200, R209, R165 to R182 and R367 that the operand types of `Instr` do not make already.
-/

namespace Sys2Proof

/-- Types of the saturating adds and the shifts (R191). -/
def intTypes : List VType := [.i32, .ui32, .i16, .i8, .ui8]
/-- Types of `VSRA` (R191). -/
def sraTypes : List VType := [.i32, .i16, .i8]
/-- Types of `VABS` and `VNEG` (R191). -/
def absTypes : List VType := [.i32, .f32, .bf16, .f16, .i16, .i8]
/-- Types of the compares, `VEXT`, the reductions and the scan (R191). -/
def wordTypes : List VType := [.i32, .ui32, .f32]
/-- Types of `VLUT` (R191, R199). -/
def lutTypes : List VType := [.ui32, .ui8]
/-- Types of `VTACC` and `VDOT4` (R191). -/
def byteTypes : List VType := [.i8, .ui8]

/-- Elements per lane (R188). -/
def VType.perLane : VType → Nat
  | .i32 | .ui32 | .f32 => 1
  | .bf16 | .f16 | .i16 => 2
  | .i8 | .ui8 => 4

/-- A legal `VCVT` pair (R197): the types differ, a widening part lies in the source, and no widening goes from
BF16 or F16 to a 32-bit integer. -/
def vcvtLegal (rm : BitVec 2) (src ty : VType) : Bool :=
  src != ty &&
  (src.perLane ≤ ty.perLane ||
    (decide (rm.toNat < src.perLane / ty.perLane) &&
      !((src == .bf16 || src == .f16) && (ty == .i32 || ty == .ui32))))

/-- An `m` field that is read: 0 to 7 (R190). -/
def mField (x : BitVec 5) : Bool := decide (x.toNat < 8)
/-- An `m` field that is written: 1 to 7 (R190). -/
def mWritten (x : BitVec 5) : Bool := decide (x.toNat < 8) && x != 0

/-- The fields of `VMSK` by its function (R209). -/
def vmskLegal (d a b : BitVec 5) : MskFunc → Bool
  | .and | .or | .xor | .andn => mWritten d && mField a && mField b
  | .not => mWritten d && mField a && b == 0
  | .gtom | .first => mWritten d && b == 0
  | .mtog => mField a && b == 0

/-- Special registers that `MTS` may name (R21, R22, R55): RC, VC, FST, ERRC and SPACE. -/
def mtsWritable (n : BitVec 6) : Bool := n == 5 || n == 6 || n == 7 || n == 8 || n == 11

/-- A format that `MGO` accepts under an accumulate mode (R49, R174). -/
def fmtOk : Acc → Fmt → Bool
  | .int, f => f == .int8 || f == .uint8 || f == .int4 || f == .int2t
  | _, f => f == .fp16 || f == .bf16 || f == .e4m3 || f == .e5m2 || f == .e2m1s

/-- The first register of a pair: even (R367). -/
def evenPair (d : GReg) : Bool := d.toNat % 2 == 0

/-- The instruction has an encoding that the part accepts (R52). Steps that are no instruction have no check. -/
def Instr.wf : Instr → Bool
  | .add _ _ _ _ _ => true
  | .sub _ _ _ _ _ => true
  | .mul _ _ _ _ _ => true
  | .mulhs _ _ _ _ _ => true
  | .mulhu _ _ _ _ _ => true
  | .divs _ _ _ _ _ => true
  | .divu _ _ _ _ _ => true
  | .rems _ _ _ _ _ => true
  | .remu _ _ _ _ _ => true
  | .and _ _ _ _ _ => true
  | .or _ _ _ _ _ => true
  | .xor _ _ _ _ _ => true
  | .andn _ _ _ _ _ => true
  | .shl _ _ _ _ _ => true
  | .shr _ _ _ _ _ => true
  | .sra _ _ _ _ _ => true
  | .mins _ _ _ _ _ => true
  | .minu _ _ _ _ _ => true
  | .maxs _ _ _ _ _ => true
  | .maxu _ _ _ _ _ => true
  | .clz _ _ _ => true
  | .ctz _ _ _ => true
  | .popc _ _ _ => true
  | .rol _ _ _ _ _ => true
  | .bfx _ _ _ _ _ => true
  | .bfi _ _ _ _ _ => true
  | .shli _ _ _ _ => true
  | .shri _ _ _ _ => true
  | .srai _ _ _ _ => true
  | .addx8 _ _ _ _ _ => true
  | .addi _ _ _ => true
  | .andi _ _ _ => true
  | .ori _ _ _ => true
  | .xori _ _ _ => true
  | .lui _ _ => true
  | .cmpeq _ _ _ _ _ => true
  | .cmpne _ _ _ _ _ => true
  | .cmplt _ _ _ _ _ => true
  | .cmpltu _ _ _ _ _ => true
  | .cmple _ _ _ _ _ => true
  | .cmpleu _ _ _ _ _ => true
  | .pand _ _ _ => true
  | .por _ _ _ => true
  | .pxor _ _ _ => true
  | .pandn _ _ _ => true
  | .pnot _ _ => true
  | .pmov _ _ => true
  | .pget _ => true
  | .pset _ _ => true
  | .cmpi _ _ _ _ => true
  | .br _ _ _ => true
  | .call _ => true
  | .jr _ _ => true
  | .jalr _ _ _ => true
  | .ret => true
  | .spawn _ _ _ _ _ => true
  | .halt => true
  | .yield => true
  | .setrpt _ _ => true
  | .trap _ => true
  | .brk _ => true
  | .nop => true
  | .waitstr _ => true
  | .mfs _ n => decide (n.toNat ≤ 18)
  | .mts n _ _ => mtsWritable n
  | .safe _ => true
  | .lit _ _ => true
  | .trel _ => true
  | .tmark _ => true
  | .tstat _ _ => true
  | .tclr _ => true
  | .lds _ _ _ _ => true
  | .sts _ _ _ _ => true
  | .ldg _ _ _ _ _ => true
  | .stg _ _ _ _ _ => true
  | .xlate _ _ _ => true
  | .probe _ _ _ _ => true
  | .hrel _ => true
  | .hinfo _ _ => true
  | .hrenew _ => true
  | .amo d _ _ op _ z _ => !(z && (op == .fadd || op == .fmin || op == .fmax)) && !(op == .cas && d == 63)
  | .fence _ => true
  | .flush _ _ _ _ => true
  | .push a _ _ => decide (a.toNat ≤ 60)
  | .qroom _ _ => true
  | .wmark _ _ => true
  | .wmwait _ _ _ => true
  | .bacq _ _ => true
  | .brel _ _ _ => true
  | .ksig g _ amt tg => amt == 0 || (g == 0 && !tg)
  | .kwait g _ amt tg => amt == 0 || (g == 0 && !tg)
  | .ktwait _ _ amt _ => amt != 0
  | .kread _ _ => true
  | .kset _ _ _ => true
  | .carv _ _ => true
  | .cwait _ _ _ => true
  | .ctwait _ _ _ => true
  | .cbset _ _ _ => true
  | .vadd _ _ _ _ _ => true
  | .vsub _ _ _ _ _ => true
  | .vmul _ _ _ _ _ => true
  | .vfma _ _ _ _ _ => true
  | .vmin _ _ _ _ _ => true
  | .vmax _ _ _ _ _ => true
  | .vsadd _ _ _ _ ty => intTypes.contains ty
  | .vssub _ _ _ _ ty => intTypes.contains ty
  | .vand _ _ _ _ => true
  | .vor _ _ _ _ => true
  | .vxor _ _ _ _ => true
  | .vshl _ _ _ _ ty => intTypes.contains ty
  | .vshr _ _ _ _ ty => intTypes.contains ty
  | .vsra _ _ _ _ ty => sraTypes.contains ty
  | .vabs _ _ _ ty => absTypes.contains ty
  | .vneg _ _ _ ty => absTypes.contains ty
  | .vcmpeq d _ _ _ ty => d != 0 && wordTypes.contains ty
  | .vcmplt d _ _ _ ty => d != 0 && wordTypes.contains ty
  | .vcmple d _ _ _ ty => d != 0 && wordTypes.contains ty
  | .vsel _ _ _ _ => true
  | .vmov _ _ _ => true
  | .vbcast _ _ _ _ => true
  | .vext _ _ _ _ ty => wordTypes.contains ty
  | .vperm _ _ _ _ => true
  | .vcvt _ _ rm src _ ty => vcvtLegal rm src ty
  | .vrcp _ _ _ => true
  | .vrsq _ _ _ => true
  | .vexp2 _ _ _ => true
  | .vlut _ _ _ _ ty => lutTypes.contains ty
  | .vunpk3 _ _ _ h _ => decide (h.toNat ≤ 4)
  | .vtacc _ _ _ _ ty => byteTypes.contains ty
  | .vdot4 _ _ _ _ ty => byteTypes.contains ty
  | .vlds _ _ _ _ => true
  | .vsts _ _ _ _ => true
  | .vldt _ _ _ _ => true
  | .vstt _ _ _ _ => true
  | .vldg _ _ _ _ => true
  | .vstg _ _ _ _ => true
  | .vgaths _ _ _ _ => true
  | .vscats _ _ _ _ => true
  | .vrsum _ _ _ ty => wordTypes.contains ty
  | .vrmax _ _ _ ty => wordTypes.contains ty
  | .vrmin _ _ _ ty => wordTypes.contains ty
  | .vpfx _ _ _ ty => wordTypes.contains ty
  | .vmsk d a b f => vmskLegal d a b f
  | .vpop _ _ => true
  | .vcomp _ _ _ => true
  | .viota _ _ => true
  | .nset n _ _ => decide (n.toNat ≤ 23)
  | .nclr => true
  | .msrc n _ _ => decide (n.toNat ≤ 5)
  | .mdst _ _ _ _ _ => true
  | .mepi _ _ _ => true
  | .mmode c w _ _ => decide (c.toNat ≤ 4) && decide (w.toNat ≤ 2)
  | .mgo fa fb acc _ _ => fmtOk acc fa && fmtOk acc fb
  | .mwait => true
  | .mdrain _ ds _ _ _ a ipl satm ta => (ipl || !satm) && (ds || (decide (a.toNat < 16) && !ta))
  | .mazero _ => true
  | .mscacc _ sfa sfb nsa nsb a b ta tb => (!nsa || (!sfa && a == 0 && !ta)) && (!nsb || (!sfb && b == 0 && !tb))
  | .mstat _ => true
  | .mlut _ _ => true
  | .rst _ _ _ _ => true
  | .rld _ _ _ _ => true
  | .cnlaL d _ _ _ => evenPair d && d != 0
  | .cnlaI d _ _ _ => evenPair d && d != 0
  | .cnld d _ _ _ => evenPair d
  | .cnhold d _ => evenPair d
  | .cndrop d _ => evenPair d
  | .rswap _ _ _ _ => true
  | .rget d _ _ => d.toNat % 4 == 0 && d != 0
  | .cnhash _ _ _ _ => true
  | .fst _ _ _ _ _ => true
  | .fld _ _ _ _ _ => true
  | .famo _ _ _ _ _ => true
  | .ffence => true
  | .fwait _ => true
  | .glaunch _ _ _ _ => true
  | .cNop => true
  | .cHalt => true
  | .cYield => true
  | .cBrk => true
  | .cIf _ => true
  | .cIfn _ => true
  | .cMov _ _ => true
  | .cAddi _ _ => true
  | .cAdd _ _ => true
  | .cSub _ _ => true
  | .cLdsD _ _ _ => true
  | .cStsD _ _ _ => true
  | .cBr _ => true
  | .cKsig _ amt => amt != 0
  | .cKwait _ amt => amt != 0
  | .cTrel _ => true
  | .cTmark _ => true
  | .cShli _ _ => true
  | .cLi _ _ => true
  | .copyin _ _ => true
  | .copyout _ _ => true
  | .decode _ _ => true
  | .encode _ _ => true
  | .fill _ _ => true
  | .compact _ _ => true
  | .qfence _ _ => true
  | .layset _ _ => true
  | .laysync _ _ => true
  | .resume _ _ => true
  | .gather _ _ => true
  | .scatter _ _ => true
  | .scatadd _ _ => true
  | .madd _ _ => true
  | .mpfx _ _ => true
  | .munion _ _ => true
  | .rsend _ _ => true
  | .rfetch _ _ => true
  | .rsignal _ _ => true
  | .cnout _ _ => true
  | .cnin _ _ => true
  | .cndiff _ _ => true
  | .jobPop _ _ => true
  | .semaphoreCycle _ => true
  | .ktwaitTimeout _ _ => true
  | .tileBitApply _ => true
  | .leaveGrant _ => true
  | .jobComplete _ _ => true
  | .jobsDropped _ _ => true
  | .gregFill _ _ _ => true
  | .walkComplete _ _ _ => true
  | .walkRestart _ _ _ => true
  | .engineLeaseRenew _ _ => true
  | .codeFetch _ _ => true
  | .homeAccess _ => true
  | .crossdieWriteApply _ => true
  | .appliedCountReport _ => true
  | .atomicWriteback _ _ _ => true
  | .flushComplete _ => true
  | .hostAccess _ _ _ _ => true
  | .clusterAccess _ _ _ _ _ _ => true
  | .barrierApply _ => true
  | .ctwaitTimeout _ _ => true
  | .multicastTimeout _ _ => true
  | .multicastLoad _ => true
  | .stepBegin _ => true
  | .laneEvaluate _ _ => true
  | .windowLoad _ => true
  | .rodTakeItem _ _ => true
  | .itemArrival _ _ => true
  | .frameJobComplete _ => true
  | .frameJobPause _ => true
  | .drainRowWrite _ => true
  | .mlutCopyDone _ => true
  | .reclaimLine => true
  | .instanceDispatch => true
  | .preemptRequest => true
  | .instanceSave _ => true
  | .instanceResume _ => true
  | .suspendTimeout _ => true
  | .instanceRetire _ => true
  | .safepointOverrun _ => true
  | .deadlockFault _ => true
  | .doorbellRecord _ _ => true
  | .restart _ => true
  | .reload _ => true
  | .wqConsume _ => true
  | .devqConsume _ => true
  | .launch _ _ => true
  | .struct _ _ => true
  | .conditionalRead _ _ => true
  | .replayDone _ => true
  | .loadFigure => true
  | .stealRequest => true
  | .stealGrant _ _ => true
  | .stolenArrival _ _ => true
  | .stealRetireReport _ => true
  | .lcuMeasure _ _ => true
  | .skewResync _ => true
  | .skewResyncTimeout _ => true
  | .dieFence _ => true
  | .masterElection => true
  | .migrationArm _ _ _ => true
  | .migrationRemove _ _ => true
  | .migrationLineCopy _ _ => true
  | .moduleStart _ => true
  | .tamperAlarm => true
  | .voltageGlitch => true
  | .clockGlitch => true
  | .coolantThrottle _ => true
  | .pwrcapWrite _ _ => true
  | .secstatAdv => true
  | .alarmpolWrite _ => true
  | .registerWrite _ _ _ => true
  | .fabrd => true
  | .fabwr => true
  | .kempub => true
  | .kekset => true
  | .linkkey => true
  | .cnkey => true
  | .cnkeyclr => true
  | .spareret => true
  | .quote => true
  | .mailboxComplete => true
  | .flitSend _ _ => true
  | .flitReceive _ _ _ => true
  | .nakReceive _ _ _ => true
  | .retrainDone _ _ => true
  | .retrainTimeout _ _ _ => true
  | .laneRepair _ _ _ => true
  | .write _ _ => true
  | .read _ _ => true
  | .readresp _ => true
  | .atomic _ _ => true
  | .atomresp _ => true
  | .signal _ _ => true
  | .ack _ => true
  | .steal _ _ => true
  | .heldRequestTimeout _ _ => true
  | .remoteTimeout _ => true
  | .clusterNetworkFlitFailure _ => true
  | .coolantBelowLimit _ => true
  | .contentNamedOperation _ => true
  | .vldgLanesArrive _ _ _ => true
  | .replicaAcknowledge _ => true

/-- `Instr.wf` as a proposition. -/
abbrev Instr.WellFormed (i : Instr) : Prop := i.wf = true

end Sys2Proof
end

