-- ==== Sys2Proof/Decode.lean ====
section
/-!
DEFINITION. Decoding halfwords to instructions (R40 to R52) and, after it, the encoder written from the same tables.
-/

namespace Sys2Proof

/-- Why a bit pattern is no instruction (R52); each is the illegal-instruction trap of the strand that fetched it. -/
inductive Reject where
  /-- a reserved major, 0x0D to 0x0F -/
  | reservedMajor
  /-- an unused minor -/
  | unusedMinor
  /-- a nonzero reserved field or trap bit -/
  | reservedField
  /-- a field beyond its stated range, or a type, format or combination that the description refuses -/
  | fieldRange
  /-- a compact code or subcode not listed (R51) -/
  | badCompact
  /-- fewer halfwords than the instruction takes (R33) -/
  | cutShort
deriving DecidableEq, Repr, Inhabited

/-- What a decoder answers. -/
abbrev Dec := Except Reject Instr

/-! ### Codes of the enumerated fields -/

def Size.ofBits : BitVec 2 → Size
  | 0 => .b | 1 => .h | 2 => .w | _ => .d
def Size.toBits : Size → BitVec 2
  | .b => 0 | .h => 1 | .w => 2 | .d => 3
def Scope.ofBits : BitVec 2 → Scope
  | 0 => .core | 1 => .cluster | 2 => .die | _ => .package
def Scope.toBits : Scope → BitVec 2
  | .core => 0 | .cluster => 1 | .die => 2 | .package => 3
def Cond.ofBits : BitVec 3 → Cond
  | 0 => .eq | 1 => .ne | 2 => .lt | 3 => .ltu | 4 => .le | 5 => .leu | 6 => .gt | _ => .gtu
def Cond.toBits : Cond → BitVec 3
  | .eq => 0 | .ne => 1 | .lt => 2 | .ltu => 3 | .le => 4 | .leu => 5 | .gt => 6 | .gtu => 7
/-- AMO operation codes (R42); 13 to 15 are unused. -/
def AmoOp.ofBits : BitVec 4 → Option AmoOp
  | 0 => some .add | 1 => some .and | 2 => some .or | 3 => some .xor | 4 => some .mins | 5 => some .minu
  | 6 => some .maxs | 7 => some .maxu | 8 => some .swap | 9 => some .cas | 10 => some .fadd | 11 => some .fmin
  | 12 => some .fmax | _ => none
def AmoOp.toBits : AmoOp → BitVec 4
  | .add => 0 | .and => 1 | .or => 2 | .xor => 3 | .mins => 4 | .minu => 5 | .maxs => 6 | .maxu => 7 | .swap => 8
  | .cas => 9 | .fadd => 10 | .fmin => 11 | .fmax => 12
def VType.ofBits : BitVec 3 → VType
  | 0 => .i32 | 1 => .ui32 | 2 => .f32 | 3 => .bf16 | 4 => .f16 | 5 => .i16 | 6 => .i8 | _ => .ui8
def VType.toBits : VType → BitVec 3
  | .i32 => 0 | .ui32 => 1 | .f32 => 2 | .bf16 => 3 | .f16 => 4 | .i16 => 5 | .i8 => 6 | .ui8 => 7
def MskFunc.ofBits : BitVec 3 → MskFunc
  | 0 => .and | 1 => .or | 2 => .xor | 3 => .andn | 4 => .not | 5 => .gtom | 6 => .mtog | _ => .first
def MskFunc.toBits : MskFunc → BitVec 3
  | .and => 0 | .or => 1 | .xor => 2 | .andn => 3 | .not => 4 | .gtom => 5 | .mtog => 6 | .first => 7
/-- Element format codes (R49); 10 to 15 are reserved. -/
def Fmt.ofBits : BitVec 4 → Option Fmt
  | 0 => some .fp16 | 1 => some .bf16 | 2 => some .e4m3 | 3 => some .e5m2 | 4 => some .e2m1s | 5 => some .int8
  | 6 => some .uint8 | 7 => some .int4 | 8 => some .int2t | 9 => some .fp32 | _ => none
def Fmt.toBits : Fmt → BitVec 4
  | .fp16 => 0 | .bf16 => 1 | .e4m3 => 2 | .e5m2 => 3 | .e2m1s => 4 | .int8 => 5 | .uint8 => 6 | .int4 => 7
  | .int2t => 8 | .fp32 => 9
/-- Accumulate modes (R173); 3 to 15 are reserved. -/
def Acc.ofBits : BitVec 4 → Option Acc
  | 0 => some .fp | 1 => some .fps | 2 => some .int | _ => none
def Acc.toBits : Acc → BitVec 4
  | .fp => 0 | .fps => 1 | .int => 2

/-! ### Fields of a 32-bit instruction (R42) -/

def fMajor (w : Word) : BitVec 5 := w.extractLsb' 24 5
def fD (w : Word) : BitVec 6 := w.extractLsb' 18 6
def fA (w : Word) : BitVec 6 := w.extractLsb' 12 6
def fB (w : Word) : BitVec 6 := w.extractLsb' 6 6
def fMinor (w : Word) : BitVec 4 := w.extractLsb' 2 4
def fTA (w : Word) : Bool := w.getLsbD 1
def fTB (w : Word) : Bool := w.getLsbD 0
def fVD (w : Word) : BitVec 5 := w.extractLsb' 19 5
def fVA (w : Word) : BitVec 5 := w.extractLsb' 14 5
def fVB (w : Word) : BitVec 5 := w.extractLsb' 9 5
def fMask (w : Word) : BitVec 3 := w.extractLsb' 6 3
def fType (w : Word) : BitVec 3 := w.extractLsb' 3 3
def fOp (w : Word) : BitVec 3 := w.extractLsb' 0 3

/-- The instruction when its reserved fields are zero (R42). -/
def resv (zero : Bool) (i : Instr) : Dec := if zero then .ok i else .error .reservedField
/-- The instruction when a field lies in its range (R52). -/
def rang (ok : Bool) (i : Instr) : Dec := if ok then .ok i else .error .fieldRange

/-- Low four bits of a field that names a handle or a tile. -/
def lo4 (x : BitVec 6) : BitVec 4 := x.extractLsb' 0 4
/-- Low three bits of a field that names a queue or a ring. -/
def lo3 (x : BitVec 6) : BitVec 3 := x.extractLsb' 0 3
/-- The field is below 16. -/
def in4 (x : BitVec 6) : Bool := x.extractLsb' 4 2 == 0
/-- The field is below 8. -/
def in3 (x : BitVec 6) : Bool := x.extractLsb' 3 3 == 0

/-! ### One decoder per major (R46) -/

/-- INT.R (R88, R89). -/
def decIntR (w : Word) : Dec :=
  let d := fD w; let a := fA w; let b := fB w; let t := fTA w; let u := fTB w
  match fMinor w with
  | 0 => .ok (.add d a b t u) | 1 => .ok (.sub d a b t u) | 2 => .ok (.mul d a b t u)
  | 3 => .ok (.mulhs d a b t u) | 4 => .ok (.mulhu d a b t u) | 5 => .ok (.divs d a b t u)
  | 6 => .ok (.divu d a b t u) | 7 => .ok (.rems d a b t u) | 8 => .ok (.remu d a b t u)
  | 9 => .ok (.and d a b t u) | 10 => .ok (.or d a b t u) | 11 => .ok (.xor d a b t u)
  | 12 => .ok (.andn d a b t u) | 13 => .ok (.shl d a b t u) | 14 => .ok (.shr d a b t u)
  | _ => .ok (.sra d a b t u)

/-- INT.X (R88, R89). -/
def decIntX (w : Word) : Dec :=
  let d := fD w; let a := fA w; let b := fB w; let t := fTA w; let u := fTB w
  match fMinor w with
  | 0 => .ok (.mins d a b t u) | 1 => .ok (.minu d a b t u) | 2 => .ok (.maxs d a b t u)
  | 3 => .ok (.maxu d a b t u)
  | 4 => resv (b == 0 && !u) (.clz d a t) | 5 => resv (b == 0 && !u) (.ctz d a t)
  | 6 => resv (b == 0 && !u) (.popc d a t) | 7 => .ok (.rol d a b t u) | 8 => .ok (.bfx d a b t u)
  | 9 => .ok (.bfi d a b t u) | 10 => resv (!u) (.shli d a b t) | 11 => resv (!u) (.shri d a b t)
  | 12 => resv (!u) (.srai d a b t) | 13 => .ok (.addx8 d a b t u)
  | _ => .error .unusedMinor

/-- PRED.R (R94). -/
def decPred (w : Word) : Dec :=
  let d := fD w; let a := fA w; let b := fB w; let t := fTA w; let u := fTB w
  match fMinor w with
  | 0 => .ok (.cmpeq d a b t u) | 1 => .ok (.cmpne d a b t u) | 2 => .ok (.cmplt d a b t u)
  | 3 => .ok (.cmpltu d a b t u) | 4 => .ok (.cmple d a b t u) | 5 => .ok (.cmpleu d a b t u)
  | 6 => resv (!t && !u) (.pand d a b) | 7 => resv (!t && !u) (.por d a b)
  | 8 => resv (!t && !u) (.pxor d a b) | 9 => resv (!t && !u) (.pandn d a b)
  | 10 => resv (b == 0 && !t && !u) (.pnot d a) | 11 => resv (b == 0 && !t && !u) (.pmov d a)
  | 12 => resv (a == 0 && b == 0 && !t && !u) (.pget d) | 13 => resv (d == 0 && b == 0 && !u) (.pset a t)
  | _ => .error .unusedMinor

/-- CTRL.R (R47, R96 to R104). -/
def decCtrl (w : Word) : Dec :=
  let d := fD w; let a := fA w; let b := fB w; let t := fTA w; let u := fTB w
  let bare := d == 0 && a == 0 && b == 0 && !t && !u
  match fMinor w with
  | 0 => resv (d == 0 && b == 0 && !u) (.jr a t) | 1 => resv (b == 0 && !u) (.jalr d a t)
  | 2 => resv bare .ret | 3 => .ok (.spawn d a b t u) | 4 => resv bare .halt | 5 => resv bare .yield
  | 6 => resv (d == 0 && b == 0 && !u) (.setrpt a t)
  | 7 => resv (d == 0 && a == 0 && !t && !u) (.trap b) | 8 => resv (d == 0 && a == 0 && !t && !u) (.brk b)
  | 9 => resv bare .nop
  | 10 => resv (d == 0 && a == 0 && !t && !u && b.extractLsb' 3 3 == 0 && !b.getLsbD 0)
      (.waitstr (b.extractLsb' 1 2))
  | _ => .error .unusedMinor

/-- SYS.R, with the literal of the X format for minors 2 and 3 (R45, R47). -/
def decSys (w : Word) (x : Dword) : Dec :=
  let d := fD w; let a := fA w; let b := fB w; let t := fTA w; let u := fTB w
  match fMinor w with
  | 0 => resv (a == 0 && !t && !u) (.mfs d b) | 1 => resv (d == 0 && !u) (.mts b a t)
  | 2 => resv (d == 0 && a == 0 && b == 0 && !t && !u) (.safe x)
  | 3 => resv (a == 0 && b == 0 && !t && !u) (.lit d x)
  | 4 => resv (d == 0 && b == 0 && !t && !u && in4 a) (.trel (lo4 a))
  | 5 => resv (d == 0 && b == 0 && !t && !u && in4 a) (.tmark (lo4 a))
  | 6 => resv (b == 0 && !t && !u && in4 a) (.tstat d (lo4 a))
  | 7 => resv (d == 0 && b == 0 && !t && !u && in4 a) (.tclr (lo4 a))
  | _ => .error .unusedMinor

/-- XLT.R (R47). -/
def decXlt (w : Word) : Dec :=
  let d := fD w; let a := fA w; let b := fB w; let t := fTA w; let u := fTB w
  match fMinor w with
  | 0 => resv (in4 d && b == 0 && !u) (.xlate (lo4 d) a t) | 1 => resv (d == 0) (.probe a b t u)
  | 2 => resv (d == 0 && b == 0 && !t && !u && in4 a) (.hrel (lo4 a))
  | 3 => resv (b == 0 && !t && !u && in4 a) (.hinfo d (lo4 a))
  | 4 => resv (d == 0 && b == 0 && !t && !u && in4 a) (.hrenew (lo4 a))
  | _ => .error .unusedMinor

/-- AMO, the A format (R42, R44). -/
def decAmo (w : Word) : Dec :=
  match AmoOp.ofBits (w.extractLsb' 4 4) with
  | some op => .ok (.amo (fD w) (w.extractLsb' 14 4) (w.extractLsb' 8 6) op (Scope.ofBits (w.extractLsb' 2 2))
      (w.getLsbD 1) (w.getLsbD 0))
  | none => .error .unusedMinor

/-- SYNC.R (R47). -/
def decSync (w : Word) : Dec :=
  let d := fD w; let a := fA w; let b := fB w; let t := fTA w; let u := fTB w
  match fMinor w with
  | 0 => resv (d == 0 && a == 0 && !t && !u && b.extractLsb' 2 4 == 0) (.fence (Scope.ofBits (b.extractLsb' 0 2)))
  | 1 => resv (d == 0) (.flush a b t u)
  | 2 => resv (d == 0 && !u && in3 b) (.push a (lo3 b) t) | 3 => resv (a == 0 && !t && !u && in3 b) (.qroom d (lo3 b))
  | 4 => resv (a == 0 && !t && !u && in3 b) (.wmark d (lo3 b)) | 5 => resv (d == 0 && !u && in3 b) (.wmwait a (lo3 b) t)
  | 6 => resv (a == 0 && !t && !u && in3 b) (.bacq d (lo3 b)) | 7 => resv (d == 0 && !u && in3 b) (.brel a (lo3 b) t)
  | _ => .error .unusedMinor

/-- SEM.R, the R.K layout (R48). -/
def decSem (w : Word) : Dec :=
  let g := fD w; let k : BitVec 8 := w.extractLsb' 10 8; let amt : BitVec 4 := w.extractLsb' 6 4
  let b : BitVec 4 := w.extractLsb' 10 4; let bar := w.extractLsb' 14 4 == (0 : BitVec 4)
  let t := fTB w; let u := fTA w
  match fMinor w with
  | 0 => resv (!u) (.ksig g k amt t) | 1 => resv (!u) (.kwait g k amt t) | 2 => resv (!u) (.ktwait g k amt t)
  | 3 => resv (!u && !t && amt == 0) (.kread g k) | 4 => resv (!u && amt == 0) (.kset g k t)
  | 5 => resv (!u && !t && amt == 0 && bar) (.carv g b) | 6 => resv (!u && amt == 0 && bar) (.cwait g b t)
  | 7 => resv (!u && amt == 0 && bar) (.ctwait g b t) | 8 => resv (!u && amt == 0 && bar) (.cbset g b t)
  | _ => .error .unusedMinor

/-- VOPA (R191). -/
def decVopa (w : Word) : Dec :=
  let d := fVD w; let a := fVA w; let b := fVB w; let k := fMask w; let ty := VType.ofBits (fType w)
  match fOp w with
  | 0 => .ok (.vadd d a b k ty) | 1 => .ok (.vsub d a b k ty) | 2 => .ok (.vmul d a b k ty)
  | 3 => .ok (.vfma d a b k ty) | 4 => .ok (.vmin d a b k ty) | 5 => .ok (.vmax d a b k ty)
  | 6 => .ok (.vsadd d a b k ty) | _ => .ok (.vssub d a b k ty)

/-- VOPB (R191). -/
def decVopb (w : Word) : Dec :=
  let d := fVD w; let a := fVA w; let b := fVB w; let k := fMask w; let ty := VType.ofBits (fType w)
  let bits := fType w == 0
  match fOp w with
  | 0 => rang bits (.vand d a b k) | 1 => rang bits (.vor d a b k) | 2 => rang bits (.vxor d a b k)
  | 3 => .ok (.vshl d a b k ty) | 4 => .ok (.vshr d a b k ty) | 5 => .ok (.vsra d a b k ty)
  | 6 => resv (b == 0) (.vabs d a k ty) | _ => resv (b == 0) (.vneg d a k ty)

/-- VCMP (R191). -/
def decVcmp (w : Word) : Dec :=
  let d := fVD w; let a := fVA w; let b := fVB w; let k := fMask w; let ty := VType.ofBits (fType w)
  let bits := fType w == 0; let md := d.extractLsb' 3 2 == (0 : BitVec 2); let m : BitVec 3 := d.extractLsb' 0 3
  match fOp w with
  | 0 => rang md (.vcmpeq m a b k ty) | 1 => rang md (.vcmplt m a b k ty) | 2 => rang md (.vcmple m a b k ty)
  | 3 => rang bits (.vsel d a b k) | 4 => resv (b == 0 && bits) (.vmov d a k)
  | 5 => resv (a == 0) (.vbcast d b k ty) | 6 => .ok (.vext d a b k ty) | _ => rang bits (.vperm d a b k)

/-- VSPEC (R191, R197, R200). -/
def decVspec (w : Word) : Dec :=
  let d := fVD w; let a := fVA w; let b := fVB w; let k := fMask w; let ty := VType.ofBits (fType w)
  let f32 := fType w == 2
  match fOp w with
  | 0 => .ok (.vcvt d a (b.extractLsb' 3 2) (VType.ofBits (b.extractLsb' 0 3)) k ty)
  | 1 => resv (b == 0 && f32) (.vrcp d a k) | 2 => resv (b == 0 && f32) (.vrsq d a k)
  | 3 => resv (b == 0 && f32) (.vexp2 d a k) | 4 => .ok (.vlut d a b k ty)
  | 5 => resv (fType w == 6 && !b.getLsbD 4) (.vunpk3 d a (b.getLsbD 3) (b.extractLsb' 0 3) k)
  | 6 => .ok (.vtacc d a b k ty) | _ => .ok (.vdot4 d a b k ty)

/-- VMEM (R191). -/
def decVmem (w : Word) : Dec :=
  let d := fVD w; let a := fVA w; let b := fVB w; let k := fMask w
  let n : BitVec 4 := a.extractLsb' 0 4; let in16 := !a.getLsbD 4
  if fType w == 0 then
    match fOp w with
    | 0 => .ok (.vlds d a b k) | 1 => .ok (.vsts d a b k)
    | 2 => rang in16 (.vldt d n b k) | 3 => rang in16 (.vstt d n b k)
    | 4 => rang in16 (.vldg d n b k) | 5 => rang in16 (.vstg d n b k)
    | 6 => .ok (.vgaths d a b k) | _ => .ok (.vscats d a b k)
  else .error .fieldRange

/-- VRED (R191, R209). -/
def decVred (w : Word) : Dec :=
  let d := fVD w; let a := fVA w; let b := fVB w; let k := fMask w; let ty := VType.ofBits (fType w)
  let bits := fType w == 0
  match fOp w with
  | 0 => resv (b == 0) (.vrsum d a k ty) | 1 => resv (b == 0) (.vrmax d a k ty) | 2 => resv (b == 0) (.vrmin d a k ty)
  | 3 => resv (b == 0) (.vpfx d a k ty) | 4 => resv (k == 0) (.vmsk d a b (MskFunc.ofBits (fType w)))
  | 5 => resv (b == 0 && k == 0 && bits && a.extractLsb' 3 2 == (0 : BitVec 2)) (.vpop d (a.extractLsb' 0 3))
  | 6 => resv (b == 0 && bits) (.vcomp d a k) | _ => resv (a == 0 && b == 0 && bits) (.viota d k)

/-- MGO's own layout (R49). -/
def decMgo (w : Word) : Dec :=
  match Fmt.ofBits (w.extractLsb' 20 4), Fmt.ofBits (w.extractLsb' 16 4), Acc.ofBits (w.extractLsb' 12 4) with
  | some fa, some fb, some acc => resv (!fTA w) (.mgo fa fb acc (fB w) (fTB w))
  | _, _, _ => .error .fieldRange

/-- MTX.R (R165). -/
def decMtx (w : Word) : Dec :=
  let d := fD w; let a := fA w; let b := fB w; let t := fTA w; let u := fTB w
  let bare := d == 0 && a == 0 && b == 0 && !t && !u
  match fMinor w with
  | 0 => resv (b == 0 && !u) (.nset d a t) | 1 => resv bare .nclr | 2 => resv (b == 0 && !u) (.msrc d a t)
  | 3 => .ok (.mdst d a b t u)
  | 4 => resv (b == 0 && !u && d.extractLsb' 2 4 == (0 : BitVec 4)) (.mepi (d.extractLsb' 0 2) a t)
  | 5 => resv (d == 0 && !a.getLsbD 5 && b.extractLsb' 2 4 == (0 : BitVec 4) && !t && !u)
      (.mmode (a.extractLsb' 0 3) (a.extractLsb' 3 2) (b.getLsbD 0) (b.getLsbD 1))
  | 6 => decMgo w | 7 => resv bare .mwait
  | 8 => resv (b.extractLsb' 2 4 == (0 : BitVec 4) && !u)
      (.mdrain (d.extractLsb' 4 2) (d.getLsbD 3) (d.getLsbD 2) (d.getLsbD 1) (d.getLsbD 0) a (b.getLsbD 1)
        (b.getLsbD 0) t)
  | 9 => resv (d.extractLsb' 2 4 == (0 : BitVec 4) && a == 0 && b == 0 && !t && !u) (.mazero (d.extractLsb' 0 2))
  | 10 => .ok (.mscacc (d.extractLsb' 0 2) (d.getLsbD 2) (d.getLsbD 3) (d.getLsbD 4) (d.getLsbD 5) a b t u)
  | 11 => resv (a == 0 && b == 0 && !t && !u) (.mstat d) | 12 => resv (d == 0 && b == 0 && !u) (.mlut a t)
  | _ => .error .unusedMinor

/-- EXT.R (R246, R338, R367, R390). -/
def decExt (w : Word) : Dec :=
  let d := fD w; let a := fA w; let b := fB w; let t := fTA w; let u := fTB w
  match fMinor w with
  | 0 => resv (b.extractLsb' 2 4 == (0 : BitVec 4) && !u) (.rst d a (Size.ofBits (b.extractLsb' 0 2)) t)
  | 1 => resv (b.extractLsb' 2 4 == (0 : BitVec 4) && !u) (.rld d a (Size.ofBits (b.extractLsb' 0 2)) t)
  | 2 =>
    if b.getLsbD 4 then resv (!b.getLsbD 5 && !u) (.cnlaI d a (lo4 b) t)
    else resv (!b.getLsbD 5 && !u) (.cnlaL d a (lo4 b) t)
  | 3 => resv (in4 b && !u) (.cnld d a (lo4 b) t)
  | 4 => resv (in4 b && a == 0 && !t && !u) (.cnhold d (lo4 b))
  | 5 => resv (in4 b && a == 0 && !t && !u) (.cndrop d (lo4 b))
  | 6 => resv (in4 b && !u) (.rswap d a (lo4 b) t)
  | 7 => resv (in4 a && in4 b && !t && !u) (.rget d (lo4 a) (lo4 b))
  | 8 => resv (in4 b && !u) (.cnhash d a (lo4 b) t)
  | 9 => .ok (.fst d a b t u) | 10 => .ok (.fld d a b t u) | 11 => .ok (.famo d a b t u)
  | 12 => resv (d == 0 && a == 0 && b == 0 && !t && !u) .ffence
  | 13 => resv (a == 0 && b == 0 && !t && !u) (.fwait d)
  | 14 => resv (d == 0) (.glaunch a b t u)
  | _ => .error .unusedMinor

/-- The fields of a 32-bit instruction by its major (R46); `x` is the literal of the X format. -/
def decFields (w : Word) (x : Dword) : Dec :=
  match fMajor w with
  | 0x00 => decIntR w
  | 0x01 => decIntX w
  | 0x02 => .ok (.addi (fD w) (fA w) (w.extractLsb' 0 12))
  | 0x03 => .ok (.andi (fD w) (fA w) (w.extractLsb' 0 12))
  | 0x04 => .ok (.ori (fD w) (fA w) (w.extractLsb' 0 12))
  | 0x05 => .ok (.xori (fD w) (fA w) (w.extractLsb' 0 12))
  | 0x06 => .ok (.lui (fD w) (w.extractLsb' 0 18))
  | 0x07 => decPred w
  | 0x08 => .ok (.cmpi (fD w) (fA w) (Cond.ofBits (w.extractLsb' 9 3)) (w.extractLsb' 0 9))
  | 0x09 => .ok (.br (w.getLsbD 23) (w.extractLsb' 17 6) (w.extractLsb' 0 17))
  | 0x0A => .ok (.call (w.extractLsb' 0 24))
  | 0x0B => decCtrl w
  | 0x0C => decSys w x
  | 0x10 => .ok (.lds (fD w) (fA w) (Size.ofBits (w.extractLsb' 10 2)) (w.extractLsb' 0 10))
  | 0x11 => .ok (.sts (fD w) (fA w) (Size.ofBits (w.extractLsb' 10 2)) (w.extractLsb' 0 10))
  | 0x12 => .ok (.ldg (fD w) (w.extractLsb' 14 4) (w.extractLsb' 8 6) (Size.ofBits (w.extractLsb' 6 2)) (w.extractLsb' 0 6))
  | 0x13 => .ok (.stg (fD w) (w.extractLsb' 14 4) (w.extractLsb' 8 6) (Size.ofBits (w.extractLsb' 6 2)) (w.extractLsb' 0 6))
  | 0x14 => decXlt w
  | 0x15 => decAmo w
  | 0x16 => decSync w
  | 0x17 => decSem w
  | 0x18 => decVopa w
  | 0x19 => decVopb w
  | 0x1A => decVcmp w
  | 0x1B => decVspec w
  | 0x1C => decVmem w
  | 0x1D => decVred w
  | 0x1E => decMtx w
  | 0x1F => decExt w
  | _ => .error .reservedMajor

/-- A decoded term whose fields lie in their ranges (R52). -/
def ranged : Dec → Dec
  | .ok i => if i.wf then .ok i else .error .fieldRange
  | .error r => .error r

/-- A 16-bit compact instruction (R51, R36). -/
def decCompact (h : Half) : Dec :=
  let d6 : BitVec 6 := h.extractLsb' 6 6; let b6 : BitVec 6 := h.extractLsb' 0 6
  let d4 : BitVec 4 := h.extractLsb' 8 4; let i8 : BitVec 8 := h.extractLsb' 0 8
  match h.extractLsb' 12 4 with
  | (0x0 : BitVec 4) =>
    if i8 == 0 then
      match d4 with
      | 0 => .ok .cNop | 1 => .ok .cHalt | 2 => .ok .cYield | 3 => .ok .cBrk | _ => .error .badCompact
    else .error .badCompact
  | 0x1 =>
    let p : BitVec 6 := h.extractLsb' 5 6
    resv (h.extractLsb' 0 5 == (0 : BitVec 5)) (if h.getLsbD 11 then .cIfn p else .cIf p)
  | 0x2 => .ok (.cMov d6 b6)
  | 0x3 => .ok (.cAddi d4 i8)
  | 0x4 => .ok (.cAdd d6 b6)
  | 0x5 => .ok (.cSub d6 b6)
  | 0x6 => .ok (.cLdsD d4 (h.extractLsb' 4 4) (h.extractLsb' 0 4))
  | 0x7 => .ok (.cStsD d4 (h.extractLsb' 4 4) (h.extractLsb' 0 4))
  | 0x8 => .ok (.cBr (h.extractLsb' 0 12))
  | 0x9 => .ok (.cKsig (h.extractLsb' 4 8) (h.extractLsb' 0 4))
  | 0xA => .ok (.cKwait (h.extractLsb' 4 8) (h.extractLsb' 0 4))
  | 0xB =>
    resv (h.extractLsb' 4 7 == (0 : BitVec 7))
      (if h.getLsbD 11 then .cTmark (h.extractLsb' 0 4) else .cTrel (h.extractLsb' 0 4))
  | 0xC => .ok (.cShli d6 b6)
  | 0xD => .ok (.cLi d4 i8)
  | _ => .error .badCompact

/-- How many halfwords the instruction that begins with these takes (R41, R45): 1, 2 or 6. Of a 32-bit instruction
whose second halfword is not there the length is 2. -/
def unitLen : List Half → Nat
  | [] => 1
  | h :: rest =>
    if h.extractLsb' 13 3 == (7 : BitVec 3) then
      match rest with
      | [] => 2
      | l :: _ =>
        let w : Word := h ++ l
        if fMajor w == 0x0C && (fMinor w == 2 || fMinor w == 3) then 6 else 2
    else 1

/-- The instruction that begins a run of halfwords, and how many it takes (R41). -/
def decode (hs : List Half) : Except Reject (Instr × Nat) :=
  match unitLen hs, hs with
  | 1, h :: _ => (ranged (decCompact h)).map (·, 1)
  | 2, h :: l :: _ => (ranged (decFields (h ++ l) 0)).map (·, 2)
  | 6, h :: l :: l0 :: l1 :: l2 :: l3 :: _ => (ranged (decFields (h ++ l) (l3 ++ l2 ++ l1 ++ l0))).map (·, 6)
  | _, _ => .error .cutShort

/-- Halfwords from bytes, low byte first (R40); an odd last byte is dropped. -/
def halfwords : List Byte → List Half
  | b0 :: b1 :: rest => (b1 ++ b0 : Half) :: halfwords rest
  | _ => []

/-- The bytes of halfwords, low byte first (R40). -/
def halfBytes : List Half → List Byte
  | [] => []
  | h :: rest => h.extractLsb' 0 8 :: h.extractLsb' 8 8 :: halfBytes rest

/-- Decoding any bytes (R40, R41). -/
def decodeBytes (bs : List Byte) : Except Reject (Instr × Nat) := decode (halfwords bs)

/-- The halfwords of an instruction whose bits are numbered as the opcode table numbers them: 32 bits are the first
halfword in [31:16] and the second in [15:0] (R41); 16 bits are one compact halfword. Halfwords of zeros follow. -/
def tableHalfwords (nbits w : Nat) : List Half :=
  if nbits ≤ 16 then [BitVec.ofNat 16 w, 0, 0, 0, 0, 0]
  else [BitVec.ofNat 16 (w / 65536), BitVec.ofNat 16 w, 0, 0, 0, 0]

/-- The instruction the decoder reads from an instruction of the opcode table's bits. -/
def decodeTableWord (nbits w : Nat) : Option Instr :=
  match decodeBytes (halfBytes (tableHalfwords nbits w)) with
  | .ok (i, _) => some i
  | .error _ => none

/-! ### The encoder (R42, R45 to R51) -/

/-- R format. -/
def encR (major : BitVec 5) (d a b : BitVec 6) (minor : BitVec 4) (ta tb : Bool) : Word :=
  0b111#3 ++ major ++ d ++ a ++ b ++ minor ++ BitVec.ofBool ta ++ BitVec.ofBool tb
/-- I format. -/
def encI (major : BitVec 5) (d a : BitVec 6) (i : BitVec 12) : Word := 0b111#3 ++ major ++ d ++ a ++ i
/-- M format. -/
def encM (major : BitVec 5) (d a : BitVec 6) (s : Size) (o : BitVec 10) : Word :=
  0b111#3 ++ major ++ d ++ a ++ s.toBits ++ o
/-- H format. -/
def encH (major : BitVec 5) (d : BitVec 6) (h : BitVec 4) (a : BitVec 6) (s : Size) (o : BitVec 6) : Word :=
  0b111#3 ++ major ++ d ++ h ++ a ++ s.toBits ++ o
/-- R.K layout (R48). -/
def encK (g : BitVec 6) (num : BitVec 8) (amt minor : BitVec 4) (tg : Bool) : Word :=
  0b111#3 ++ 0x17#5 ++ g ++ num ++ amt ++ minor ++ 0#1 ++ BitVec.ofBool tg
/-- V format. -/
def encV (major d a b : BitVec 5) (k ty op : BitVec 3) : Word :=
  0b111#3 ++ major ++ d ++ a ++ b ++ k ++ ty ++ op

/-- A handle, tile or other four-bit number in a six-bit field. -/
def f4 (x : BitVec 4) : BitVec 6 := 0#2 ++ x
/-- A queue or ring number in a six-bit field. -/
def f3 (x : BitVec 3) : BitVec 6 := 0#3 ++ x
/-- A two-bit number in a six-bit field. -/
def f2 (x : BitVec 2) : BitVec 6 := 0#4 ++ x

/-- A 32-bit instruction as its two halfwords (R41). -/
def two (w : Word) : List Half := [w.extractLsb' 16 16, w.extractLsb' 0 16]
/-- An X-format instruction as its six halfwords (R45). -/
def six (w : Word) (x : Dword) : List Half :=
  two w ++ [x.extractLsb' 0 16, x.extractLsb' 16 16, x.extractLsb' 32 16, x.extractLsb' 48 16]

/-- The halfwords of an instruction (R41 to R51). A step that is no instruction of a strand has none. -/
def encode : Instr → List Half
  | .add d a b ta tb => two (encR 0x00 d a b 0 ta tb)
  | .sub d a b ta tb => two (encR 0x00 d a b 1 ta tb)
  | .mul d a b ta tb => two (encR 0x00 d a b 2 ta tb)
  | .mulhs d a b ta tb => two (encR 0x00 d a b 3 ta tb)
  | .mulhu d a b ta tb => two (encR 0x00 d a b 4 ta tb)
  | .divs d a b ta tb => two (encR 0x00 d a b 5 ta tb)
  | .divu d a b ta tb => two (encR 0x00 d a b 6 ta tb)
  | .rems d a b ta tb => two (encR 0x00 d a b 7 ta tb)
  | .remu d a b ta tb => two (encR 0x00 d a b 8 ta tb)
  | .and d a b ta tb => two (encR 0x00 d a b 9 ta tb)
  | .or d a b ta tb => two (encR 0x00 d a b 10 ta tb)
  | .xor d a b ta tb => two (encR 0x00 d a b 11 ta tb)
  | .andn d a b ta tb => two (encR 0x00 d a b 12 ta tb)
  | .shl d a b ta tb => two (encR 0x00 d a b 13 ta tb)
  | .shr d a b ta tb => two (encR 0x00 d a b 14 ta tb)
  | .sra d a b ta tb => two (encR 0x00 d a b 15 ta tb)
  | .mins d a b ta tb => two (encR 0x01 d a b 0 ta tb)
  | .minu d a b ta tb => two (encR 0x01 d a b 1 ta tb)
  | .maxs d a b ta tb => two (encR 0x01 d a b 2 ta tb)
  | .maxu d a b ta tb => two (encR 0x01 d a b 3 ta tb)
  | .clz d a ta => two (encR 0x01 d a 0 4 ta false)
  | .ctz d a ta => two (encR 0x01 d a 0 5 ta false)
  | .popc d a ta => two (encR 0x01 d a 0 6 ta false)
  | .rol d a b ta tb => two (encR 0x01 d a b 7 ta tb)
  | .bfx d a b ta tb => two (encR 0x01 d a b 8 ta tb)
  | .bfi d a b ta tb => two (encR 0x01 d a b 9 ta tb)
  | .shli d a n ta => two (encR 0x01 d a n 10 ta false)
  | .shri d a n ta => two (encR 0x01 d a n 11 ta false)
  | .srai d a n ta => two (encR 0x01 d a n 12 ta false)
  | .addx8 d a b ta tb => two (encR 0x01 d a b 13 ta tb)
  | .addi d a i => two (encI 0x02 d a i)
  | .andi d a i => two (encI 0x03 d a i)
  | .ori d a i => two (encI 0x04 d a i)
  | .xori d a i => two (encI 0x05 d a i)
  | .lui d i => two (0b111#3 ++ 0x06#5 ++ d ++ i)
  | .cmpeq d a b ta tb => two (encR 0x07 d a b 0 ta tb)
  | .cmpne d a b ta tb => two (encR 0x07 d a b 1 ta tb)
  | .cmplt d a b ta tb => two (encR 0x07 d a b 2 ta tb)
  | .cmpltu d a b ta tb => two (encR 0x07 d a b 3 ta tb)
  | .cmple d a b ta tb => two (encR 0x07 d a b 4 ta tb)
  | .cmpleu d a b ta tb => two (encR 0x07 d a b 5 ta tb)
  | .pand d a b => two (encR 0x07 d a b 6 false false)
  | .por d a b => two (encR 0x07 d a b 7 false false)
  | .pxor d a b => two (encR 0x07 d a b 8 false false)
  | .pandn d a b => two (encR 0x07 d a b 9 false false)
  | .pnot d a => two (encR 0x07 d a 0 10 false false)
  | .pmov d a => two (encR 0x07 d a 0 11 false false)
  | .pget d => two (encR 0x07 d 0 0 12 false false)
  | .pset a ta => two (encR 0x07 0 a 0 13 ta false)
  | .cmpi p a c i => two (0b111#3 ++ 0x08#5 ++ p ++ a ++ c.toBits ++ i)
  | .br n p o => two (0b111#3 ++ 0x09#5 ++ BitVec.ofBool n ++ p ++ o)
  | .call o => two (0b111#3 ++ 0x0A#5 ++ o)
  | .jr a ta => two (encR 0x0b 0 a 0 0 ta false)
  | .jalr d a ta => two (encR 0x0b d a 0 1 ta false)
  | .ret => two (encR 0x0b 0 0 0 2 false false)
  | .spawn d a b ta tb => two (encR 0x0b d a b 3 ta tb)
  | .halt => two (encR 0x0b 0 0 0 4 false false)
  | .yield => two (encR 0x0b 0 0 0 5 false false)
  | .setrpt a ta => two (encR 0x0b 0 a 0 6 ta false)
  | .trap n => two (encR 0x0b 0 0 n 7 false false)
  | .brk n => two (encR 0x0b 0 0 n 8 false false)
  | .nop => two (encR 0x0b 0 0 0 9 false false)
  | .waitstr m => two (encR 0x0b 0 0 (0#3 ++ m ++ 0#1) 10 false false)
  | .mfs d n => two (encR 0x0c d 0 n 0 false false)
  | .mts n a ta => two (encR 0x0c 0 a n 1 ta false)
  | .safe mask => six (encR 0x0C 0 0 0 2 false false) mask
  | .lit d x => six (encR 0x0C d 0 0 3 false false) x
  | .trel t => two (encR 0x0c 0 (f4 t) 0 4 false false)
  | .tmark t => two (encR 0x0c 0 (f4 t) 0 5 false false)
  | .tstat d t => two (encR 0x0c d (f4 t) 0 6 false false)
  | .tclr t => two (encR 0x0c 0 (f4 t) 0 7 false false)
  | .lds d a s o => two (encM 0x10 d a s o)
  | .sts d a s o => two (encM 0x11 d a s o)
  | .ldg d h a s o => two (encH 0x12 d h a s o)
  | .stg d h a s o => two (encH 0x13 d h a s o)
  | .xlate h a ta => two (encR 0x14 (f4 h) a 0 0 ta false)
  | .probe a b ta tb => two (encR 0x14 0 a b 1 ta tb)
  | .hrel h => two (encR 0x14 0 (f4 h) 0 2 false false)
  | .hinfo d h => two (encR 0x14 d (f4 h) 0 3 false false)
  | .hrenew h => two (encR 0x14 0 (f4 h) 0 4 false false)
  | .amo d h a op sc z r => two (0b111#3 ++ 0x15#5 ++ d ++ h ++ a ++ op.toBits ++ sc.toBits ++ BitVec.ofBool z ++ BitVec.ofBool r)
  | .fence sc => two (encR 0x16 0 0 (f2 sc.toBits) 0 false false)
  | .flush a b ta tb => two (encR 0x16 0 a b 1 ta tb)
  | .push a q ta => two (encR 0x16 0 a (f3 q) 2 ta false)
  | .qroom d q => two (encR 0x16 d 0 (f3 q) 3 false false)
  | .wmark d q => two (encR 0x16 d 0 (f3 q) 4 false false)
  | .wmwait a q ta => two (encR 0x16 0 a (f3 q) 5 ta false)
  | .bacq d n => two (encR 0x16 d 0 (f3 n) 6 false false)
  | .brel a n ta => two (encR 0x16 0 a (f3 n) 7 ta false)
  | .ksig g k amt tg => two (encK g k amt 0 tg)
  | .kwait g k amt tg => two (encK g k amt 1 tg)
  | .ktwait g k amt tg => two (encK g k amt 2 tg)
  | .kread g k => two (encK g k 0 3 false)
  | .kset g k tg => two (encK g k 0 4 tg)
  | .carv g b => two (encK g (0#4 ++ b) 0 5 false)
  | .cwait g b tg => two (encK g (0#4 ++ b) 0 6 tg)
  | .ctwait g b tg => two (encK g (0#4 ++ b) 0 7 tg)
  | .cbset g b tg => two (encK g (0#4 ++ b) 0 8 tg)
  | .vadd d a b k ty => two (encV 0x18 d a b k ty.toBits 0)
  | .vsub d a b k ty => two (encV 0x18 d a b k ty.toBits 1)
  | .vmul d a b k ty => two (encV 0x18 d a b k ty.toBits 2)
  | .vfma d a b k ty => two (encV 0x18 d a b k ty.toBits 3)
  | .vmin d a b k ty => two (encV 0x18 d a b k ty.toBits 4)
  | .vmax d a b k ty => two (encV 0x18 d a b k ty.toBits 5)
  | .vsadd d a b k ty => two (encV 0x18 d a b k ty.toBits 6)
  | .vssub d a b k ty => two (encV 0x18 d a b k ty.toBits 7)
  | .vand d a b k => two (encV 0x19 d a b k 0 0)
  | .vor d a b k => two (encV 0x19 d a b k 0 1)
  | .vxor d a b k => two (encV 0x19 d a b k 0 2)
  | .vshl d a b k ty => two (encV 0x19 d a b k ty.toBits 3)
  | .vshr d a b k ty => two (encV 0x19 d a b k ty.toBits 4)
  | .vsra d a b k ty => two (encV 0x19 d a b k ty.toBits 5)
  | .vabs d a k ty => two (encV 0x19 d a 0 k ty.toBits 6)
  | .vneg d a k ty => two (encV 0x19 d a 0 k ty.toBits 7)
  | .vcmpeq d a b k ty => two (encV 0x1a (0#2 ++ d) a b k ty.toBits 0)
  | .vcmplt d a b k ty => two (encV 0x1a (0#2 ++ d) a b k ty.toBits 1)
  | .vcmple d a b k ty => two (encV 0x1a (0#2 ++ d) a b k ty.toBits 2)
  | .vsel d a b k => two (encV 0x1a d a b k 0 3)
  | .vmov d a k => two (encV 0x1a d a 0 k 0 4)
  | .vbcast d b k ty => two (encV 0x1a d 0 b k ty.toBits 5)
  | .vext d a b k ty => two (encV 0x1a d a b k ty.toBits 6)
  | .vperm d a b k => two (encV 0x1a d a b k 0 7)
  | .vcvt d a rm src k ty => two (encV 0x1b d a (rm ++ src.toBits) k ty.toBits 0)
  | .vrcp d a k => two (encV 0x1b d a 0 k 2 1)
  | .vrsq d a k => two (encV 0x1b d a 0 k 2 2)
  | .vexp2 d a k => two (encV 0x1b d a 0 k 2 3)
  | .vlut d a b k ty => two (encV 0x1b d a b k ty.toBits 4)
  | .vunpk3 d a sub h k => two (encV 0x1b d a (0#1 ++ BitVec.ofBool sub ++ h) k 6 5)
  | .vtacc d a b k ty => two (encV 0x1b d a b k ty.toBits 6)
  | .vdot4 d a b k ty => two (encV 0x1b d a b k ty.toBits 7)
  | .vlds d a i k => two (encV 0x1c d a i k 0 0)
  | .vsts d a i k => two (encV 0x1c d a i k 0 1)
  | .vldt d t b k => two (encV 0x1c d (0#1 ++ t) b k 0 2)
  | .vstt d t b k => two (encV 0x1c d (0#1 ++ t) b k 0 3)
  | .vldg d h b k => two (encV 0x1c d (0#1 ++ h) b k 0 4)
  | .vstg d h b k => two (encV 0x1c d (0#1 ++ h) b k 0 5)
  | .vgaths d a b k => two (encV 0x1c d a b k 0 6)
  | .vscats d a b k => two (encV 0x1c d a b k 0 7)
  | .vrsum d a k ty => two (encV 0x1d d a 0 k ty.toBits 0)
  | .vrmax d a k ty => two (encV 0x1d d a 0 k ty.toBits 1)
  | .vrmin d a k ty => two (encV 0x1d d a 0 k ty.toBits 2)
  | .vpfx d a k ty => two (encV 0x1d d a 0 k ty.toBits 3)
  | .vmsk d a b f => two (encV 0x1d d a b 0 f.toBits 4)
  | .vpop d a => two (encV 0x1d d (0#2 ++ a) 0 0 0 5)
  | .vcomp d a k => two (encV 0x1d d a 0 k 0 6)
  | .viota d k => two (encV 0x1d d 0 0 k 0 7)
  | .nset n a ta => two (encR 0x1e n a 0 0 ta false)
  | .nclr => two (encR 0x1e 0 0 0 1 false false)
  | .msrc n a ta => two (encR 0x1e n a 0 2 ta false)
  | .mdst d a b ta tb => two (encR 0x1e d a b 3 ta tb)
  | .mepi n a ta => two (encR 0x1e (f2 n) a 0 4 ta false)
  | .mmode c w ord asg => two (encR 0x1e 0 (0#1 ++ w ++ c) (0#4 ++ BitVec.ofBool asg ++ BitVec.ofBool ord) 5 false false)
  | .mgo fa fb acc v tv => two (0b111#3 ++ 0x1E#5 ++ fa.toBits ++ fb.toBits ++ acc.toBits ++ v ++ 6#4 ++ 0#1 ++ BitVec.ofBool tv)
  | .mwait => two (encR 0x1e 0 0 0 7 false false)
  | .mdrain n ds quant act bias a ipl satm ta => two (encR 0x1e (n ++ BitVec.ofBool ds ++ BitVec.ofBool quant ++ BitVec.ofBool act ++ BitVec.ofBool bias) a (0#4 ++ BitVec.ofBool ipl ++ BitVec.ofBool satm) 8 ta false)
  | .mazero n => two (encR 0x1e (f2 n) 0 0 9 false false)
  | .mscacc n sfa sfb nsa nsb a b ta tb => two (encR 0x1e (BitVec.ofBool nsb ++ BitVec.ofBool nsa ++ BitVec.ofBool sfb ++ BitVec.ofBool sfa ++ n) a b 10 ta tb)
  | .mstat d => two (encR 0x1e d 0 0 11 false false)
  | .mlut a ta => two (encR 0x1e 0 a 0 12 ta false)
  | .rst d a s ta => two (encR 0x1f d a (f2 s.toBits) 0 ta false)
  | .rld d a s ta => two (encR 0x1f d a (f2 s.toBits) 1 ta false)
  | .cnlaL d a h ta => two (encR 0x1f d a (f4 h) 2 ta false)
  | .cnlaI d a h ta => two (encR 0x1f d a (0#1 ++ 1#1 ++ h) 2 ta false)
  | .cnld d a h ta => two (encR 0x1f d a (f4 h) 3 ta false)
  | .cnhold d h => two (encR 0x1f d 0 (f4 h) 4 false false)
  | .cndrop d h => two (encR 0x1f d 0 (f4 h) 5 false false)
  | .rswap d a h ta => two (encR 0x1f d a (f4 h) 6 ta false)
  | .rget d hr hc => two (encR 0x1f d (f4 hr) (f4 hc) 7 false false)
  | .cnhash d a h ta => two (encR 0x1f d a (f4 h) 8 ta false)
  | .fst d a b ta tb => two (encR 0x1f d a b 9 ta tb)
  | .fld d a b ta tb => two (encR 0x1f d a b 10 ta tb)
  | .famo d a b ta tb => two (encR 0x1f d a b 11 ta tb)
  | .ffence => two (encR 0x1f 0 0 0 12 false false)
  | .fwait d => two (encR 0x1f d 0 0 13 false false)
  | .glaunch a b ta tb => two (encR 0x1f 0 a b 14 ta tb)
  | .cNop => [0x0000]
  | .cHalt => [0x0100]
  | .cYield => [0x0200]
  | .cBrk => [0x0300]
  | .cIf p => [0x1#4 ++ 0#1 ++ p ++ 0#5]
  | .cIfn p => [0x1#4 ++ 1#1 ++ p ++ 0#5]
  | .cMov d a => [0x2#4 ++ d ++ a]
  | .cAddi d i => [0x3#4 ++ d ++ i]
  | .cAdd d b => [0x4#4 ++ d ++ b]
  | .cSub d b => [0x5#4 ++ d ++ b]
  | .cLdsD d a o => [0x6#4 ++ d ++ a ++ o]
  | .cStsD d a o => [0x7#4 ++ d ++ a ++ o]
  | .cBr o => [0x8#4 ++ o]
  | .cKsig k amt => [0x9#4 ++ k ++ amt]
  | .cKwait k amt => [0xA#4 ++ k ++ amt]
  | .cTrel t => [0xB#4 ++ 0#1 ++ 0#7 ++ t]
  | .cTmark t => [0xB#4 ++ 1#1 ++ 0#7 ++ t]
  | .cShli d n => [0xC#4 ++ d ++ n]
  | .cLi d i => [0xD#4 ++ d ++ i]
  | .copyin _ _ => []
  | .copyout _ _ => []
  | .decode _ _ => []
  | .encode _ _ => []
  | .fill _ _ => []
  | .compact _ _ => []
  | .qfence _ _ => []
  | .layset _ _ => []
  | .laysync _ _ => []
  | .resume _ _ => []
  | .gather _ _ => []
  | .scatter _ _ => []
  | .scatadd _ _ => []
  | .madd _ _ => []
  | .mpfx _ _ => []
  | .munion _ _ => []
  | .rsend _ _ => []
  | .rfetch _ _ => []
  | .rsignal _ _ => []
  | .cnout _ _ => []
  | .cnin _ _ => []
  | .cndiff _ _ => []
  | .jobPop _ _ => []
  | .semaphoreCycle _ => []
  | .ktwaitTimeout _ _ => []
  | .tileBitApply _ => []
  | .leaveGrant _ => []
  | .jobComplete _ _ => []
  | .jobsDropped _ _ => []
  | .gregFill _ _ _ => []
  | .walkComplete _ _ _ => []
  | .walkRestart _ _ _ => []
  | .engineLeaseRenew _ _ => []
  | .codeFetch _ _ => []
  | .homeAccess _ => []
  | .crossdieWriteApply _ => []
  | .appliedCountReport _ => []
  | .atomicWriteback _ _ _ => []
  | .flushComplete _ => []
  | .hostAccess _ _ _ _ => []
  | .clusterAccess _ _ _ _ _ _ => []
  | .barrierApply _ => []
  | .ctwaitTimeout _ _ => []
  | .multicastTimeout _ _ => []
  | .multicastLoad _ => []
  | .stepBegin _ => []
  | .laneEvaluate _ _ => []
  | .windowLoad _ => []
  | .rodTakeItem _ _ => []
  | .itemArrival _ _ => []
  | .frameJobComplete _ => []
  | .frameJobPause _ => []
  | .drainRowWrite _ => []
  | .mlutCopyDone _ => []
  | .reclaimLine => []
  | .instanceDispatch => []
  | .preemptRequest => []
  | .instanceSave _ => []
  | .instanceResume _ => []
  | .suspendTimeout _ => []
  | .instanceRetire _ => []
  | .safepointOverrun _ => []
  | .deadlockFault _ => []
  | .doorbellRecord _ _ => []
  | .restart _ => []
  | .reload _ => []
  | .wqConsume _ => []
  | .devqConsume _ => []
  | .launch _ _ => []
  | .struct _ _ => []
  | .conditionalRead _ _ => []
  | .replayDone _ => []
  | .loadFigure => []
  | .stealRequest => []
  | .stealGrant _ _ => []
  | .stolenArrival _ _ => []
  | .stealRetireReport _ => []
  | .lcuMeasure _ _ => []
  | .skewResync _ => []
  | .skewResyncTimeout _ => []
  | .dieFence _ => []
  | .masterElection => []
  | .migrationArm _ _ _ => []
  | .migrationRemove _ _ => []
  | .migrationLineCopy _ _ => []
  | .moduleStart _ => []
  | .tamperAlarm => []
  | .voltageGlitch => []
  | .clockGlitch => []
  | .coolantThrottle _ => []
  | .pwrcapWrite _ _ => []
  | .secstatAdv => []
  | .alarmpolWrite _ => []
  | .registerWrite _ _ _ => []
  | .fabrd => []
  | .fabwr => []
  | .kempub => []
  | .kekset => []
  | .linkkey => []
  | .cnkey => []
  | .cnkeyclr => []
  | .spareret => []
  | .quote => []
  | .mailboxComplete => []
  | .flitSend _ _ => []
  | .flitReceive _ _ _ => []
  | .nakReceive _ _ _ => []
  | .retrainDone _ _ => []
  | .retrainTimeout _ _ _ => []
  | .laneRepair _ _ _ => []
  | .write _ _ => []
  | .read _ _ => []
  | .readresp _ => []
  | .atomic _ _ => []
  | .atomresp _ => []
  | .signal _ _ => []
  | .ack _ => []
  | .steal _ _ => []
  | .heldRequestTimeout _ _ => []
  | .remoteTimeout _ => []
  | .clusterNetworkFlitFailure _ => []
  | .coolantBelowLimit _ => []
  | .contentNamedOperation _ => []
  | .vldgLanesArrive _ _ _ => []
  | .replicaAcknowledge _ => []

end Sys2Proof
end

