-- ==== Sys2Proof/Config.lean ====
section
/-!
DEFINITION. What an implementation fixes, and the values the spec leaves to something outside it: opaque constants
without a body, so that no proof can see them.
-/

namespace Sys2Proof.Config

/-- Bytes of the scratchpad (R128). -/
def spadBytes : Nat := 0x180000
/-- Byte addresses of code lie below this (R40, R98). -/
def codeLimit : Nat := 2 ^ 45
/-- Jobs a queue holds (R135). -/
def queueDepth : Nat := 32
/-- Entries of the range scoreboard (R141). -/
def scoreEntries : Nat := 16
/-- The count at which a strand may no longer pass a safe point by (R118, R119). -/
def safeBound : Nat := 4096
/-- The deadlock count at which the fault is taken (R126). -/
def deadlockBound : Nat := 2 ^ 20

/-- How long an election takes, in ns: some time within 50 µs (R313). -/
opaque electionTime : Fin 50001

/-- How many cycles beyond the next one a result takes whose latency the spec gives as typical only: the fill of a `g`
register (R11, R25) and the work of an engine's job (R135); applied to the count of draws (log entry 24). -/
opaque delay : Nat → Nat

/-- Which of the 8 input ports of the home slices the accesses of a core, by its number, of the host, 512, and of the fabric ports of
die d, 513 + d, come in by (R267; log entry 58). -/
opaque slicePort : Nat → Fin 8

/-- ADDR of a record about a word that has no virtual address, as one that a migration copies (R299); applied to the count of
draws (log entry 26). -/
opaque freeAddr : Nat → BitVec 64

/-- Save slot bytes (R309). -/
def slotBytes : Nat := 0x210000

/-! Functions of other standards and of what the part holds secret or by chance. They have no body: no proof sees a value
of theirs (log entries 16 and 17). -/

/-- Bytes of the ML-KEM-768 encapsulation key (R355). -/
opaque kemKey : Nat → Byte
/-- ML-KEM-768 decapsulation of a ciphertext (R356). -/
opaque kemDecap : List Byte → BitVec 256
/-- AES-256 key unwrap of RFC 3394; none where its integrity check fails (R356). -/
opaque aesUnwrap : BitVec 256 → List Byte → Option (BitVec 256)
/-- SHA-384 of a message, by byte (R353, R357). -/
opaque sha384 : List Byte → Nat → Byte
/-- The Ed25519 signature that the vendor makes of an image's message, by byte (R349; log entry 16). -/
opaque vendorEd25519 : List Byte → Nat → Byte
/-- The ML-DSA-65 signature that the vendor makes of an image's message, by byte (R349; log entry 16). -/
opaque vendorMldsa65 : List Byte → Nat → Byte
/-- Another Ed25519 signature of a message verifies against the vendor's key (R349). -/
opaque verifyEd25519 : List Byte → List Byte → Bool
/-- Another ML-DSA-65 signature of a message verifies against the vendor's key (R349). -/
opaque verifyMldsa65 : List Byte → List Byte → Bool
/-- Flits beyond the first that the buffer of a sublink's receiver holds (R398; log entry 65). -/
opaque flitBuffer : Nat
/-- Ed25519 signature of a message under the attestation key, by byte (R357). -/
opaque ed25519 : List Byte → Nat → Byte
/-- ML-DSA-65 signature of a message under the attestation key, by byte (R357). -/
opaque mldsa65 : List Byte → Nat → Byte
/-- BLAKE3 keyed hash of a message, by byte (R362). -/
opaque blake3 : BitVec 256 → List Byte → Nat → Byte
/-- AES-256-GCM: key, IV, additional data and plaintext to ciphertext and tag, by byte (R400). -/
opaque gcmSeal : BitVec 256 → List Byte → List Byte → List Byte → Nat → Byte
/-- AES-256-GCM: key, IV, additional data, ciphertext and tag to the plaintext; none where it does not authenticate
(R400). -/
opaque gcmOpen : BitVec 256 → List Byte → List Byte → List Byte → List Byte → Option (List Byte)
/-- Whether a fibre under test passes; applied to the count of draws (R355, SPARERET). -/
opaque fibrePasses : Nat → Bool

end Sys2Proof.Config
end

