-- ==== Sys2Proof/Machine/State.lean ====
section
/-!
DEFINITION. The state of a TRX-4100 package as plain data, and the state after reset. INVENTORY.md lists each piece with
its rule and its reset value.
-/

namespace Sys2Proof.Machine

/-- A sparse table: entries by rising key; a key not listed holds the table's default. -/
abbrev Table (α : Type) := List (Nat × α)

/-- Physical memory, a scratchpad or a tile file: bytes by address. A byte not listed is 0 (R128, R346). -/
abbrev Mem := List Host.Cell

/-! ### The strand (02) -/

/-- Life of a strand within its instance (R37). -/
inductive Life where
  | idle | running | halted
deriving DecidableEq, Repr, Inhabited

/-- The condition a strand is in (R24). -/
inductive StrandCond where
  | issuing | interlock | fullEmpty | semWait | strandWait | barrierWait | queueFull | queueWait | fabricWait
  | rangeBoard | fetch | stopped
deriving DecidableEq, Repr, Inhabited

/-- Why a strand that is RUNNING issues nothing (R106, R111, R115, R120). -/
inductive Held where
  /-- it issues -/
  | no
  /-- stopped at a `SAFE` or `YIELD` with this live mask (R106) -/
  | atSafe (mask : Dword)
  /-- stopped in a safe condition or withdrawn, every register live (R120) -/
  | live
  /-- stopped by a fault whose record is at this address, every register live (R111, R115) -/
  | faulted (cause : BitVec 16) (record : Dword)
deriving DecidableEq, Repr, Inhabited

/-- Block state (R19, R30, R31). -/
structure Block where
  /-- inside a body; otherwise the next halfword is a header -/
  inBody : Bool
  /-- address of the body's first halfword -/
  start : Dword
  /-- body length in halfwords, 1 to 256 -/
  len : Nat
  /-- remaining passes, this one counted -/
  remain : Nat
deriving DecidableEq, Repr, Inhabited

/-- State of a handle register (R215). -/
inductive HState where
  | invalid | resolving | valid | absent
deriving DecidableEq, Repr, Inhabited

/-- A handle register (R215, R219). -/
structure Handle where
  state : HState
  /-- W permission -/
  wr : Bool
  kind : BitVec 3
  psz : BitVec 2
  lclass : BitVec 4
  /-- virtual page base -/
  base : Dword
  /-- physical page frame base -/
  frame : Dword
  /-- lease expiry in package time -/
  expiry : Dword
deriving DecidableEq, Repr, Inhabited

/-- A line of the loop buffer: 64 bytes of code (R35). -/
structure CodeLine where
  addr : Dword
  halves : List Half
deriving DecidableEq, Repr, Inhabited

/-- A lease held by a fetcher or an engine (R294). -/
structure Lease where
  base : Dword
  psz : BitVec 2
  frame : Dword
  wr : Bool
  kind : BitVec 3
  expiry : Dword
  /-- its length in ns (R288) -/
  span : Nat
deriving DecidableEq, Repr, Inhabited

/-- What a waiting strand has registered, and how it came out (R140, R227, R252). -/
inductive Waiting where
  | none
  /-- in the queue of a semaphore, until a time if the wait has a timeout -/
  | sem (til : Option Nat)
  /-- acquired: the instruction completes with 1 -/
  | got
  /-- timed out: the instruction completes with 0 -/
  | timedOut
  /-- sent to a barrier for a phase: registered there from a time on, and until a time if the wait has a timeout (R252) -/
  | barrier (b : BitVec 4) (p : Word) (reg : Nat) (til : Option Nat)
  /-- the barrier has answered: whether the phase completed, and when the instruction completes (R252) -/
  | answered (ok : Bool) (at_ : Nat)
deriving DecidableEq, Repr, Inhabited

/-- The special registers that belong to a strand (R21, R55). -/
structure Spr where
  rc : Word
  vc : BitVec 7
  /-- FST: NV DZ OF UF NX SAT DOVF TCODE IDZ from bit 0 (R22) -/
  fst : BitVec 9
  corr : Word
  drop : Word
  /-- the cycle at which CYC was 0 -/
  cyc0 : Dword
  cnst : BitVec 8
  tcause : BitVec 16
  spcnt : BitVec 13
  fwst : BitVec 8
  space : BitVec 16
  /-- status collected since the last `FWAIT`: code and tag of the first operation not OK, and their number (R392) -/
  rcode : BitVec 8
  rtag : Word
  rfail : BitVec 16
deriving DecidableEq, Repr, Inhabited

/-- A strand (R19). -/
structure Strand where
  life : Life
  cond : StrandCond
  held : Held
  /-- registers left live by the last `SAFE` (R106, R124) -/
  live : Dword
  pc : Dword
  block : Block
  /-- between a guard and the instruction it guards: whether the guard held (R36); none between steps -/
  guard : Option Bool
  g : Vector Dword 64
  /-- full bits of the `g` registers (R25) -/
  full : Dword
  p : Dword
  h : Vector Handle 16
  /-- vector registers as lanes of 32 bits (R188) -/
  v : Vector (Vector Word 64) 32
  m : Vector Dword 8
  spr : Spr
  wait : Waiting
  /-- lanes of vector loads that have arrived, by register and lane (R205) -/
  vload : Table Word
  lines : List CodeLine
  lease : Option Lease
  /-- flushes that have not completed, oldest first: SPACE, base, length and time of issue (R221) -/
  flushes : List (BitVec 16 × Nat × Nat × Nat)
deriving DecidableEq, Repr, Inhabited

/-! ### The core (07) -/

/-- State of a job of a queue (R135). -/
inductive JobState where
  | queued | awaitSem | awaitTile | awaitLeave | running | halted
deriving DecidableEq, Repr, Inhabited

/-- How a job ends (R136). -/
inductive JobStatus where
  | ok | incomplete | halt | fault | dropped
deriving DecidableEq, Repr, Inhabited

/-- What a job that has finished its work reports when it completes (R136). -/
structure JobEnd where
  status : JobStatus
  cause : BitVec 16
  addr : Dword
  detail : Dword
  /-- flags for the pusher's FST (R22) -/
  flags : BitVec 9
  /-- items for the pusher's ERRC.DROP -/
  drop : Nat
deriving DecidableEq, Repr, Inhabited

/-- A job of a command queue (R135, R144). -/
structure Job where
  id : Word
  sid : StrandId
  /-- SPACE of the `PUSH` (R222) -/
  space : BitVec 16
  d0 : Dword
  d1 : Dword
  d2 : Dword
  d3 : Dword
  state : JobState
  /-- layout record captured at the pop, 64 bytes; none for a flat job -/
  layout : Option (List Byte)
  /-- leave units held (R143) -/
  units : Nat
  pchunk : BitVec 24
  /-- where a DECODE continues (R144) -/
  resumeAt : Dword
  /-- bytes a DECODE has produced (R236, R239) -/
  made : Nat
  /-- DETAIL of the first chunk a DECODE has reported (R239) -/
  short : Option Dword
  /-- bytes of a DECODE's stream that have come from a peer, by attempt and address (R386) -/
  inbuf : Table Byte
  /-- jobs a `QFENCE` recorded: queue and id, 8 for the frame job (R234) -/
  fence : List (Nat × Word)
  /-- parameters read once at the pop: a merge job's block, a root image (R257, R376) -/
  params : List Byte
  /-- translations the job holds (R294) -/
  leases : List Lease
  /-- packets of a fabric job that did not complete OK: stream offset and status (R396) -/
  fails : List (Nat × Nat)
  ending : Option JobEnd
deriving DecidableEq, Repr, Inhabited

/-- A command queue (R135 to R138): its jobs not yet retired, oldest first. The watermark is the id of the first of
them, or the next id. -/
structure Queue where
  next : Word
  jobs : List Job
deriving DecidableEq, Repr, Inhabited

/-- A claimed entry of the range scoreboard (R141). -/
structure Range where
  base : Nat
  len : Nat
  write : Bool
  queue : QueueId
  job : Word
deriving DecidableEq, Repr, Inhabited

/-- A buffer ring (R142). -/
structure Ring where
  desc : Dword
  acq : BitVec 12
  rel : BitVec 12
  free : BitVec 12
deriving DecidableEq, Repr, Inhabited

/-- Who waits at a semaphore (R140). -/
inductive SemParty where
  | strand (sid : StrandId)
  | job (q : QueueId)
  | frame
deriving DecidableEq, Repr, Inhabited

/-- A waiter of a semaphore (R140). -/
structure SemWait where
  k : BitVec 8
  n : Nat
  party : SemParty
deriving DecidableEq, Repr, Inhabited

/-- Where a signal of a cycle comes from, in R140's order. -/
inductive SigSrc where
  | strand (sid : StrandId)
  | job (q : QueueId) (pusher : StrandId)
  | frame
  | fabric
deriving DecidableEq, Repr, Inhabited

/-- A signal, or a `KSET`, not yet applied (R140, R226). -/
structure Signal where
  set : Bool
  k : BitVec 8
  n : Nat
  src : SigSrc
  /-- stores of its strand to a neighbour's scratchpad that it follows (R226, R247) -/
  after : List Event := []
deriving DecidableEq, Repr, Inhabited

/-- A deferred change of a tile bit by a strand (R107). -/
structure TileChange where
  strand : StrandId
  tile : TReg
  full : Bool
deriving DecidableEq, Repr, Inhabited

/-- An entry of a deck tile (R134). -/
structure DeckEntry where
  t : Word
  p : Word
  i : Dword
deriving DecidableEq, Repr, Inhabited

/-- A K-row of B as the window holds it: column mask and elements by column; its illegal elements, and whether its record
is too long (R71, R151, R155, R160). An E2M1S element whose block has special code `c` stands as `256·(c + 1)` more. -/
structure BRow where
  mask : Dword
  vals : List Nat
  bad : Nat
  long : Bool
deriving DecidableEq, Repr, Inhabited

/-- An item of the frame (R154, R157): row, job-wide chunk, positions with A's elements, columns present, sequence
number, its rod, the time it was placed and once taken the time its partials reach the deck, and once taken its partials
by column with the flags they raised. -/
structure FrameItem where
  row : Nat
  chunk : Nat
  ks : List (Nat × Nat)
  present : Dword
  seq : Nat
  rod : Fin 64
  at_ : Nat
  parts : List (Nat × Int)
  flags : BitVec 9
deriving DecidableEq, Repr, Inhabited

/-- A reckoner lane (R154, R156, R160). -/
structure Lane where
  /-- next chunk -/
  next : Nat
  /-- items placed so far: the next sequence number -/
  count : Nat
  /-- its row has faulted -/
  dead : Bool
  /-- item not yet placed -/
  item : Option FrameItem
  /-- entries of its record consumed in this step, the last position among them, and whether padding followed it (R160) -/
  slot : Nat
  prev : Option Nat
  pad : Bool
deriving DecidableEq, Repr, Inhabited

/-- What the frame holds while a job runs (R154 to R158). -/
structure FrameRun where
  lanes : Vector Lane 64
  /-- oldest incomplete chunk -/
  oldest : Nat
  /-- chunks loaded: all below this number -/
  loaded : Nat
  /-- B rows of the loaded chunks still in the window -/
  window : List (Nat × List BRow)
  rods : Vector (List FrameItem) 64
  /-- items a rod has finished, not yet at the deck -/
  net : List FrameItem
  /-- holding buffer of 16 -/
  buffer : List FrameItem
  /-- items added so far, by row -/
  added : Vector Nat 64
  /-- first cycle at which each bead 0 is free -/
  busyTil : Vector Nat 64
  /-- first step not to be performed now: all of the job's, or the step of a pause or of an address error -/
  limit : Nat
  /-- the step it began with -/
  first : Nat
  /-- DETAIL of the address error that set `limit` (R153) -/
  fault : Option Dword
  /-- when the wait for a multicast load ends (R152) -/
  mcTil : Option Nat
deriving DecidableEq, Repr, Inhabited

/-- The frame job held (R145, R149, R175). -/
structure FrameJob where
  fa : Fmt
  fb : Fmt
  acc : Acc
  vc : Nat
  id : Word
  state : JobState
  /-- next step to begin (R149) -/
  step : Nat
  /-- steps completed -/
  done : Nat
  /-- leave units held (R143) -/
  units : Nat
  flags : BitVec 9
  /-- faulted rows (R160) -/
  faulted : Dword
  /-- the metadata fault to report: step, chunk, row (B before row 0), DETAIL (R160) -/
  report : Option (Nat × Nat × Nat × Dword)
  /-- cores whose jobs have left its multicast group, its own among them (R152) -/
  left : BitVec 4
  run : Option FrameRun
  ending : Option JobEnd
deriving DecidableEq, Repr, Inhabited

/-- A drain in progress (R182 to R184). -/
structure Drain where
  deck : BitVec 2
  /-- tile, or scratchpad offset -/
  tile : Option TReg
  off : Nat
  quant : Bool
  act : Bool
  bias : Bool
  ipl : Bool
  satm : Bool
  /-- EPI dwords 0 to 3 -/
  epi : Vector Dword 4
  /-- the 64 bias words -/
  biases : List Nat
  /-- next row to write -/
  row : Nat
  flags : BitVec 9
deriving DecidableEq, Repr, Inhabited

/-- The frame and what M prepares for it (08, 09). -/
structure Frame where
  /-- shadow nest table, 384 bytes (R147) -/
  shadow : Vector Dword 48
  /-- active nest table (R145) -/
  active : Vector Dword 48
  job : Option FrameJob
  nextJ : Word
  lid : Word
  lst : BitVec 3
  cause : BitVec 16
  /-- drain table (R172) -/
  lut : Vector Dword 256
  drain : Option Drain
  /-- an `MAZERO` or `MSCACC` in progress: its tile, and the flags it raises as it completes (R179, R180) -/
  deckOp : Option (BitVec 2 × BitVec 9)
  /-- offset of an `MLUT` copy in progress -/
  mlut : Option Nat
deriving DecidableEq, Repr, Inhabited

/-- A core of the package. -/
structure Core where
  s : Strand
  v : Strand
  m : Strand
  /-- the instance on the core -/
  inst : Option Nat
  spad : Mem
  lastSpace : Option (BitVec 16)
  tiles : Mem
  tileFull : BitVec 16
  tileChanges : List TileChange
  deck : Table DeckEntry
  sem : Vector (BitVec 16) 256
  semWait : List SemWait
  signals : List Signal
  queues : Vector Queue 8
  board : List Range
  rings : Vector Ring 8
  frame : Frame
  deadlock : Nat
  /-- consecutive failures of its cluster-network port (R264) -/
  netFails : Nat
deriving DecidableEq, Repr, Inhabited

/-- A barrier (R249). -/
structure Barrier where
  phase : Word
  arr : Byte
  n : Byte
deriving DecidableEq, Repr, Inhabited

/-- A barrier operation on its way: an arrival into a `g` register, or a new N (R250, R254). -/
structure BarOp where
  who : Who
  bar : BitVec 4
  arrive : Option GReg
  n : Byte
  /-- the cycle in which it is applied: the fourth after its issue -/
  at_ : Nat
deriving DecidableEq, Repr, Inhabited

/-- A cluster (14). -/
structure Cluster where
  bars : Vector Barrier 16
  ops : List BarOp
  /-- core the merge engine served last (R256) -/
  mergeLast : Nat
  /-- taken out of the distributor's pool (R264) -/
  removed : Bool
deriving DecidableEq, Repr, Inhabited

/-- Where an instance stands (R303 to R311, R112, R115); `given` is one granted to a neighbour (R340), `lost` one on its way back
into the pool (R314). -/
inductive InstStatus where
  | ready | running | suspended | saved | terminated | given | lost | retired
deriving DecidableEq, Repr, Inhabited

/-- Where an instance comes from (R305, R335, R341). -/
inductive Origin where
  /-- placed from outside -/
  | none
  /-- a node of a replay -/
  | node (replay : Nat) (index : Nat)
  /-- stolen: port, instance and steal slot -/
  | stolen (p : Port) (inst : Nat) (slot : Nat)
deriving DecidableEq, Repr, Inhabited

/-- What the distributor keeps of a saved part beside its image, which has no field for it: the SPACE of each strand, the
jobs of its queues and the frame job (log entry 23). -/
structure Kept where
  spaces : Vector (BitVec 16) 3
  jobs : Vector (List Job) 8
  frame : Option FrameJob
deriving DecidableEq, Repr, Inhabited

/-- A handler's action on a saved instance, which its resumption applies: the strand, by part and SID, its TCAUSE, and
the REDIRECT target with the record's address (R117). -/
structure Action where
  part : Nat
  sid : StrandId
  cause : BitVec 16
  redirect : Option (Dword × Dword)
deriving DecidableEq, Repr, Inhabited

/-- The device program of a copy node (R335). -/
structure CopyRun where
  src : Dword
  dst : Dword
  len : Nat
  /-- bytes copied so far -/
  done : Nat
  /-- bytes the scratchpad holds that are still to be copied out -/
  held : Nat
deriving DecidableEq, Repr, Inhabited

/-- The save slots of an instance as its dispatch assigned them: the region of their pool, the virtual address of the first, and
its SPACE (R309, R342). -/
structure SaveArea where
  pool : Nat
  va : Nat
  space : BitVec 16
deriving DecidableEq, Repr, Inhabited

/-- An instance (R303 to R311, R21). -/
structure Inst where
  space : BitVec 16
  leaf : Word
  priv : Bool
  /-- first index -/
  iid : Word
  count : Word
  /-- cores it runs on, by part -/
  cores : List CoreId
  frec : Dword
  preq : Bool
  /-- a fault suspends it: its strands stop at their next safe points (R115) -/
  stop : Bool
  epri : BitVec 4
  status : InstStatus
  cluster : Bool
  idem : Bool
  steal : Bool
  /-- TIME its node entered the pool, and the node's sequence (R304) -/
  entry : Dword
  seq : Nat
  /-- k of R305 -/
  k : Nat
  /-- order of its dispatch (R310) -/
  order : Nat
  entryPc : Dword
  arg : Dword
  rings : Vector Dword 8
  /-- what its tile operands prefer: a vault, and the cluster or die; and their bytes (R308) -/
  tileops : List (Bool × Nat × Nat)
  /-- its save slots (R309) -/
  slot : Option SaveArea
  origin : Origin
  /-- parts as they were saved beside their images -/
  kept : List Kept
  /-- actions its resumption applies (R117) -/
  acts : List Action
  /-- the device program of a copy node (R335) -/
  copy : Option CopyRun
deriving DecidableEq, Repr, Inhabited

/-- A record that awaits its handler's action (R117, R327, R388). -/
structure Awaiting where
  /-- the instance; none for a destination page fault -/
  inst : Option Nat
  /-- region whose fault ring holds the record -/
  region : Nat
  addr : Dword
  /-- the faulting strand; none for a job or core condition -/
  who : Option Who
  cause : BitVec 16
  /-- SPACE and page of a destination page fault -/
  page : Option (BitVec 16 × Nat)
deriving DecidableEq, Repr, Inhabited

/-- A node of a replay in flight (R335). -/
inductive NodeState where
  /-- predecessors yet to complete -/
  | waiting (n : Nat)
  /-- instances yet to retire, and whether one has terminated -/
  | running (n : Nat) (bad : Bool)
  | done
deriving DecidableEq, Repr, Inhabited

/-- What a replay was started by (R334, R335). -/
inductive ReplayFrom where
  | entry (q : Nat) (va : Dword)
  | node (replay : Nat) (index : Nat)
deriving DecidableEq, Repr, Inhabited

/-- A node record and its successor lists (R332). -/
structure Node where
  record : List Byte
  succ : List Nat
  fsucc : List Nat
deriving DecidableEq, Repr, Inhabited

/-- A replay in flight (R334, R335). -/
structure Replay where
  origin : ReplayFrom
  graph : Dword
  space : BitVec 16
  leaf : Nat
  slot : Nat
  number : Word
  /-- virtual address of its replay record (R331) -/
  record : Dword
  /-- node records as its launch read them -/
  recs : List Node
  nodes : List NodeState
  failed : Nat
deriving DecidableEq, Repr, Inhabited

/-- A graph object as the master reads it (R331). -/
structure Graph where
  /-- header dwords 0 to 3 -/
  h : Vector Dword 4
  /-- header bytes from 0x20 are zero -/
  restZero : Bool
  nodes : List Node
deriving DecidableEq, Repr, Inhabited

/-- A launch entry as its queue hands it over: the SPACE it was read in, the queue's leaf region and the entry's dwords (R329, R334,
R338). -/
structure Handed where
  space : BitVec 16
  leaf : Nat
  words : Vector Dword 8
deriving DecidableEq, Repr, Inhabited

/-- An entry or a child replay that waits on its graph, with what its checks read: the graph object and the entry (R334, R335). -/
structure GraphWait where
  graph : Dword
  space : BitVec 16
  by_ : ReplayFrom
  g : Graph
  handed : Handed
deriving DecidableEq, Repr, Inhabited

/-- An entry of a device queue not yet taken (R337, R338). -/
structure DevEntry where
  va : Dword
  space : BitVec 16
  /-- instance that issued the `GLAUNCH` -/
  inst : Option Nat
  who : Who
  /-- in the order of the queue; otherwise the master has yet to read it -/
  placed : Bool
deriving DecidableEq, Repr, Inhabited

/-- A change of the ready pool that awaits its replicas: those yet to acknowledge it, and its step (R303). -/
structure Change where
  need : List DieId
  ev : Event
deriving DecidableEq, Repr, Inhabited

/-- The master's copy of a region control block (R324, R325): its 32 dwords. -/
abbrev Region := Vector Dword 32

/-- The master distributor (19, 20). -/
structure Dist where
  master : DieId
  electing : Bool
  elects : BitVec 16
  regions : Table Region
  awaiting : List Awaiting
  replays : Table Replay
  /-- next key of `insts` and of `replays`, next node sequence and dispatch order -/
  nextInst : Nat
  nextReplay : Nat
  seq : Nat
  order : Nat
  /-- reserved cluster and the instance it is kept for (R307) -/
  reserved : Option (ClusterId × Nat)
  /-- instances being pre-empted for a waiter (R310) -/
  preempting : Option Nat
  /-- entries and child replays waiting on a graph, earliest first (R334) -/
  graphWaits : List GraphWait
  /-- host and device queues whose entry is being handled or is WAITING (R334) -/
  heldQueues : List Nat
  /-- entries handed over, by queue (R334) -/
  handed : Table Handed
  devq : Table (List DevEntry)
  changes : List Change
  /-- changes that every replica has acknowledged, yet to take effect -/
  granted : List Event
  /-- nodes that became ready in the election in progress: replay, index and TIME (R313) -/
  readied : List (Nat × Nat × Dword)
  /-- last load figure of each neighbour (R340) -/
  figures : Vector (Option Nat) 6
  /-- a steal request is outstanding (R340) -/
  asked : Option Port
  /-- steal slots in use (R341) -/
  stealSlots : List Nat
  /-- instances granted to a neighbour and not yet reported (R341) -/
  given : List (Nat × Port)
  /-- TIME until which the threshold of R292 is 32 ns (R291) -/
  wide : Dword
deriving DecidableEq, Repr, Inhabited

/-- A translation in a die's cache (R288). -/
structure CachedTrans where
  space : BitVec 16
  lease : Lease
  /-- class granted -/
  cls : Nat
deriving DecidableEq, Repr, Inhabited

/-- A non-leaf entry the walkers keep (R288). -/
structure CachedEntry where
  addr : Nat
  entry : Dword
  til : Dword
deriving DecidableEq, Repr, Inhabited

/-- A migration entry (R297). -/
structure Migration where
  state : BitVec 2
  psz : BitVec 2
  old : Dword
  new : Dword
  prog : Word
  badl : Word
deriving DecidableEq, Repr, Inhabited

/-- A cross-die write held at its home (R272). -/
structure XWrite where
  sender : DieId
  vec : Vector Word 4
  a : Access
  /-- strands whose writes it makes -/
  by_ : List Who
deriving DecidableEq, Repr, Inhabited

/-- A request for power leave (R143, R350). -/
structure LeaveReq where
  core : CoreId
  /-- queue of a copy job; none for the matrix job -/
  queue : Option QueueId
  units : Nat
deriving DecidableEq, Repr, Inhabited

/-- A remote request held at its destination (R388). -/
structure HeldReq where
  id : Nat
  pkt : Packet
  page : Nat
  /-- when its 1 ms ends -/
  til : Nat
deriving DecidableEq, Repr, Inhabited

/-- A die (17, 18, 21). -/
structure Die where
  /-- its TIME copy less the master's, in ns (R290) -/
  offset : Int
  /-- the copy never reads below this (R290, R291) -/
  hold : Dword
  locked : Bool
  skewf : Bool
  inFault : Bool
  lcuMaster : Bool
  skewcnt : BitVec 16
  ptebad : BitVec 16
  trans : List CachedTrans
  entries : List CachedEntry
  migs : Vector Migration 16
  fenced : Bool
  /-- vector clock, and the counts reported to it (R272) -/
  clock : Vector Word 4
  known : Vector Word 4
  xwrites : List XWrite
  /-- PWRCAP (R350) -/
  cap : BitVec 16
  granted : Nat
  leave : List LeaveReq
  throt : Bool
  /-- core whose `q4` the gather engine served last (R315) -/
  gatherLast : Nat
  /-- destination cache of its port lanes (R387) -/
  portTrans : List CachedTrans
  heldReqs : List HeldReq
  nextReq : Nat
  /-- requests put off before they could be held, with the time each first arrived (R388) -/
  arrived : List (Packet × Nat)
deriving DecidableEq, Repr, Inhabited

/-- A Fikolin image slot of the flash, as bytes (R349). -/
abbrev Image := Mem

/-- Management registers, the security controller and the start (21). -/
structure Plat where
  ctxbase : Dword
  rgnbase : Dword
  wqbase : Dword
  stealctl : Dword
  /-- STARTREC (R347) -/
  fail : BitVec 16
  alt : BitVec 16
  stepNo : BitVec 4
  ready : Bool
  nstart : BitVec 4
  hbmx : BitVec 16
  /-- stacks that this start excluded (R346, R347) -/
  excluded : BitVec 16
  /-- halted in the safe state (R348) -/
  safe : Bool
  alarmpol : Dword
  /-- SECSTAT (R353) -/
  attk : Bool
  linkk : Bool
  cnk : Bool
  slotB : Bool
  alarm : BitVec 3
  fctr : BitVec 16
  qseq : Word
  /-- ERRSUM (R358) -/
  errCorr : Word
  errDrop : Word
  /-- mailbox (R354) -/
  mbOp : BitVec 16
  mbLen : BitVec 14
  busy : Bool
  result : Byte
  rlen : BitVec 14
  mseq : Word
  mbuf : Mem
  /-- result and reply of the command in progress -/
  reply : Option (Nat × List Byte)
  kek : Option (BitVec 256)
  cnKeys : Table (BitVec 256)
  imgA : Image
  imgB : Image
deriving DecidableEq, Repr, Inhabited

/-- A key slot of a port direction (R401). -/
structure LinkKey where
  key : BitVec 256
  swpt : Dword
deriving DecidableEq, Repr, Inhabited

/-- One end of a sublink: what it sends and what it receives (R398 to R403). -/
structure Link where
  up : Bool
  training : Bool
  /-- lanes in use, transmit and receive (R384) -/
  txWidth : Nat
  rxWidth : Nat
  /-- healthy lanes, transmit and receive (R384, R403) -/
  txLanes : Nat
  rxLanes : Nat
  /-- spare fibres assigned, transmit and receive -/
  txSpares : Nat
  rxSpares : Nat
  /-- invocation counter (R400) -/
  counter : Dword
  /-- active transmit slot -/
  slot : Bool
  swpend : Bool
  /-- the sender has switched away from its other slot since that was filled, and whether the far receiver has too (R401) -/
  txOld : Bool
  farOld : Bool
  nextSeq : BitVec 12
  /-- DATA plaintexts not yet sent, first and last marks (R399) -/
  outq : List (Bool × Bool × List Byte)
  /-- DATA flits sent and not acknowledged, by SEQ (R398) -/
  retry : List (BitVec 12 × Bool × Bool × List Byte)
  /-- flits of the retry buffer to be sent again -/
  again : List (BitVec 12 × Bool × Bool × List Byte)
  /-- load figure of the idle flits (R340) -/
  figure : Nat
  /-- a NAK is to be sent -/
  nak : Bool
  expect : BitVec 12
  /-- receive slot the sender has switched to; none until the first flit -/
  rxSlot : Bool
  /-- the other receive slot has been switched away from and not filled again (R401) -/
  rxOld : Bool
  lastCounter : Option Nat
  fails : Nat
  /-- plaintexts of the packet being received -/
  parts : List (List Byte)
  /-- the flit last put on the fibres (the model's own: what leaves the package) -/
  wire : Option Flit
deriving DecidableEq, Repr, Inhabited

/-- PORTSTAT counters of a port (R404). -/
structure PortStat where
  authfail : BitVec 16
  retrains : BitVec 16
  badpkt : BitVec 8
  /-- SLOT: that of the sublink that switched last (R404, R406) -/
  slot : Bool
deriving DecidableEq, Repr, Inhabited

/-- What a remote operation is for (R391, R394). -/
inductive RemoteFor where
  | store
  | load (d : GReg)
  | atomic (ret : Option (Nat × Nat)) (fadd : Bool)
  /-- a packet of a job: stream offset, or a copy's page; local offset; bytes -/
  | job (q : QueueId) (id : Word) (ofs : Nat) (local_ : Nat) (n : Nat)
deriving DecidableEq, Repr, Inhabited

/-- A remote operation that has not completed (R389). -/
structure Remote where
  tag : Word
  who : Who
  use : RemoteFor
deriving DecidableEq, Repr, Inhabited

/-- The fabric of the package (24). -/
structure Fab where
  /-- FABCFG (R383) -/
  cfg : BitVec 27
  /-- sublinks by port and die -/
  links : Vector Link 24
  ports : Vector PortStat 6
  /-- key slots by port, direction (transmit first) and slot (R401) -/
  keys : Vector (Option LinkKey) 24
  /-- spare fibres in the pool (R384) -/
  spares : Nat
  nextTag : Word
  remotes : List Remote
  /-- bytes of the STEAL message that each port is receiving (R399; log entry 64) -/
  stealIn : Vector (List Byte) 6
deriving DecidableEq, Repr, Inhabited

/-- A fault record on its way to its ring: it becomes visible once what its instance wrote before has been performed (R114). Or a
STOPPED bit on its way to its region's block. -/
structure Post where
  /-- region of the ring -/
  ring : Nat
  /-- the record's bytes with the locations they go to -/
  cells : List (Nat × Byte)
  /-- the dword of FRPROD and FRLOST that follows it -/
  count : Dword
  /-- cores of the instance, and when the record was posted -/
  cores : List CoreId
  at_ : Nat
  /-- tags of the remote operations it had outstanding -/
  tags : List Word
  /-- a region's STOPPED bit, where that is what is written (R116, R326) -/
  stop : Option Bool := none
deriving DecidableEq, Repr, Inhabited

/-- A freed interior line that waits for the reclaim engine (R373). -/
structure Reclaim where
  /-- page frame of its region -/
  frame : Nat
  line : Nat
  /-- charged for a name found absent -/
  who : Who
deriving DecidableEq, Repr, Inhabited

/-- A location that an ordering point nearer than its home holds for atomics of its scope (R277). -/
structure HeldLoc where
  scope : Scope
  /-- the core, cluster or die of the point -/
  point : Nat
  /-- the aligned 8-byte location -/
  loc : Nat
  value : Dword
  /-- the point read a word with two wrong bits: no atomic is applied (R280, R283) -/
  bad : Bool
  /-- atomics applied -/
  count : Nat
  /-- when the first of them arrived, and the last -/
  since : Nat
  stamp : Nat
  /-- the last of them: the write-back goes under its translation -/
  last : Access
  /-- strands whose atomics it holds -/
  by_ : List Who
deriving DecidableEq, Repr, Inhabited

/-- What the device has raised in this cycle: a register write of the same cycle is made first, and this is added to what it
wrote (R22, R358, R359). -/
structure Cycle where
  /-- flags raised in FST -/
  flags : List (Who × BitVec 9)
  /-- corrected and dropped counts of ERRC -/
  errs : List (Who × Nat × Nat)
  /-- corrected and dropped counts of ERRSUM -/
  corr : Nat
  drop : Nat
  /-- bits set in ALARM -/
  alarm : BitVec 3
  /-- locations at which a home has taken an access (R267) -/
  served : List Nat
  /-- an access of the master's step has met something on its way (R268, R292) -/
  stalled : Bool
deriving DecidableEq, Repr, Inhabited

/-- The package. -/
structure State where
  cores : Vector Core 512
  clusters : Vector Cluster 128
  dies : Vector Die 4
  insts : Table Inst
  dist : Dist
  plat : Plat
  fab : Fab
  reclaim : List Reclaim
  mem : Mem
  /-- words of memory with an error, by location: true where two bits are wrong, false where one is (R264, R280) -/
  flaws : Table Bool
  /-- bytes of bulk HBM that device writes have changed and no `FLUSH` has shown to the host: what the host still reads (R221,
  R282) -/
  unseen : Table Byte
  /-- vectors of the last writes that carry one, by location (R272) -/
  stamps : Table (Vector Word 4)
  held : List HeldLoc
  /-- input port that each home slice served last, by slice (R267) -/
  slices : Table Nat
  /-- fault records not yet visible, oldest first (R114) -/
  posts : List Post
  /-- the time master's TIME in ns (R290) -/
  time : Dword
  /-- cycles since power-on (the model's own; CYC counts from it) -/
  now : Dword
  /-- the cycle under way (the model's own) -/
  cycle : Cycle
  peer : BitVec 12
  /-- what the host's last read returned (the model's own: what leaves the package) -/
  hostRead : Dword
  /-- the strand that issues next (the model's own) -/
  turn : Who
  /-- the running strands after it, in the order they issue (the model's own) -/
  roster : List Who
  /-- steps that are due, oldest first (the model's own) -/
  agenda : List Event
  /-- steps due when the package time reaches a value (the model's own) -/
  timers : List (Nat × Event)
  /-- draws of free values made so far (the model's own) -/
  fresh : Nat
deriving DecidableEq, Repr, Inhabited

/-- Why the machine stops. -/
inductive Fault where
  /-- Raised by a step whose access names a physical address that the map of R343 leaves unassigned. Safe: the spec
  gives such an address no contents. -/
  | unassignedAddress
deriving DecidableEq, Repr

/-- Why a step has no meaning here. -/
inductive Refusal where
  /-- Raised by an arm of `exec` that has no meaning yet, with the row's mnemonic. Safe. -/
  | notModelled (mnemonic : String)
deriving DecidableEq, Repr

/-! ### Reset -/

/-- A handle holding no lease (R20). -/
def Handle.none : Handle :=
  { state := .invalid, wr := false, kind := 0, psz := 0, lclass := 0, base := 0, frame := 0, expiry := 0 }

/-- Special registers before an instance starts (R20, R118; the others by log entry 5). -/
def Spr.reset : Spr :=
  { rc := 0, vc := 64, fst := 0, corr := 0, drop := 0, cyc0 := 0, cnst := 0, tcause := 0, spcnt := 0, fwst := 0, space := 0,
    rcode := 0, rtag := 0, rfail := 0 }

/-- A strand before an instance starts (R20, R37; log entry 5). -/
def Strand.reset : Strand :=
  { life := .idle, cond := .stopped, held := .no, live := BitVec.allOnes 64, pc := 0,
    block := { inBody := false, start := 0, len := 0, remain := 0 }, guard := none,
    g := Vector.replicate 64 0, full := BitVec.allOnes 64, p := 1,
    h := Vector.replicate 16 Handle.none, v := Vector.replicate 32 (Vector.replicate 64 0),
    m := (Vector.replicate 8 0).set 0 (BitVec.allOnes 64), spr := Spr.reset, wait := .none, vload := [], lines := [], lease := none, flushes := [] }

def Queue.reset : Queue := { next := 1, jobs := [] }
def Ring.reset : Ring := { desc := 0, acq := 0, rel := 0, free := 0 }

/-- The nest table at instance start and after `NCLR`: the Reset column of R147. -/
def nestReset : Vector Dword 48 :=
  Vector.ofFn fun i : Fin 48 =>
    if i.val < 24 then (if i.val % 4 = 0 then 1 else 0)
    else if i.val = 24 ∨ i.val = 28 then BitVec.ofNat 64 (2 ^ 36 + 64 * 2 ^ 48)
    else if i.val = 32 then BitVec.ofNat 64 (2 + 2 ^ 4 + 2 ^ 6)
    else 0

def Frame.reset : Frame :=
  { shadow := nestReset, active := nestReset, job := none, nextJ := 1, lid := 0, lst := 0, cause := 0,
    lut := Vector.replicate 256 0, drain := none, deckOp := none, mlut := none }

/-- A core with no instance on it. -/
def Core.reset : Core :=
  { s := Strand.reset, v := Strand.reset, m := Strand.reset, inst := none, spad := [], lastSpace := none, tiles := [],
    tileFull := 0, tileChanges := [], deck := [], sem := Vector.replicate 256 0, semWait := [], signals := [],
    queues := Vector.replicate 8 Queue.reset, board := [], rings := Vector.replicate 8 Ring.reset, frame := Frame.reset,
    deadlock := 0, netFails := 0 }

def Barrier.reset : Barrier := { phase := 0, arr := 0, n := 4 }
def Cluster.reset : Cluster := { bars := Vector.replicate 16 Barrier.reset, ops := [], mergeLast := 3, removed := false }

/-- No instance: what MFS reads of instance registers on a core without one (log entry 5). -/
def Inst.none : Inst :=
  { space := 0, leaf := 0, priv := false, iid := 0, count := 0, cores := [], frec := 0, preq := false, stop := false,
    epri := 0, status := .retired, cluster := false, idem := false, steal := false, entry := 0, seq := 0, k := 0,
    order := 0, entryPc := 0, arg := 0, rings := Vector.replicate 8 0, tileops := [], slot := Option.none, origin := .none, kept := [],
    acts := [], copy := Option.none }

def Migration.reset : Migration := { state := 0, psz := 0, old := 0, new := 0, prog := 0, badl := 0 }

def Die.reset : Die :=
  { offset := 0, hold := 0, locked := false, skewf := false, inFault := false, lcuMaster := false, skewcnt := 0,
    ptebad := 0, trans := [], entries := [], migs := Vector.replicate 16 Migration.reset, fenced := false,
    clock := Vector.replicate 4 0, known := Vector.replicate 4 0, xwrites := [], cap := 760, granted := 0, leave := [],
    throt := false, gatherLast := 127, portTrans := [], heldReqs := [], nextReq := 0, arrived := [] }

/-- The first 64 bytes of the image at reset: its MAGIC, and nothing else (R349; log entry 7). -/
def headerReset : List Byte := [0x46, 0x4B, 0x4C, 0x4E] ++ List.replicate 60 0

/-- The cells of `n` bytes from an offset on: those that are not 0. -/
def byteCells (off n : Nat) (f : Nat → Byte) : Mem := (List.range n).filterMap fun i => if f i = 0 then none else some (off + i, f i)

/-- An image that a start accepts: its MAGIC, ROLLBACK 0, an empty body, and the vendor's signatures of that (R349; log entry 7). -/
def imageReset : Image :=
  byteCells 0 64 (fun i => headerReset.getD i 0) ++ byteCells 0x40 64 (Config.vendorEd25519 headerReset) ++
    byteCells 0x80 3309 (Config.vendorMldsa65 headerReset)

/-- ALARMPOL's reset value: TAMPER 0xF, VGLITCH 0x7, CGLITCH 0x7 (R352). -/
def alarmpolReset : Dword := 0x77F

def Plat.reset : Plat :=
  { ctxbase := 0, rgnbase := 0, wqbase := 0, stealctl := 0, fail := 0, alt := 0, stepNo := 0, ready := false, nstart := 0,
    hbmx := 0, excluded := 0, safe := false, alarmpol := alarmpolReset, attk := true, linkk := true, cnk := true, slotB := false, alarm := 0,
    fctr := 0, qseq := 0, errCorr := 0, errDrop := 0, mbOp := 0, mbLen := 0, busy := false, result := 0, rlen := 0,
    mseq := 0, mbuf := [], reply := none, kek := none, cnKeys := [], imgA := imageReset, imgB := imageReset }

def Link.reset : Link :=
  { up := false, training := false, txWidth := 80, rxWidth := 80, txLanes := 80, rxLanes := 80, txSpares := 0, rxSpares := 0, counter := 0, slot := false,
    swpend := false, txOld := false, farOld := false, nextSeq := 0, outq := [], retry := [], again := [], figure := 0, nak := false, expect := 0,
    rxSlot := false, rxOld := false, lastCounter := none, fails := 0, parts := [], wire := none }

def Fab.reset : Fab :=
  { cfg := 0, links := Vector.replicate 24 Link.reset, ports := Vector.replicate 6 { authfail := 0, retrains := 0, badpkt := 0, slot := false },
    keys := Vector.replicate 24 none, spares := 64, nextTag := 0, remotes := [], stealIn := Vector.replicate 6 [] }

def Dist.reset : Dist :=
  { master := 0, electing := false, elects := 0, regions := [], awaiting := [], replays := [], nextInst := 0, nextReplay := 0,
    seq := 0, order := 0, reserved := none, preempting := none, graphWaits := [], heldQueues := [], handed := [], devq := [], changes := [],
    granted := [], readied := [],
    figures := Vector.replicate 6 none, asked := none, stealSlots := [], given := [], wide := 0 }

/-- A cycle in which nothing has been raised. -/
def Cycle.none : Cycle := { flags := [], errs := [], corr := 0, drop := 0, alarm := 0, served := [], stalled := false }

/-- A start in which every part works (R346; log entry 7). -/
def Startup.good : Startup :=
  { normal := 0, alternate := 0, links := 0, dies := 0, vaults := 0, hbm := 0, clocks := 0, alarms := [] }

/-- The machine right after reset: the start-up sequence is due (R346). -/
def State.reset : State :=
  { cores := Vector.replicate 512 Core.reset, clusters := Vector.replicate 128 Cluster.reset,
    dies := Vector.replicate 4 Die.reset, insts := [], dist := Dist.reset, plat := Plat.reset, fab := Fab.reset,
    reclaim := [], mem := [], flaws := [], unseen := [], stamps := [], held := [], slices := [], posts := [], time := 0, now := 0, cycle := Cycle.none, peer := 0, hostRead := 0,
    turn := { core := 0, strand := .s }, roster := [], agenda := [.moduleStart Startup.good], timers := [], fresh := 0 }

end Sys2Proof.Machine
end

