-- ==== Sys2Proof/Machine/Bits.lean ====
section
/-!
DEFINITION. Bit fields, sparse tables and little-endian byte memories (R4): the plain helpers the meanings use.
-/

namespace Sys2Proof.Machine

/-- Bit `i` of `x` set to `b`. -/
def setBit {w : Nat} (x : BitVec w) (i : Nat) (b : Bool) : BitVec w :=
  if b then x ||| (1#w <<< i) else x &&& ~~~(1#w <<< i)

/-- Bits `[hi:lo]` of a dword as a number. -/
def fld (x : Dword) (hi lo : Nat) : Nat := x.toNat / 2 ^ lo % 2 ^ (hi + 1 - lo)

/-- Bits `[hi:lo]` of a dword replaced. -/
def setFld (x : Dword) (hi lo v : Nat) : Dword :=
  dw (x.toNat - fld x hi lo * 2 ^ lo + v % 2 ^ (hi + 1 - lo) * 2 ^ lo)

/-- Bytes of an access size (R42). -/
def sizeBytes : Size → Nat
  | .b => 1 | .h => 2 | .w => 4 | .d => 8

/-- The low `n` bytes of a dword. -/
def lowBytes (n : Nat) (x : Dword) : Dword := dw (x.toNat % 256 ^ n)

/-- Whether an unsigned sum holds at a number: the number held at `top`. -/
def holdAdd (top x n : Nat) : Nat := min top (x + n)

/-! ### Tables -/

/-- The entry at a key, or the default. -/
def Table.get {α : Type} (d : α) : Table α → Nat → α
  | [], _ => d
  | (k, x) :: r, i => if k = i then x else if i < k then d else Table.get d r i

/-- The entry at a key, if one is listed. -/
def Table.find {α : Type} : Table α → Nat → Option α
  | [], _ => none
  | (k, x) :: r, i => if k = i then some x else if i < k then none else Table.find r i

/-- Lists an entry, in its place. -/
def Table.put {α : Type} : Table α → Nat → α → Table α
  | [], i, x => [(i, x)]
  | (k, y) :: r, i, x =>
    if k = i then (i, x) :: r else if i < k then (i, x) :: (k, y) :: r else (k, y) :: Table.put r i x

/-- Takes an entry out. -/
def Table.del {α : Type} : Table α → Nat → Table α
  | [], _ => []
  | (k, y) :: r, i => if k = i then r else if i < k then (k, y) :: r else (k, y) :: Table.del r i

/-! ### Byte memories -/

/-- One byte. -/
def Mem.get : Mem → Nat → Byte
  | [], _ => 0
  | (k, x) :: r, a => if k = a then x else if a < k then 0 else Mem.get r a

/-- Lists a byte that is not 0. -/
def Mem.insert : Mem → Nat → Byte → Mem
  | [], a, x => [(a, x)]
  | (k, y) :: r, a, x =>
    if k = a then (a, x) :: r else if a < k then (a, x) :: (k, y) :: r else (k, y) :: Mem.insert r a x

/-- Takes a byte out of the list: it reads 0. -/
def Mem.erase : Mem → Nat → Mem
  | [], _ => []
  | (k, y) :: r, a => if k = a then r else if a < k then (k, y) :: r else (k, y) :: Mem.erase r a

/-- Writes one byte, keeping the canonical form. -/
def Mem.put (m : Mem) (a : Nat) (x : Byte) : Mem := if x = 0 then m.erase a else m.insert a x

/-- The canonical form: addresses strictly rising, no byte that reads as an unlisted one. -/
def Mem.wfFrom : Nat → Mem → Bool
  | _, [] => true
  | lo, (k, x) :: r => decide (lo ≤ k) && x != 0 && Mem.wfFrom (k + 1) r

/-- The canonical form of a memory. -/
def Mem.wf (m : Mem) : Bool := Mem.wfFrom 0 m

/-- `n` bytes from an address as a number, low byte first (R4). -/
def Mem.nat (m : Mem) (a : Nat) : Nat → Nat
  | 0 => 0
  | n + 1 => (m.get a).toNat + 256 * Mem.nat m (a + 1) n

/-- Writes the low `n` bytes of a number, low byte first. -/
def Mem.putNat (m : Mem) (a : Nat) : Nat → Nat → Mem
  | 0, _ => m
  | n + 1, v => Mem.putNat (m.put a (BitVec.ofNat 8 v)) (a + 1) n (v / 256)

/-- `n` bytes from an address. -/
def Mem.bytes (m : Mem) (a : Nat) : Nat → List Byte
  | 0 => []
  | n + 1 => m.get a :: Mem.bytes m (a + 1) n

/-- Writes bytes at rising addresses. -/
def Mem.putBytes (m : Mem) (a : Nat) : List Byte → Mem
  | [] => m
  | x :: r => Mem.putBytes (m.put a x) (a + 1) r

/-- A dword of memory. -/
def Mem.dword (m : Mem) (a : Nat) : Dword := dw (m.nat a 8)

/-- The bytes of dwords, low byte first. -/
def dwordBytes : List Dword → List Byte
  | [] => []
  | x :: r => (List.range 8).map (fun i => x.extractLsb' (8 * i) 8) ++ dwordBytes r

/-- The number that bytes spell, low byte first. -/
def leNat : List Byte → Nat
  | [] => 0
  | b :: r => b.toNat + 256 * leNat r

/-- A dword of a list of bytes. -/
def bytesDword (bs : List Byte) (i : Nat) : Dword := dw (leNat ((bs.drop (8 * i)).take 8))

/-- The `n` low bytes of a number, low byte first. -/
def leBytes : Nat → Nat → List Byte
  | 0, _ => []
  | n + 1, v => BitVec.ofNat 8 v :: leBytes n (v / 256)

end Sys2Proof.Machine
end

