-- ==== Sys2Proof/Machine/Ops.lean ====
section
/-!
DEFINITION. The named operations over registers, memory and strands: accessors, translation, fault records, taking an
exception and returning from one, waiting, and passing an instruction.
-/

namespace Sys2Proof.Machine

/-- What a step answers. -/
abbrev Out := Host.Outcome State Fault Refusal

/-! ### Accessors of the parts -/

def Core.strand (c : Core) : StrandId → Strand
  | .s => c.s
  | .v => c.v
  | .m => c.m

def Core.setStrand (c : Core) (i : StrandId) (z : Strand) : Core :=
  match i with
  | .s => { c with s := z }
  | .v => { c with v := z }
  | .m => { c with m := z }

def State.core (s : State) (c : CoreId) : Core := s.cores[c]
def State.setCore (s : State) (c : CoreId) (x : Core) : State := { s with cores := s.cores.set c.val x c.isLt }
def State.strand (s : State) (w : Who) : Strand := (s.core w.core).strand w.strand
def State.setStrand (s : State) (w : Who) (z : Strand) : State :=
  s.setCore w.core ((s.core w.core).setStrand w.strand z)
def State.die (s : State) (d : DieId) : Die := s.dies[d]
def State.setDie (s : State) (d : DieId) (x : Die) : State := { s with dies := s.dies.set d.val x d.isLt }

/-- The strand whose turn it is. -/
def State.me (s : State) : Strand := s.strand s.turn
def State.setMe (s : State) (z : Strand) : State := s.setStrand s.turn z
/-- The core of the strand whose turn it is. -/
def State.here (s : State) : Core := s.core s.turn.core
def State.setHere (s : State) (c : Core) : State := s.setCore s.turn.core c

/-- CID[8:7] of a core (R22). -/
def dieOf (c : CoreId) : DieId := ⟨c.val / 128, by omega⟩
/-- CID[8:2] of a core (R22). -/
def clusterOf (c : CoreId) : ClusterId := ⟨c.val / 4, by omega⟩
/-- CID[1:0] of a core. -/
def coreInCluster (c : CoreId) : Nat := c.val % 4
/-- A core of a cluster. -/
def coreOf (k : ClusterId) (i : Nat) : CoreId := ⟨4 * k.val + i % 4, by omega⟩

/-- CID (R22). -/
def State.cid (s : State) (c : CoreId) : Dword := dw (s.peer.toNat * 512 + c.val)

/-- SID as a number (R17). -/
def sidNat : StrandId → Nat
  | .s => 0
  | .v => 1
  | .m => 2

/-- The strand of an SID. -/
def sidOf : Nat → StrandId
  | 0 => .s
  | 1 => .v
  | _ => .m

/-- The instance on a core; with none, `Inst.none`. -/
def State.instOn (s : State) (c : CoreId) : Inst :=
  match (s.core c).inst with
  | some k => Table.get Inst.none s.insts k
  | none => Inst.none

/-- The instance of the strand whose turn it is. -/
def State.myInst (s : State) : Inst := s.instOn s.turn.core

def State.getInst (s : State) (k : Nat) : Inst := Table.get Inst.none s.insts k
def State.setInst (s : State) (k : Nat) (x : Inst) : State := { s with insts := Table.put s.insts k x }

/-- TIME as a die reads it: its copy, which never steps back (R290). -/
def State.dieTime (s : State) (d : DieId) : Dword :=
  let t := BitVec.ofInt 64 (s.time.toInt + (s.die d).offset)
  if t.toNat < (s.die d).hold.toNat then (s.die d).hold else t

/-! ### The agenda -/

/-- Adds a step to the end of those due. -/
def State.due (s : State) (i : Event) : State := { s with agenda := s.agenda ++ [i] }
/-- Adds steps to the end of those due. -/
def State.dueAll (s : State) (is : List Event) : State := { s with agenda := s.agenda ++ is }
/-- A step to come when the package time reaches `t`. -/
def State.timer (s : State) (t : Nat) (i : Event) : State := { s with timers := s.timers ++ [(t, i)] }

/-- A step that comes after a time the spec leaves open, at least a cycle (R11, R25, R135; log entry 24). -/
def State.whenReady (s : State) (i : Event) : State :=
  { s with fresh := s.fresh + 1, timers := s.timers ++ [(s.time.toNat + 1 + Config.delay s.fresh, i)] }

/-! ### Registers of a strand -/

/-- Reads a `g` register; `g0` is 0 (R19). -/
def Strand.rg (z : Strand) (r : GReg) : Dword := if r = 0 then 0 else z.g[r.toNat]'r.isLt
/-- Writes a `g` register; a write of `g0` is discarded (R19, R87). -/
def Strand.wg (z : Strand) (r : GReg) (x : Dword) : Strand :=
  if r = 0 then z else { z with g := z.g.set r.toNat x r.isLt }
/-- The full bit of a `g` register; `g0` is always full (R19, R25). -/
def Strand.isFull (z : Strand) (r : GReg) : Bool := r == 0 || z.full.getLsbD r.toNat
/-- Makes a `g` register empty; `g0` changes no bit (R25). -/
def Strand.empty (z : Strand) (r : GReg) : Strand :=
  if r = 0 then z else { z with full := setBit z.full r.toNat false }
/-- Makes a `g` register full, holding a result (R25). -/
def Strand.fill (z : Strand) (r : GReg) (x : Dword) : Strand :=
  if r = 0 then z else { z.wg r x with full := setBit z.full r.toNat true }
/-- Reads a predicate; `p0` is 1 (R19). -/
def Strand.rp (z : Strand) (n : PReg) : Bool := n == 0 || z.p.getLsbD n.toNat
/-- Writes a predicate; a write of `p0` is discarded (R19, R87). -/
def Strand.wp (z : Strand) (n : PReg) (b : Bool) : Strand :=
  if n = 0 then z else { z with p := setBit z.p n.toNat b }
/-- Reads a lane mask; `m0` is all ones (R188). -/
def Strand.rm (z : Strand) (k : MReg) : Dword := if k = 0 then BitVec.allOnes 64 else z.m[k.toNat]'k.isLt
/-- Writes a lane mask; a write of `m0` is discarded (R188). -/
def Strand.wm (z : Strand) (k : MReg) (x : Dword) : Strand :=
  if k = 0 then z else { z with m := z.m.set k.toNat x k.isLt }
/-- Reads a vector register. -/
def Strand.rv (z : Strand) (r : VReg) : Vector Word 64 := z.v[r.toNat]'r.isLt
/-- Writes a vector register. -/
def Strand.wv (z : Strand) (r : VReg) (x : Vector Word 64) : Strand := { z with v := z.v.set r.toNat x r.isLt }
/-- Where a lane of a vector load waits for the others (R205). -/
def laneKey (d : VReg) (lane : Nat) : Nat := 64 * d.toNat + lane
/-- Reads a handle register. -/
def Strand.rh (z : Strand) (h : HReg) : Handle := z.h[h.toNat]'h.isLt
/-- Writes a handle register. -/
def Strand.wh (z : Strand) (h : HReg) (x : Handle) : Strand := { z with h := z.h.set h.toNat x h.isLt }

/-- ORs flags into FST (R22). -/
def Strand.flags (z : Strand) (f : BitVec 9) : Strand := { z with spr := { z.spr with fst := z.spr.fst ||| f } }
/-- Counts dropped items in ERRC.DROP, which holds at its top (R22). -/
def Strand.dropped (z : Strand) (n : Nat) : Strand :=
  { z with spr := { z.spr with drop := BitVec.ofNat 32 (holdAdd 0xFFFFFFFF z.spr.drop.toNat n) } }
/-- Counts corrected errors in ERRC.CORR, which holds at its top (R22). -/
def Strand.corrected (z : Strand) (n : Nat) : Strand :=
  { z with spr := { z.spr with corr := BitVec.ofNat 32 (holdAdd 0xFFFFFFFF z.spr.corr.toNat n) } }

/-- Flags that a cycle has raised for a strand. -/
def Cycle.flagsOf (y : Cycle) (w : Who) : BitVec 9 := (y.flags.filter fun x => x.1 == w).foldl (fun f x => f ||| x.2) 0
/-- Corrected errors that a cycle has counted for a strand. -/
def Cycle.corrOf (y : Cycle) (w : Who) : Nat := ((y.errs.filter fun x => x.1 == w).map fun x => x.2.1).sum
/-- Drops that a cycle has counted for a strand. -/
def Cycle.dropOf (y : Cycle) (w : Who) : Nat := ((y.errs.filter fun x => x.1 == w).map fun x => x.2.2).sum

/-- The device raises flags in a strand's FST (R22). -/
def State.raise (s : State) (w : Who) (f : BitVec 9) : State :=
  { s.setStrand w ((s.strand w).flags f) with cycle := { s.cycle with flags := (w, f) :: s.cycle.flags } }

/-- Errors counted in ERRSUM (R358). -/
def State.errsum (s : State) (corr drop : Nat) : State :=
  { s with
    plat := { s.plat with
      errCorr := BitVec.ofNat 32 (holdAdd 0xFFFFFFFF s.plat.errCorr.toNat corr)
      errDrop := BitVec.ofNat 32 (holdAdd 0xFFFFFFFF s.plat.errDrop.toNat drop) }
    cycle := { s.cycle with corr := s.cycle.corr + corr, drop := s.cycle.drop + drop } }

/-- Errors counted in a strand's ERRC (R22). -/
def State.errc (s : State) (w : Who) (corr drop : Nat) : State :=
  { s.setStrand w (((s.strand w).corrected corr).dropped drop) with cycle := { s.cycle with errs := (w, corr, drop) :: s.cycle.errs } }

/-- Items dropped or substituted, charged to a strand and counted in ERRSUM (R22, R358). -/
def State.drop (s : State) (w : Who) (n : Nat) : State := (s.errc w 0 n).errsum 0 n

/-- Corrected errors, charged to a strand and counted in ERRSUM (R22, R358). -/
def State.corr (s : State) (w : Who) (n : Nat) : State := (s.errc w n 0).errsum n 0

/-! ### Physical memory -/

/-- Base of the coherent window (R343). -/
def windowBase : Nat := 0xC100000000
/-- Base of the management registers (R343). -/
def mgmtBase : Nat := 0xC100100000

/-- Whether a physical address lies in a range of the map of R343 other than the management registers. -/
def memAddr (pa : Nat) : Bool := pa < windowBase && pa < 0xC0C0000000 || (windowBase ≤ pa && pa < mgmtBase)
/-- Whether a physical address is a management register's (R343). -/
def mgmtAddr (pa : Nat) : Bool := mgmtBase ≤ pa && pa < mgmtBase + 0x10000
/-- Whether a physical address is assigned and in no excluded stack (R343, R347). -/
def State.assigned (s : State) (pa : Nat) : Bool :=
  if pa < 0xC000000000 then !s.plat.excluded.getLsbD (pa / 0xC00000000) else memAddr pa || mgmtAddr pa

/-- The die that homes a physical address (R267, R343); the management registers lie on die 0. -/
def homeDie (pa : Nat) : DieId :=
  if pa < 0xC000000000 then ⟨pa / 0xC00000000 / 4 % 4, by omega⟩
  else if pa < 0xC0C0000000 then ⟨(pa - 0xC000000000) / 0x1800000 / 32 % 4, by omega⟩
  else ⟨(pa - windowBase) / 0x40000 % 4, by omega⟩

/-- Bytes of a page by its size code (R219). -/
def pageBytes (psz : BitVec 2) : Nat :=
  match psz with
  | 0 => 0x10000
  | 1 => 0x200000
  | _ => 0x40000000

/-- Where a migration entry sends an access of `pa`, if it sends it on (R298). -/
def Migration.target (e : Migration) (pa : Nat) : Option Nat :=
  if e.old.toNat ≤ pa && pa < e.old.toNat + pageBytes e.psz then
    let x := pa - e.old.toNat
    if e.state == 2 || (e.state == 1 && x < e.prog.toNat) then some (e.new.toNat + x) else none
  else none

/-- The location an access of `pa` is performed at: each home on its way sends it on under its migrations (R298). -/
def State.homeFrom (s : State) : Nat → Nat → Nat
  | 0, pa => pa
  | fuel + 1, pa =>
    match (s.die (homeDie pa)).migs.toList.findSome? (·.target pa) with
    | some next => State.homeFrom s fuel next
    | none => pa

/-- The location an access of `pa` is performed at; the package has 64 migration entries (R297, R298). -/
def State.homeOf (s : State) (pa : Nat) : Nat := s.homeFrom 64 pa

/-- The aligned 8-byte location of an address (R266). -/
def locOf (pa : Nat) : Nat := pa / 8 * 8

/-- Memory as it is read: a word with two wrong bits reads 0 (R264, R280). -/
def State.sound (s : State) : Mem := s.flaws.foldl (fun m e => if e.2 then m.putNat e.1 8 0 else m) s.mem

/-- A word has two wrong bits. -/
def State.badWord (s : State) (pa : Nat) : Bool := Table.find s.flaws (locOf pa) == some true

/-- How many of the bytes at some addresses lie in a word. -/
def bytesIn (xs : List Nat) (loc : Nat) : Nat := (xs.filter fun a => locOf a == loc).length

/-- Bulk HBM, which the host reads without back-invalidation (R282). -/
def bulkHbm (pa : Nat) : Bool := decide (pa < 0xC000000000)

/-- What the host goes on reading where the device has written bulk HBM over the memory `before`, until a `FLUSH` (R221,
R282). -/
def hostView (v : Table Byte) (before after : Mem) (xs : List Nat) : Table Byte :=
  xs.foldl (fun v a =>
    if bulkHbm a && before.get a != after.get a && (Table.find v a).isNone then Table.put v a (before.get a) else v) v

/-- The bytes at `xs` have been written over the memory `before`: a word written whole has no error, one written in part is
corrected where one bit is wrong, and keeps its old bytes where two are (R280). -/
def State.patched (s : State) (before : Mem) (xs : List Nat) : State :=
  let lost (e : Nat × Bool) : Bool := e.2 && decide (0 < bytesIn xs e.1) && decide (bytesIn xs e.1 < 8)
  { s with mem := s.flaws.foldl (fun m e => if lost e then m.putNat e.1 8 (before.nat e.1 8) else m) s.mem
           flaws := s.flaws.filter fun e => bytesIn xs e.1 == 0 || lost e }

/-- The host has yet to see what the device has written at `xs` over the memory `before` (R282). -/
def State.hidden (s : State) (before : Mem) (xs : List Nat) : State := { s with unseen := hostView s.unseen before s.mem xs }

/-- The device has written the bytes at `xs` over the memory `before` (R280, R282). -/
def State.mended (s : State) (before : Mem) (xs : List Nat) : State := (s.patched before xs).hidden before xs

/-- A flush has shown some bytes to the host (R221, R282). -/
def State.shown (s : State) (xs : List Nat) : State := { s with unseen := s.unseen.filter fun e => !xs.contains e.1 }

/-- The `n` addresses from one on. -/
def addrs (pa n : Nat) : List Nat := (List.range n).map (pa + ·)

/-- Reads `n` bytes of one location at its home. -/
def State.physNat (s : State) (pa n : Nat) : Nat := s.sound.nat (s.homeOf pa) n
/-- Writes the low `n` bytes of a number from one address of a home on (R267, R280). -/
def State.putNat (s : State) (pa n v : Nat) : State := ({ s with mem := s.mem.putNat pa n v } : State).mended s.mem (addrs pa n)
/-- Writes the low `n` bytes of a number at one location's home. -/
def State.setPhys (s : State) (pa n v : Nat) : State := s.putNat (s.homeOf pa) n v
/-- Reads a dword at its home. -/
def State.physDword (s : State) (pa : Nat) : Dword := dw (s.physNat pa 8)

/-! ### Errors met (R280, R358) -/

/-- The words with an error that an access of some bytes meets, each with whether two bits are wrong and the virtual address
of the first byte that lies in it. `xs` gives each byte's address at its home and its virtual address. A write of a whole word
meets none. -/
def State.meets (s : State) (wr : Bool) (xs : List (Nat × Nat)) : List (Nat × Bool × Nat) :=
  s.flaws.filterMap fun e =>
    match xs.find? fun x => locOf x.1 == e.1 with
    | some x => if wr && bytesIn (xs.map (·.1)) e.1 == 8 then none else some (e.1, e.2, x.2)
    | none => none

/-- What an access meets that no strand makes: errors count in ERRSUM (R358). -/
def State.ownErrors (s : State) (wr : Bool) (xs : List Nat) : State :=
  (s.meets wr (xs.map fun a => (a, 0))).foldl (fun s e =>
    if e.2.1 then s.errsum 0 1 else ({ s with flaws := Table.del s.flaws e.1 } : State).errsum 1 0) s

/-- A walker, the master or another unit of the package reads bytes at physical addresses (R358). -/
def State.metAt (s : State) (as : List Nat) : State := if s.flaws.isEmpty then s else s.ownErrors false (as.map s.homeOf)

/-- It reads `n` bytes from one address on. -/
def State.met (s : State) (pa n : Nat) : State := s.metAt (addrs pa n)

/-! ### Ordering points (R268, R272, R277) -/

/-- A scope's breadth (R268). -/
def scopeRank : Scope → Nat
  | .core => 0
  | .cluster => 1
  | .die => 2
  | .package => 3

/-- The ordering point of a scope on a core's way to memory: the core, cluster or die it stands in (R268). -/
def pointOf (c : CoreId) : Scope → Nat
  | .core => c.val
  | .cluster => (clusterOf c).val
  | .die => (dieOf c).val
  | .package => 0

/-- The nearest point on a core's way that holds a location; a migrating page's two frames are one place (R277, R299). -/
def State.heldOnWay (s : State) (c : CoreId) (loc : Nat) : Option HeldLoc :=
  ([.core, .cluster, .die] : List Scope).findSome? fun sc =>
    s.held.find? fun x => x.scope == sc && x.point == pointOf c sc && s.homeOf x.loc == s.homeOf loc

/-- A write that its die sent to a home of another die and that has not been applied, of one location (R268, R299). -/
def State.crossingAt (s : State) (d : DieId) (loc : Nat) : Bool :=
  s.dies.toList.any fun x => x.xwrites.any fun w => w.sender == d && s.homeOf (locOf w.a.pa) == s.homeOf loc

/-- Writes of some strands that their dies sent to other dies have not been applied (R272). -/
def State.crossing (s : State) (p : Who → Bool) : Bool := s.dies.toList.any fun d => d.xwrites.any fun x => x.by_.any p

/-- An access by a core of a location waits behind another on its way: a point holds the location, or a write of the core's
die to it is crossing (R268, R277). -/
def State.behind (s : State) (c : CoreId) (loc : Nat) : Bool := (s.heldOnWay c loc).isSome || s.crossingAt (dieOf c) loc

/-- `x` does not come before `y`, counted modulo 2^32 (R272). -/
def countReached (x y : Word) : Bool := decide ((x - y).toNat < 2 ^ 31)

/-- The larger of two counts within the window (R272). -/
def countMax (x y : Word) : Word := if countReached x y then x else y

/-- Notes the vector of the last write of a location (R272). -/
def State.stamp (s : State) (pa : Nat) (v : Vector Word 4) : State :=
  { s with stamps := if v == Vector.replicate 4 0 then Table.del s.stamps (locOf pa) else Table.put s.stamps (locOf pa) v }

/-- A load's response from another die brings the vector of the write it returns (R272). -/
def State.learn (s : State) (d : DieId) (pa : Nat) : State :=
  if homeDie pa = d then s
  else
    match Table.find s.stamps (locOf pa) with
    | some v => s.setDie d { s.die d with clock := Vector.ofFn fun i : Fin 4 => countMax v[i] (s.die d).clock[i] }
    | none => s

/-- A die's next write to a home of another die takes its number: the die's vector counts it, and a report is due within 64
cycles (R272). -/
def State.countWrite (s : State) (d : DieId) : State :=
  let x := s.die d
  let s := s.setDie d { x with clock := x.clock.set d.val (x.clock[d] + 1) d.isLt }
  if s.timers.any fun t => t.2 == .appliedCountReport d then s else s.timer (s.time.toNat + 64) (.appliedCountReport d)

/-- The locations of bytes, one for each run of bytes that lie in it. -/
def locsOf : List Nat → List Nat
  | [] => []
  | a :: r => if (locsOf r).head? == some (locOf a) then locsOf r else locOf a :: locsOf r

/-- What an access that a die's engine or port makes at homes brings and leaves: a read of another die's home brings the vector of
the write it returns; a write leaves the die's vector there, and one to another die's home is counted (R272). -/
def State.ordered (s : State) (d : DieId) (wr : Bool) (as : List Nat) : State :=
  (locsOf (as.filter fun a => !mgmtAddr a)).foldl (fun (s : State) a =>
    if wr then
      let s := if homeDie a = d then s else s.countWrite d
      s.stamp a (s.die d).clock
    else s.learn d a) s

/-- A write that a die has sent, or has seen, has not been reported as applied to every other die (R272). -/
def State.unreported (s : State) (d : DieId) : Bool :=
  (List.finRange 4).any fun h => !(s.die h).fenced && h != d &&
    (List.finRange 4).any fun f => !(s.die f).fenced && !countReached ((s.die h).known[f]) ((s.die d).clock[f])

/-! ### The homes' ports (R255, R267) -/

/-- The home slice of a location: one of the 32 of its die, or its vault's controller (R255, R267). -/
def sliceOf (pa : Nat) : Nat :=
  if pa < 0xC000000000 then 32 * (homeDie pa).val + pa / 256 % 32
  else if windowBase ≤ pa then 32 * (homeDie pa).val + (pa - windowBase) / 256 % 32
  else 128 + (pa - 0xC000000000) / 0x1800000 % 128

/-- The input port that the accesses of a core come in by, strands' and engines' alike. -/
def corePort (c : CoreId) : Nat := (Config.slicePort c.val).val
/-- That of the host's accesses. -/
def hostPort : Nat := (Config.slicePort 512).val
/-- That of the requests that come by a die's fabric ports. -/
def fabricPort (d : DieId) : Nat := (Config.slicePort (513 + d.val)).val
/-- That of a strand's access. -/
def accessPort (a : Access) : Nat := corePort a.who.core

/-- How far a port stands from its turn at a slice, which goes round after the port served last (R267). -/
def State.portTurn (s : State) (slice port : Nat) : Nat := (port + 7 - Table.get 7 s.slices slice) % 8

/-- The home of a location has taken an access of it in this cycle (R267). -/
def State.taken (s : State) (pa : Nat) : Bool := s.cycle.served.contains (locOf pa)

/-- A home takes an access that comes in by a port: the port has had its turn, and the location none other in this cycle (R267). -/
def State.take (s : State) (port pa : Nat) : State :=
  { s with cycle := { s.cycle with served := locOf pa :: s.cycle.served }, slices := Table.put s.slices (sliceOf pa) port }

/-- Homes take an access of bytes at some addresses, each location once. -/
def State.takeAll (s : State) (port : Nat) (as : List Nat) : State :=
  (locsOf (as.filter fun a => !mgmtAddr a)).foldl (fun s a => s.take port a) s

/-- A die has sent or seen a write that is not known to be applied: a write that its engines or ports make at another die's home
waits (R272). -/
def State.sending (s : State) (d : DieId) : Bool :=
  s.unreported d || s.dies.toList.any fun x => x.xwrites.any fun w => w.sender == d

/-! ### Translation (18) -/

/-- Fields of a context table entry that must be 0, and VALID (R284). -/
def ctxValid (e0 e1 e2 e3 : Dword) : Bool :=
  e0.getLsbD 0 && fld e0 17 1 == 0 && fld e0 63 48 == 0 && fld e1 21 0 == 0 && fld e1 63 48 == 0 && fld e2 63 4 == 0 &&
    e3 == 0

/-- Physical address of a context's entry (R284). -/
def State.ctxAddr (s : State) (space : BitVec 16) : Nat := s.plat.ctxbase.toNat + 32 * space.toNat

/-- A page-table entry as a walk meets it at a level (R286, R287). -/
inductive Pte where
  | absent
  | malformed
  | next (table : Nat)
  | leaf (wr : Bool) (kind : BitVec 3) (lclass : Nat) (frame : Nat)
deriving DecidableEq, Repr, Inhabited

/-- Page size code of a leaf at a level. -/
def levelPsz : Nat → BitVec 2
  | 0 => 0
  | 1 => 1
  | _ => 2

/-- Classifies an entry read at a level (R286, R287). `known` says that an address lies in an
assigned range; a page lies there with its first and its last byte, or is malformed (R343; log entry 25). -/
def Pte.read (known : Nat → Bool) (level : Nat) (e : Dword) : Pte :=
  if !e.getLsbD 0 then .absent
  else if e.getLsbD 2 then
    let kind := BitVec.ofNat 3 (fld e 5 3)
    let lc := fld e 9 6
    let frame := fld e 56 16 * 0x10000
    if fld e 15 10 != 0 || fld e 63 57 != 0 || lc == 0 || decide (5 ≤ kind.toNat) then .malformed
    else if kind != 3 && (frame % pageBytes (levelPsz level) != 0 || decide (2 ^ 48 ≤ frame) || !known frame ||
        !known (frame + pageBytes (levelPsz level) - 1)) then .malformed
    else if kind == 3 && frame % 2 ^ 45 % pageBytes (levelPsz level) != 0 then .malformed
    else .leaf (e.getLsbD 1 && kind != 2) kind lc frame
  else
    let nxt := fld e 47 8 * 0x100
    if level == 0 || e.getLsbD 1 || fld e 7 3 != 0 || fld e 63 48 != 0 then .malformed
    else if nxt % (if level == 2 then 0x1000 else 0x100) != 0 then .malformed
    else .next nxt

/-- Index of a virtual address at a level (R285). -/
def levelIndex (level va : Nat) : Nat :=
  match level with
  | 2 => va / 2 ^ 30 % 32768
  | 1 => va / 2 ^ 21 % 512
  | _ => va / 2 ^ 16 % 32

/-- Reads an entry for a walker of a die: a non-leaf entry that the walkers still keep, or the one at its home
(R288). -/
def State.readEntry (s : State) (d : DieId) (addr : Nat) : Dword :=
  match (s.die d).entries.find? (fun c => c.addr == addr && decide ((s.dieTime d).toNat < c.til.toNat)) with
  | some c => c.entry
  | none => s.physDword addr

/-- The errors that the read of an entry at its home meets (R358). -/
def State.entryMet (s : State) (d : DieId) (addr : Nat) : State :=
  if (s.die d).entries.any fun c => c.addr == addr && decide ((s.dieTime d).toNat < c.til.toNat) then s else s.met addr 8

/-- A die notes a non-leaf entry for 1000 ns (R288). -/
def State.keepEntry (s : State) (d : DieId) (addr : Nat) (e : Dword) : State :=
  let x := s.die d
  if x.entries.any (fun c => c.addr == addr && decide ((s.dieTime d).toNat < c.til.toNat)) then s
  else
    let fresh : CachedEntry := { addr := addr, entry := e, til := s.dieTime d + 1000 }
    s.setDie d { x with entries := fresh :: x.entries.filter (fun c => c.addr != addr) }

/-- A malformed entry met by a die's walkers (R287, R301). -/
def State.pteBad (s : State) (d : DieId) : State :=
  let x := s.die d
  s.setDie d { x with ptebad := BitVec.ofNat 16 (holdAdd 0xFFFF x.ptebad.toNat 1) }

/-- The length of a lease in ns (R288). -/
def leaseSpan (kind : BitVec 3) (c : Nat) : Nat := if kind == 4 then 1000 else 2 ^ (c - 1) * 1000

/-- What a walk finds: the page's lease and its class, or no page; and the page base (R408). -/
structure WalkResult where
  found : Option (Lease × Nat)
  base : Nat
deriving DecidableEq, Repr, Inhabited

/-- The levels of a walk, from the root down (R285 to R288). -/
def State.walkFrom (s : State) (d : DieId) (va cap : Nat) : Nat → Nat → State × WalkResult
  | level, table =>
    let addr := table + 8 * levelIndex level va
    let e := s.readEntry d addr
    let s := s.entryMet d addr
    match Pte.read s.assigned level e with
    | .absent => (s, { found := none, base := va / 0x10000 * 0x10000 })
    | .malformed => (s.pteBad d, { found := none, base := va / 0x10000 * 0x10000 })
    | .leaf wr kind lc frame =>
      let psz := levelPsz level
      let base := va / pageBytes psz * pageBytes psz
      let c := min lc cap
      (s, { found := some ({ base := dw base, psz := psz, frame := dw frame, wr := wr, kind := kind,
                             expiry := s.dieTime d + dw (leaseSpan kind c), span := leaseSpan kind c }, c), base := base })
    | .next t =>
      match level with
      | 0 => (s, { found := none, base := va / 0x10000 * 0x10000 })
      | l + 1 => State.walkFrom (s.keepEntry d addr e) d va cap l t

/-- A walk of a virtual address in a context by a die's walkers (R284 to R288). -/
def State.walk (s : State) (d : DieId) (space : BitVec 16) (va : Nat) : State × WalkResult :=
  let a := s.ctxAddr space
  let e0 := s.physDword a
  let e1 := s.physDword (a + 8)
  let e2 := s.physDword (a + 16)
  let e3 := s.physDword (a + 24)
  let s := s.met a 32
  if ctxValid e0 e1 e2 e3 then
    let cap := if fld e2 3 0 == 0 then 15 else fld e2 3 0
    s.walkFrom d va cap 2 (fld e0 47 18 * 2 ^ 18)
  else (s, { found := none, base := va / 0x10000 * 0x10000 })

/-- The home of a location is in a clock-skew fault: it holds every access that arrives (R292). -/
def State.homeHolds (s : State) (pa : Nat) : Bool := !mgmtAddr pa && (s.die (homeDie (s.homeOf pa))).inFault

/-- An agent of a die that is none of its cores waits on its way to some addresses at homes: behind a write of the die that crosses to
another, behind a location that the die's gateway holds, or at a home in a clock-skew fault; `g` bytes from each address that is a
multiple of `g` count as one (R268, R277, R292). -/
def State.dieWaits (s : State) (d : DieId) (as : List Nat) (g : Nat := 8) : Bool :=
  let hits (loc : Nat) : Bool := as.any fun a => a / g == s.homeOf loc / g
  s.dies.toList.any (fun x => x.xwrites.any fun w => w.sender == d && hits w.a.pa) ||
    s.held.any (fun x => x.scope == .die && x.point == d.val && hits x.loc) ||
    (s.dies.toList.any (·.inFault) && as.any s.homeHolds)

/-- A walker's read of an entry is held at its home (R288, R292). -/
def State.entryHeld (s : State) (d : DieId) (addr : Nat) : Bool :=
  s.homeHolds addr && !(s.die d).entries.any fun c => c.addr == addr && decide ((s.dieTime d).toNat < c.til.toNat)

/-- A walk reads an entry that its home holds, at one of the levels from the root down. -/
def State.levelHeld (s : State) (d : DieId) (va : Nat) : Nat → Nat → Bool
  | level, table =>
    let addr := table + 8 * levelIndex level va
    s.entryHeld d addr ||
      match Pte.read s.assigned level (s.readEntry d addr), level with
      | .next t, l + 1 => State.levelHeld s d va l t
      | _, _ => false

/-- A walk cannot go on now: the die's walkers stall, or a home on its way holds its read (R292). -/
def State.walkStalls (s : State) (d : DieId) (space : BitVec 16) (va : Nat) : Bool :=
  let a := s.ctxAddr space
  (s.die d).inFault || s.homeHolds a || s.levelHeld d va 2 (fld (s.physDword a) 47 18 * 2 ^ 18)

/-- Walks of the pages that `n` bytes lie on stall. -/
def State.walksStall (s : State) (d : DieId) (space : BitVec 16) (va n : Nat) : Bool :=
  n != 0 && (List.range ((va + n - 1) / 0x10000 - va / 0x10000 + 1)).any fun i => s.walkStalls d space ((va / 0x10000 + i) * 0x10000)

/-- What the master's step has met on the way of its accesses puts the step off: what it did is not done (R268, R272, R292). -/
def State.stall (s : State) (b : Bool) : State := if b then { s with cycle := { s.cycle with stalled := true } } else s

/-- A walk for the master's step stalls with the walkers (R292). -/
def State.walkMet (s : State) (space : BitVec 16) (va : Nat) : State := s.stall (s.walkStalls s.dist.master space va)

/-- The physical address of a virtual address under a lease. -/
def Lease.at (l : Lease) (va : Nat) : Nat := l.frame.toNat + (va - l.base.toNat)

/-- A lease covers an address and need not be renewed yet (R35, R294). -/
def Lease.serves (l : Lease) (va now : Nat) : Bool :=
  decide (l.base.toNat ≤ va) && decide (va < l.base.toNat + pageBytes l.psz) &&
    decide (now + l.span / 8 ≤ l.expiry.toNat) && decide (now < l.expiry.toNat)

/-- A virtual address translated afresh: its physical address and whether stores are permitted. A remote window names no
memory of the package. -/
def State.translate (s : State) (d : DieId) (space : BitVec 16) (va : Nat) : State × Option (Nat × Bool) :=
  match s.walk d space va with
  | (s', { found := some (l, _), .. }) =>
    if l.kind == 3 || decide (2 ^ 45 ≤ va) then (s', none) else (s', some (l.at va, l.wr))
  | (s', _) => (s', none)

/-! ### Regions and fault records (20, 06) -/

def Region.valid (r : Region) : Bool := r[0].getLsbD 0
def Region.leaf (r : Region) : Bool := r[0].getLsbD 1
def Region.system (r : Region) : Bool := r[0].getLsbD 2
def Region.stopped (r : Region) : Bool := r[0].getLsbD 3
def Region.policy (r : Region) : Nat := fld r[0] 5 4
def Region.prio (r : Region) : Nat := fld r[0] 9 6
def Region.parent (r : Region) : Nat := fld r[0] 29 16
def Region.space (r : Region) : Nat := fld r[0] 47 32
/-- Override bit `i` (R325). -/
def Region.ovr (r : Region) (i : Nat) : Bool := r[0].getLsbD (48 + i)

/-- Address of a region's block (R324). -/
def State.regionAddr (s : State) (n : Nat) : Nat := s.plat.rgnbase.toNat + 256 * n

/-- Reads a region's block from memory. -/
def State.readRegion (s : State) (n : Nat) : Region :=
  Vector.ofFn (fun i : Fin 32 => s.physDword (s.regionAddr n + 8 * i.val))

/-- The master's copy of a region's block: the kept one, or the block as memory holds it (R325). -/
def State.region (s : State) (n : Nat) : Region := (Table.find s.dist.regions n).getD (s.readRegion n)

/-- Keeps the master's copy of a region's block (R325). -/
def State.keepRegion (s : State) (n : Nat) (r : Region) : State :=
  { s with dist := { s.dist with regions := Table.put s.dist.regions n r } }

/-- The master reads aligned dwords, `n` bytes in all, at physical addresses (R268, R272, R358). -/
def State.masterMet (s : State) (pa n : Nat) : State :=
  let as := (List.range (n / 8)).map fun i => s.homeOf (pa + 8 * i)
  ((s.met pa n).ordered s.dist.master false as).stall (s.dieWaits s.dist.master as)

/-- It writes an aligned dword (R268, R272). -/
def State.masterPut (s : State) (pa : Nat) (x : Dword) : State :=
  let a := s.homeOf pa
  ((s.setPhys pa 8 x.toNat).ordered s.dist.master true [a]).stall (s.dieWaits s.dist.master [a])

/-- A region and its ancestors (R324). -/
def State.pathFrom (s : State) : Nat → Nat → List Nat
  | 0, n => [n]
  | fuel + 1, n => if n = 0 then [0] else n :: State.pathFrom s fuel (s.region n).parent

def State.regionPath (s : State) (n : Nat) : List Nat := s.pathFrom n n

/-- The master keeps a copy of each block of a region's path; the errors that a block's first read meets are counted (R325,
R358). -/
def State.keepPath (s : State) (n : Nat) : State :=
  (s.regionPath n).foldl (fun s m =>
    let t := if (Table.find s.dist.regions m).isSome then s else s.masterMet (s.regionAddr m) 256
    t.keepRegion m (s.region m)) s

/-- The region whose own value an inheritable field takes, with the region's copy (R325). Each parent lies below its
child, so the fuel of the region's own number suffices. -/
def State.ownerFrom (s : State) (bit : Nat) : Nat → Nat → Nat
  | 0, n => n
  | fuel + 1, n =>
    let r := s.region n
    if n = 0 || r.ovr bit then n else State.ownerFrom s bit fuel r.parent

/-- The region that an inheritable field of region `n` is taken from (R325). -/
def State.owner (s : State) (bit n : Nat) : Nat := s.ownerFrom bit n n

/-- Fields of the map of R324 that must be 0. -/
def Region.reservedZero (r : Region) : Bool :=
  fld r[0] 15 10 == 0 && fld r[0] 31 30 == 0 && fld r[0] 63 57 == 0 && fld r[1] 15 10 == 0 && fld r[1] 47 40 == 0 &&
    fld r[2] 63 45 == 0 && fld r[3] 63 16 == 0 && fld r[4] 63 45 == 0 && fld r[5] 63 16 == 0 && fld r[7] 63 10 == 0 &&
    (r.toList.drop 8).all (· == 0)

/-- A block keeps to its map: reserved fields, limits and alignments (R324). -/
def Region.mapOk (r : Region) : Bool :=
  r.valid && r.reservedZero && r.policy != 3 && decide (fld r[1] 9 0 ≤ 512) && fld r[2] 15 0 == 0 &&
    fld r[4] 5 0 == 0 && fld r[5] 15 0 != 0

/-- Whether region `n` is valid: every block on its path keeps to the map, and each parent is a valid inner region
below its child (R324). -/
def State.regionOkFrom (s : State) : Nat → Nat → Bool
  | 0, n => n == 0 && (s.region 0).mapOk
  | fuel + 1, n =>
    (s.region n).mapOk && (n == 0 ||
      (decide ((s.region n).parent < n) && !(s.region (s.region n).parent).leaf &&
        State.regionOkFrom s fuel (s.region n).parent))

def State.regionOk (s : State) (n : Nat) : Bool := decide (n < 16384) && s.regionOkFrom n n

/-- Effective policy of a region: 0 STOP, 1 CONTINUE, 2 ESCALATE, which at the root acts as STOP (R116, R325). -/
def State.policy (s : State) (n : Nat) : Nat :=
  let p := (s.region (s.owner 7 n)).policy
  if n = 0 && p = 2 then 0 else p

/-- The region whose policy finally applies to region `n`: up the tree while it escalates (R116). -/
def State.domainFrom (s : State) : Nat → Nat → Nat
  | 0, n => n
  | fuel + 1, n => if s.policy n = 2 then State.domainFrom s fuel (s.region n).parent else n

def State.domain (s : State) (n : Nat) : Nat := s.domainFrom n n

/-- Class of a cause (R110): 0 precise, 1 resumable, 2 fatal, 3 job. -/
def causeClass (c : BitVec 16) : Nat :=
  let n := c.toNat
  if n = 0x10 then 1
  else if n = 0x25 then 0
  else if n = 0x62 then 2
  else if 0x20 ≤ n ∧ n < 0x40 then 2
  else if 0x40 ≤ n then 3
  else 0

/-- The fields of a fault record that its poster gives (R113). -/
structure Rec where
  cause : BitVec 16
  /-- the strand; none is SID 3 -/
  sid : Option StrandId
  /-- QUEUE field -/
  queue : BitVec 4
  arg : Byte
  pc : Dword
  cid : Dword
  addr : Dword
  detail : Dword
deriving DecidableEq, Repr, Inhabited

/-- The eight dwords of a record (R113). -/
def Rec.dwords (r : Rec) (i : Inst) (time : Dword) : List Dword :=
  [ dw (r.cause.toNat + (match r.sid with | some x => sidNat x | none => 3) * 2 ^ 16 + causeClass r.cause * 2 ^ 18 +
      r.queue.toNat * 2 ^ 20 + r.arg.toNat * 2 ^ 24 + i.space.toNat * 2 ^ 32),
    r.pc, r.cid, dw (i.leaf.toNat + i.iid.toNat * 2 ^ 32), r.addr, r.detail, time, 0 ]

/-- Where `n` bytes from a virtual address on lie at their homes, up to the first page that is not there with write
permission; and whether they all lie before it. -/
def State.vaPlaces (s : State) (d : DieId) (space : BitVec 16) (va : Nat) : Nat → State × List Nat × Bool
  | 0 => (s, [], true)
  | n + 1 =>
    match s.translate d space va with
    | (s1, some (pa, true)) =>
      match State.vaPlaces s1 d space (va + 1) n with
      | (s2, as, ok) => (s2, s1.homeOf pa :: as, ok)
    | (s1, _) => (s1, [], false)

/-- A die's distributor writes bytes at a virtual address, page by page through fresh translations; answers whether every page was there
with write permission. Bytes before a page that is not stay written (R268, R272). -/
def State.vaWrite (s : State) (d : DieId) (space : BitVec 16) (va : Nat) (bs : List Byte) : State × Bool :=
  match s.vaPlaces d space va bs.length with
  | (s1, as, ok) =>
    let s2 := (s1.ownErrors true as).stall (s.walksStall d space va bs.length || s1.dieWaits d as)
    ((({ s2 with mem := (as.zip bs).foldl (fun m x => m.put x.1 x.2) s1.mem } : State).mended s1.mem as).ordered d true as, ok)

/-- The physical addresses of `n` bytes at a virtual address, with the bytes; none where a page is not present. -/
def State.vaBytes (s : State) (d : DieId) (space : BitVec 16) (va : Nat) : Nat → State × Option (List (Nat × Byte))
  | 0 => (s, some [])
  | n + 1 =>
    match s.translate d space va with
    | (s1, some (pa, _)) =>
      match State.vaBytes s1 d space (va + 1) n with
      | (s2, some r) => (s2, some ((pa, BitVec.ofNat 8 (s1.physNat pa 1)) :: r))
      | (s2, none) => (s2, none)
    | (s1, none) => (s1, none)

/-- It reads `n` bytes at a virtual address; none where a page is not present. The errors met count in ERRSUM (R268, R272, R358). -/
def State.vaRead (s : State) (d : DieId) (space : BitVec 16) (va n : Nat) : State × Option (List Byte) :=
  let stalls := s.walksStall d space va n
  match s.vaBytes d space va n with
  | (t, some r) =>
    let as := r.map fun x => t.homeOf x.1
    (((t.metAt (r.map (·.1))).ordered d false as).stall (stalls || t.dieWaits d as), some (r.map (·.2)))
  | (t, none) => (t.stall stalls, none)

/-- Writes that an instance on some cores had made by a time have yet to be performed: they wait, cross to another die, are
held at a point, or are on their way to another core or package (R114). -/
def State.writesOut (s : State) (cores : List CoreId) (til : Nat) (tags : List Word) : Bool :=
  let out : Event → Bool
    | .homeAccess a => a.wr && cores.contains a.who.core && decide (a.at_ ≤ til)
    | .clusterAccess w _ _ _ x _ => x.isSome && cores.contains w.core
    | .contentNamedOperation x => cores.contains x.who.core
    | _ => false
  s.agenda.any out || s.timers.any (fun t => out t.2) ||
    s.dies.toList.any (fun d => d.xwrites.any fun x => cores.contains x.a.who.core && decide (x.a.at_ ≤ til)) ||
    s.held.any (fun x => decide (x.since ≤ til) && cores.any fun c => x.point == pointOf c x.scope) ||
    s.fab.remotes.any fun r => tags.contains r.tag

/-- Where a write of the master's for a region lies at its homes: a record's bytes and the dword that counts it, or the dword of
STOPPED (R114, R324). -/
def State.postPlaces (s : State) (p : Post) : List Nat :=
  (p.cells.map fun x => s.homeOf x.1) ++ [s.homeOf (s.regionAddr p.ring + if p.stop.isSome then 0 else 0x30)]

/-- Such a write has its turn: no earlier one for its region is on its way, what its instance wrote before has been performed, and
nothing on its own way holds it (R114, R268, R272, R292). -/
def State.postReady (s : State) (p : Post) (before : List Post) : Bool :=
  let m := s.dist.master
  !before.any (fun x => x.ring == p.ring) && !s.writesOut p.cores p.at_ p.tags && !s.dieWaits m (s.postPlaces p) &&
    !(s.sending m && (s.postPlaces p).any fun a => homeDie a != m)

/-- A record is written and counted, or a region's STOPPED bit is (R114, R116, R324). -/
def State.writePost (s : State) (p : Post) : State :=
  match p.stop with
  | some b =>
    let s := s.masterMet (s.regionAddr p.ring) 8
    s.masterPut (s.regionAddr p.ring) (setBit (s.physDword (s.regionAddr p.ring)) 3 b)
  | none =>
    let as := p.cells.map fun x => s.homeOf x.1
    ((({ s with mem := (as.zip (p.cells.map (·.2))).foldl (fun m x => m.put x.1 x.2) s.mem } : State).mended s.mem as).ordered
      s.dist.master true as).masterPut (s.regionAddr p.ring + 0x30) p.count

/-- Records on their way, oldest first: each whose turn it is becomes visible. -/
def State.writePosts : List Post → List Post → State → State
  | _, [], s => s
  | kept, p :: r, s =>
    if s.postReady p kept then State.writePosts kept r (({ s with posts := kept ++ r } : State).writePost p)
    else State.writePosts (kept ++ [p]) r s

/-- RECORD_POST: records that wait are looked at again, until none does (R114). -/
def State.recordPost (s : State) : State :=
  let s := State.writePosts [] s.posts s
  if s.posts.isEmpty || s.timers.any (fun t => t.2 == .recordPost) then s else s.timer (s.time.toNat + 1) .recordPost

/-- Marks a region STOPPED, or no longer, in the copy, and in memory as its write has its turn (R116, R324, R326). -/
def State.stopRegion (s : State) (n : Nat) (b : Bool) : State :=
  let r := s.region n
  let s := s.keepRegion n (r.set 0 (setBit r[0] 3 b))
  let p : Post := { ring := n, cells := [], count := 0, cores := [], at_ := s.time.toNat, tags := [], stop := some b }
  ({ s with posts := s.posts ++ [p] } : State).recordPost

/-- Writes a record to the fault ring of region `n` (R114, R324, R327): the next slot in turn, FRPROD counted. A busy slot
or a ring page that is not present drops the record and counts FRLOST. Answers the record's address. -/
def State.postTo (s : State) (n : Nat) (r : Rec) (i : Inst) : State × Option Dword × Nat :=
  let ring := s.region (s.owner 5 n)
  let ringNo := s.owner 5 n
  let space := BitVec.ofNat 16 (s.region (s.owner 8 n)).space
  let slots := fld ring[5] 15 0
  let prod := fld ring[6] 31 0
  let va := dw (fld ring[4] 44 0 + 64 * (if slots = 0 then 0 else prod % slots))
  let lost := fld ring[6] 63 32
  let busy := slots = 0 || s.dist.awaiting.any (fun a => a.addr == va && s.owner 5 a.region == ringNo)
  let put (s : State) (w : Dword) (cells : List (Nat × Byte)) : State :=
    let s := s.keepRegion ringNo (ring.set 6 w)
    let tags := (s.fab.remotes.filter fun x => i.cores.contains x.who.core).map (·.tag)
    let p : Post := { ring := ringNo, cells := cells, count := w, cores := i.cores, at_ := s.time.toNat, tags := tags }
    ({ s with posts := s.posts ++ [p] } : State).recordPost
  let drop (s : State) : State × Option Dword × Nat :=
    (put s (setFld ring[6] 63 32 (holdAdd 0xFFFFFFFF lost 1)) [], none, n)
  if busy then drop s
  else
    let bs := dwordBytes (r.dwords i s.time)
    match s.vaPlaces s.dist.master space va.toNat bs.length with
    | (s1, as, true) => (put s1 (setFld ring[6] 31 0 ((prod + 1) % 2 ^ 32)) (as.zip bs), some va, n)
    | (s1, _, false) => drop s1

/-- Posts a record to the fault ring of the region whose policy applies (R116). -/
def State.post (s : State) (r : Rec) (i : Inst) : State × Option Dword × Nat := s.postTo (s.domain i.leaf.toNat) r i

/-! ### Waiting, suspending and ending an instance (06) -/

/-- A condition of R24 that counts as a safe point. -/
def StrandCond.safe : StrandCond → Bool
  | .fullEmpty | .semWait | .strandWait | .barrierWait => true
  | _ => false

/-- A condition whose instruction a pre-emption withdraws (R24, R120). -/
def StrandCond.withdrawn : StrandCond → Bool
  | .queueFull | .queueWait => true
  | _ => false

/-- The strands of an instance must stop: it is being pre-empted, or a fault suspends it (R115, R120). -/
def Inst.stopping (i : Inst) : Bool := i.preq || i.stop

/-- The address the unit at the strand's PC began at: its guard, if one precedes it (R36, R111). -/
def Strand.unitPc (z : Strand) : Dword := if z.guard.isSome then z.pc - 2 else z.pc

/-- The strand back at the beginning of its unit. -/
def Strand.rewind (z : Strand) : Strand := { z with pc := z.unitPc, guard := none }

/-- A strand that registered a wait leaves it, and the waiters behind it move up (R140). -/
def State.unregister (s : State) (w : Who) : State :=
  let c := s.core w.core
  let mine (x : SemWait) : Bool := x.party == .strand w.strand
  let s := s.setCore w.core { c with semWait := c.semWait.filter fun x => !mine x }
  let s := s.setStrand w { s.strand w with wait := .none }
  if c.semWait.any mine then s.due (.semaphoreCycle w.core) else s

/-- Every core's three strands of an instance. -/
def Inst.strands (i : Inst) : List Who :=
  i.cores.flatMap (fun c => [⟨c, .s⟩, ⟨c, .v⟩, ⟨c, .m⟩])

/-- Jobs of a queue that have not started (R112, R137). -/
def Job.unstarted (j : Job) : Bool := j.state == .queued || j.state == .awaitSem || j.state == .awaitTile || j.state == .awaitLeave

def Core.queue (c : Core) (q : QueueId) : Queue := c.queues[q]
def Core.setQueue (c : Core) (q : QueueId) (x : Queue) : Core := { c with queues := c.queues.set q.val x q.isLt }

/-- Queues with a job that waits to go on are looked at again, and so is a frame job that has not started (R135, R145). -/
def State.kick (s : State) (c : CoreId) : State :=
  s.dueAll (((List.finRange 8).filter (fun q => ((s.core c).queue q).jobs.any Job.unstarted)).map (.jobPop c) ++
    (if (s.core c).frame.job.any fun j => j.run.isNone && j.ending.isNone then [.stepBegin c] else []))

/-- A fatal error, or a handler's TERMINATE: the instance's strands stop for good, its jobs not yet started are
discarded and a halted job retires; started jobs run on (R112, R117, R137). -/
def State.terminate (s : State) (k : Nat) : State :=
  let i := s.getInst k
  let s := i.strands.foldl (fun s w =>
    let s := s.unregister w
    s.setStrand w { s.strand w with life := .halted, held := .no, cond := .stopped, guard := none }) s
  let s := s.setInst k { i with status := .terminated, stop := false }
  let s := { s with dist := { s.dist with awaiting := s.dist.awaiting.filter (fun a => a.inst != some k) } }
  s.dueAll (i.cores.flatMap (fun c => (List.finRange 8).map (fun q => .jobsDropped c q) ++ [.frameJobPause c]) ++ [.instanceRetire k])

/-- Whether a job of a queue has started and not ended (R121). -/
def Queue.busy (q : Queue) : Bool := q.jobs.any (fun j => j.state == .running)

/-- The watermark: the id of the oldest job not yet retired, or the next id (R138). -/
def Queue.watermark (q : Queue) : Word := (q.jobs.head?.map (·.id)).getD q.next

/-- The job a queue is halted on (R136). -/
def Queue.haltedJob (q : Queue) : Option Job := q.jobs.find? (fun j => j.state == .halted)

/-- A strand that will issue again without outside help: RUNNING and not held. -/
def Strand.issues (z : Strand) : Bool := z.life == .running && z.held == .no

/-- Every strand of an instance has stopped (R120). -/
def State.allStopped (s : State) (i : Inst) : Bool := i.strands.all (fun w => !(s.strand w).issues)

/-- After a strand of a stopping instance has stopped: once all have, a frame job pauses, a pre-empted instance is saved
and a faulting one is suspended for 100 us (R115, R121). One that faulted while a pre-emption was asked for is saved at once
(R127; log entry 54). -/
def State.settle (s : State) (k : Nat) : State :=
  let i := s.getInst k
  if i.status == .running && i.stopping && s.allStopped i then
    let s := (i.cores.foldl State.kick s).dueAll (i.cores.map .frameJobPause)
    if i.preq then s.due (.instanceSave k)
    else (s.setInst k { i with status := .suspended }).timer (s.time.toNat + 100000) (.suspendTimeout k)
  else s

/-- Settles the instance on the core whose turn it is. -/
def State.settleHere (s : State) : State :=
  match s.here.inst with
  | some k => s.settle k
  | none => s

/-- The strand whose turn it is waits: its unit has not issued (R24). In a safe condition its SPCNT is 0, and it stops
there when its instance must stop; a withdrawn instruction stops before it issues (R118, R120). -/
def State.block (s : State) (c : StrandCond) : State :=
  let z := s.me.rewind
  let z := { z with cond := c, spr := { z.spr with spcnt := if c.safe then 0 else z.spr.spcnt } }
  let s := s.setMe z
  if s.myInst.stopping && (c.safe || c.withdrawn) then
    let s := s.unregister s.turn
    (s.setMe { s.me with held := .live, live := BitVec.allOnes 64 }).settleHere
  else s

/-! ### Taking an exception (R111 to R116) -/

/-- Marks the domain of a posted record STOPPED when its policy is STOP (R116). -/
def State.applyStop (s : State) (n : Nat) : State := if s.policy n = 0 then s.stopRegion n true else s

/-- A record begins to await its handler's action (R117). -/
def State.await (s : State) (a : Awaiting) : State :=
  { s with dist := { s.dist with awaiting := s.dist.awaiting ++ [a] } }

/-- A strand takes a precise or resumable fault: the record is posted with the strand's PC, FREC names it, the strand is
held with every register live, and the instance is suspended (R111, R113 to R116). A record that could not be written
ends the instance (R327). -/
def State.faultAt (s : State) (w : Who) (cause : BitVec 16) (arg : Byte) (addr detail : Dword) : State :=
  let z := s.strand w
  let i := s.instOn w.core
  let r : Rec := { cause := cause, sid := some w.strand, queue := 0, arg := arg, pc := z.pc, cid := s.cid w.core,
                   addr := addr, detail := detail }
  match (s.core w.core).inst, s.post r i with
  | some k, (s, some va, n) =>
    let s := s.setStrand w { s.strand w with held := .faulted cause va, live := BitVec.allOnes 64, cond := .stopped }
    let s := s.setInst k { s.getInst k with frec := va, stop := true }
    let s := s.await { inst := some k, region := n, addr := va, who := some w, cause := cause, page := none }
    (s.applyStop n).settle k
  | some k, (s, none, _) => s.terminate k
  | none, _ => s.setStrand w { z with held := .faulted cause 0, live := BitVec.allOnes 64, cond := .stopped }

/-- The strand whose turn it is takes a precise fault at its unit, which has no effect (R111). -/
def State.trap (s : State) (cause : BitVec 16) (addr detail : Dword) : State :=
  (s.setMe s.me.rewind).faultAt s.turn cause 0 addr detail

/-- Posts a fatal record and ends the instance (R112); the record's slot stays busy until its own action (R116, R327). -/
def State.fatalOn (s : State) (c : CoreId) (sid : Option StrandId) (cause : BitVec 16) (pc addr detail : Dword) : State :=
  let r : Rec := { cause := cause, sid := sid, queue := 0, arg := 0, pc := pc, cid := s.cid c, addr := addr,
                   detail := detail }
  match (s.core c).inst with
  | some k =>
    match s.post r (s.getInst k) with
    | (s, some va, n) =>
      (((s.setInst k { s.getInst k with frec := va }).applyStop n).terminate k).await
        { inst := some k, region := n, addr := va, who := none, cause := cause, page := none }
    | (s, none, _) => s.terminate k
  | none => s

/-- A strand meets a fatal error (R112). -/
def State.fatal (s : State) (w : Who) (cause : BitVec 16) (addr detail : Dword) : State :=
  s.fatalOn w.core (some w.strand) cause (s.strand w).unitPc addr detail

/-- Posts a job-class record; under STOP the instance is suspended and the record awaits its action (R109, R116). A record
that is dropped has the same effect on the instance (R327). -/
def State.jobFault (s : State) (c : CoreId) (queue : BitVec 4) (cause : BitVec 16) (addr detail : Dword) : State :=
  let r : Rec := { cause := cause, sid := none, queue := queue, arg := 0, pc := 0, cid := s.cid c, addr := addr,
                   detail := detail }
  match (s.core c).inst with
  | some k =>
    match s.post r (s.getInst k) with
    | (s, some va, n) =>
      let s := s.setInst k { s.getInst k with frec := va }
      if s.policy n = 0 then
        let s := s.setInst k { s.getInst k with stop := true }
        let s := s.await { inst := some k, region := n, addr := va, who := none, cause := cause, page := none }
        (s.stopRegion n true).settle k
      else s
    | (s, none, n) =>
      if s.policy n = 0 then ((s.setInst k { s.getInst k with stop := true }).stopRegion n true).settle k else s
  | none => s

/-- SPACE of a region (R325). -/
def State.spaceOf (s : State) (n : Nat) : BitVec 16 := BitVec.ofNat 16 (s.region (s.owner 8 n)).space

/-- A record of the master's own for a region: job class, SID 3 (R116). There is no core whose CID it could hold: it holds 0
(log entry 53). -/
def regionRecord (cause : BitVec 16) (addr : Dword) : Rec :=
  { cause := cause, sid := none, queue := 0, arg := 0, pc := 0, cid := 0, addr := addr, detail := 0 }

/-- Posts such a record under the region's policy; there is no instance for it to suspend (R116, R329, R336, R338). -/
def State.regionFault (s : State) (leaf : Nat) (cause : BitVec 16) (addr : Dword) : State :=
  let s := s.keepPath leaf
  let i : Inst := { Inst.none with leaf := BitVec.ofNat 32 leaf, space := s.spaceOf leaf }
  match s.post (regionRecord cause addr) i with
  | (s, _, n) => s.applyStop n

/-! ### Errors of memory (R264, R280, R358) -/

/-- A word's error is met by a strand, or by a job for its pusher: one wrong bit is corrected and counted; two count as a drop,
and a record names the virtual address (R264, R280). -/
def State.charge (w : Who) (s : State) (e : Nat × Bool × Nat) : State :=
  if e.2.1 then (s.drop w 1).jobFault w.core 0 0x005C (dw e.2.2) 0
  else ({ s with flaws := Table.del s.flaws e.1 } : State).corr w 1

/-- What an access of a strand, or of a job for its pusher, meets of errors (R264, R280). -/
def State.errors (s : State) (w : Who) (wr : Bool) (xs : List (Nat × Nat)) : State := (s.meets wr xs).foldl (State.charge w) s

/-! ### Returning from an exception (R117) -/

/-- The registers a strand holds when it goes on after a `SAFE`: those its mask leaves out are 0 and full, and on V
`g32` to `g63` are (R106). -/
def Strand.keepLive (z : Strand) (sid : StrandId) (mask : Dword) : Strand :=
  let dead (i : Nat) : Bool :=
    match sid with
    | .v => if i < 32 then !mask.getLsbD (32 + i) else true
    | _ => !mask.getLsbD i
  let z := { z with
    g := Vector.ofFn (fun i : Fin 64 => if dead i.val then 0 else z.g[i])
    full := (List.range 64).foldl (fun f i => if dead i then setBit f i true else f) z.full }
  match sid with
  | .v => { z with v := Vector.ofFn (fun i : Fin 32 => if mask.getLsbD i.val then z.v[i] else Vector.replicate 64 0) }
  | _ => z

/-- A strand held at a stop goes on from its saved state: SPCNT is 0, and its loop buffer is empty (R35, R106, R117, R118). -/
def State.release (s : State) (w : Who) : State :=
  let z := s.strand w
  if z.life == .running && z.held != .no then
    let z := match z.held with
      | .atSafe mask => z.keepLive w.strand mask
      | _ => z
    let s := s.setStrand w { z with held := .no, cond := .issuing, lines := [], spr := { z.spr with spcnt := 0 } }
    { s with roster := s.roster ++ [w] }
  else s

/-- TCAUSE of a faulting strand, from its own record (R117). -/
def State.setTcause (s : State) (w : Who) (c : BitVec 16) : State :=
  let z := s.strand w
  s.setStrand w { z with spr := { z.spr with tcause := c } }

/-- REDIRECT: the faulting strand enters a handler's block, with `g62` naming the record (R117). -/
def Strand.redirect (z : Strand) (target record : Dword) : Strand :=
  { z.wg 62 record with pc := target, guard := none,
                        block := { inBody := false, start := 0, len := 0, remain := 0 } }

/-- An instance whose every record has had its action continues (R117). -/
def State.continue (s : State) (k : Nat) : State :=
  let i := s.getInst k
  if s.dist.awaiting.any (fun a => a.inst == some k) then s
  else if i.status == .suspended || i.status == .running then
    let s := s.setInst k { i with stop := false, status := .running }
    let s := { s with timers := s.timers.filter fun t => t.2 != Event.suspendTimeout k }
    let s := i.cores.foldl State.kick (i.strands.foldl (fun s w => s.release w) s)
    s.dueAll (i.cores.map .stepBegin)
  else s.setInst k { i with stop := false }

/-! ### What is still in flight -/

/-- The strand whose earlier instruction a put-off step completes. -/
def Event.issuer : Event → Option Who
  | .gregFill w _ _ => some w
  | .walkComplete w _ _ => some w
  | .walkRestart w _ _ => some w
  | .homeAccess a => some a.who
  | .vldgLanesArrive w _ _ => some w
  | .flushComplete w => some w
  | .clusterAccess w _ _ _ _ _ => some w
  | .contentNamedOperation x => some x.who
  | .resultReady w _ _ _ _ => some w
  | _ => none

/-- A put-off step is a content-named operation of a strand. -/
def Event.names (w : Who) : Event → Bool
  | .contentNamedOperation x => x.who == w
  | _ => false

/-- A strand has content-named operations that have not completed (R369). -/
def State.namesOut (s : State) (w : Who) : Bool := s.agenda.any (Event.names w) || s.timers.any fun e => Event.names w e.2

/-- Remote operations that a strand has outstanding (R391). -/
def State.remoteOut (s : State) (w : Who) : Nat :=
  (s.fab.remotes.filter fun r => r.who == w && (match r.use with | .job .. => false | _ => true)).length

/-- M has work of its own in progress on the frame: a drain, an `MAZERO`, an `MSCACC` or a copy of the drain table (R172, R176,
R184). -/
def Frame.draining (f : Frame) : Bool := f.drain.isSome || f.deckOp.isSome || f.mlut.isSome

/-- An instruction that the strand issued has not completed: a memory access, a result of fixed latency, a tile change, a signal, a
barrier operation, and for M a drain (R38, R101, R218). -/
def State.inFlight (s : State) (w : Who) : Bool :=
  s.remoteOut w != 0 || s.crossing (· == w) || s.agenda.any (fun e => Event.issuer e == some w) ||
  s.timers.any (fun e => Event.issuer e.2 == some w) ||
  (s.core w.core).tileChanges.any (fun t => t.strand == w.strand) ||
  (s.core w.core).signals.any (fun y => y.src == .strand w.strand) ||
  (s.clusters[clusterOf w.core]).ops.any (fun o => o.who == w) ||
  (w.strand == .m && (s.core w.core).frame.draining)

/-! ### Results of fixed latency (R22, R23, R192) -/

/-- A put-off step brings a result of a strand into one of these registers. -/
def Event.brings (w : Who) (gs : List GReg) (vs : List VReg) : Event → Bool
  | .resultReady x g v _ _ => x == w && (g.any (fun r => r != 0 && gs.contains r) || v.any vs.contains)
  | _ => false

/-- A result into one of these registers of the strand whose turn it is has not come: an instruction that names one is held (R23). -/
def State.resultDue (s : State) (gs : List GReg) (vs : List VReg) : Bool := s.timers.any fun e => Event.brings s.turn gs vs e.2

/-- A result of the strand whose turn it is comes `n` cycles after the issue, in a `g` or a `v` register, with the flags and the
drops that it raises. -/
def State.resultIn (s : State) (g : Option GReg) (v : Option VReg) (n : Nat) (f : BitVec 9) (drop : Nat) : State :=
  s.timer (s.time.toNat + n) (.resultReady s.turn (g.filter (· != 0)) v f drop)

/-- A result that may raise flags: one that raises none is in its register at once (log entry 67). -/
def State.arrives (s : State) (g : Option GReg) (v : Option VReg) (n : Nat) (f : BitVec 9) (drop : Nat) : State :=
  if f = 0 ∧ drop = 0 then s else s.resultIn g v n f drop

/-- RESULT_READY: the flags of a result go to FST and its drops to ERRC in the cycle in which it is available (R22, R105, R192). -/
def State.resultReady (s : State) (w : Who) (f : BitVec 9) (drop : Nat) : State :=
  if drop = 0 then s.raise w f else (s.raise w f).drop w drop

/-! ### Issuing (R23 to R27, R36, R54, R118, R119) -/

/-- What an instruction's body does once its operands are there. -/
inductive Body where
  /-- completes; the strand goes on past it -/
  | next (s : State)
  /-- a taken branch: the target is entered as a block header (R32) -/
  | jump (s : State) (target : Dword)
  /-- a precise trap, with nothing changed (R111) -/
  | trap (cause : BitVec 16) (addr detail : Dword)
  /-- completes, and then traps with an argument (R104) -/
  | trapAfter (cause : BitVec 16) (arg : Byte)
  /-- a fatal error (R112) -/
  | fatal (s : State) (cause : BitVec 16) (addr detail : Dword)
  /-- a resumable fault of this instruction (R111, R218) -/
  | resumable (s : State) (cause : BitVec 16) (addr : Dword)
  /-- it has not issued: the strand waits (R24) -/
  | wait (c : StrandCond) (s : State)
deriving Repr

/-- What an instruction asks of its strand before its body runs. -/
structure Use where
  /-- length in halfwords -/
  len : Nat
  /-- the strands it executes on -/
  on : List StrandId
  /-- `g` sources with their trap bits, in R54's order -/
  src : List (GReg × Bool)
  /-- `g` destinations -/
  dst : List GReg
  /-- a safe point: `SAFE` or `YIELD` -/
  safe : Bool := false
  /-- a hold of R23 that its description gives: the checks of R54 from the trap bits on come when it is over -/
  hold : State → Option StrandCond := fun _ => none

/-- An R23 interlock while a condition holds. -/
def interlockWhile (c : Bool) : Option StrandCond := if c then some .interlock else none

def anyStrand : List StrandId := [.s, .v, .m]

/-- The strand's PC moved past its unit's `len` halfwords, the pass of its body counted when it ends there (R31). -/
def Strand.advance (z : Strand) (len : Nat) : Strand :=
  let pc := z.pc + dw (2 * len)
  let b := z.block
  if pc = b.start + dw (2 * b.len) then
    if 1 < b.remain then { z with pc := b.start, block := { b with remain := b.remain - 1 }, guard := none }
    else { z with pc := pc, block := { b with inBody := false, remain := 0 }, guard := none }
  else { z with pc := pc, guard := none }

/-- SPCNT counts an issue unit, holding at 8191 (R55, R118). -/
def Strand.count (z : Strand) : Strand :=
  { z with spr := { z.spr with spcnt := BitVec.ofNat 13 (holdAdd 8191 z.spr.spcnt.toNat 1) } }

/-- The strand passes its unit: it goes on at the next halfword of its block (R31). -/
def State.pass (s : State) (len : Nat) : State :=
  s.setMe { s.me.advance len with cond := if s.me.issues then .issuing else .stopped }

/-- The strand leaves its block for a header elsewhere (R32). -/
def Strand.jump (z : Strand) (target : Dword) : Strand :=
  { z with pc := target, guard := none, cond := .issuing,
           block := { z.block with inBody := false, remain := 0 } }

/-- SPCNT has reached its bound and a pre-emption is asked for (R119). -/
def State.overrun (s : State) : Bool := s.myInst.preq && decide (Config.safeBound ≤ s.me.spr.spcnt.toNat)

/-- A strand takes the safe-point overrun in place of its unit (R119). -/
def State.takeOverrun (s : State) : State := (s.setMe s.me.rewind).fatal s.turn 0x0024 0 0

/-- Issues one instruction on the strand whose turn it is: the strand's class, then the guard, then its sources and
destinations with the holds of R23, then the trap bits, and then its body (R17, R23, R25, R27, R36, R54, R118, R119). A `TRAP` or `BRK` raises its trap after its own
issue (R104), so it is no unit that would raise a precise fault at issue: with an overrun pending it takes the overrun (log
entry 51). -/
def issue (u : Use) (body : State → Body) (s : State) : Out :=
  let z := s.me
  if !u.on.contains s.turn.strand then .next (s.trap 0x0001 0 0)
  else if z.guard == some false then
    if s.overrun then .next s.takeOverrun else .next ((s.setMe z.count).pass u.len)
  else if u.src.any (fun x => !x.2 && !z.isFull x.1) then .next (s.block .fullEmpty)
  else if u.dst.any (fun r => !z.isFull r) || s.resultDue (u.dst ++ u.src.map (·.1)) [] then .next (s.block .interlock)
  else
    match u.hold s with
    | some c => .next (s.block c)
    | none =>
      if u.src.any (fun x => x.2 && !z.isFull x.1) then .next (s.trap 0x0003 0 0)
      else
        let counted := if u.safe then s else s.setMe z.count
        match body counted with
        | .trap cause addr detail => .next (s.trap cause addr detail)
        | .wait c s' => .next ((s'.setMe { s'.me with spr := { s'.me.spr with spcnt := z.spr.spcnt } }).block c)
        | r =>
          if s.overrun && !u.safe then .next s.takeOverrun
          else
            match r with
            | .next s' => .next (s'.pass u.len)
            | .jump s' t => .next (s'.setMe (s'.me.jump t))
            | .trapAfter cause arg => .next ((counted.pass u.len).faultAt s.turn cause arg 0 0)
            | .fatal s' cause addr detail =>
              .next ((s'.setMe { s'.me with spr := { s'.me.spr with spcnt := z.spr.spcnt } }).fatal s.turn cause addr detail)
            | .resumable s' cause addr => .next ((s'.setMe s'.me.rewind).faultAt s.turn cause 0 addr 0)
            | .trap .. | .wait .. => .next s

/-- A transfer through a core's cluster-network port has succeeded (R264). -/
def State.portGood (s : State) (c : CoreId) : State := s.setCore c { s.core c with netFails := 0 }

/-- The strand has a `FLUSH` under way: no store, atomic or `PUSH` of it is performed until it completes (R221). -/
def Strand.flushing (z : Strand) : Bool := !z.flushes.isEmpty

/-! ### Shapes shared by many instructions -/

/-- A body that writes one `g` register. -/
def writeG (d : GReg) (f : Strand → Dword) (s : State) : Body := .next (s.setMe (s.me.wg d (f s.me)))

/-- A body that writes one predicate. -/
def writeP (d : PReg) (f : Strand → Bool) (s : State) : Body := .next (s.setMe (s.me.wp d (f s.me)))

end Sys2Proof.Machine
end

