-- ==== Sys2Proof/Machine/Operands.lean ====
section
/-!
DEFINITION. The operand forms: which registers an instruction's formats name as sources and destinations, and the
effective addresses and immediates of R43.
-/

namespace Sys2Proof.Machine

/-- R format with two `g` sources and a `g` destination. -/
def useR (d a b : GReg) (ta tb : Bool) : Use := { len := 2, on := anyStrand, src := [(a, ta), (b, tb)], dst := [d] }
/-- R format with one `g` source and a `g` destination. -/
def useR1 (d a : GReg) (ta : Bool) : Use := { len := 2, on := anyStrand, src := [(a, ta)], dst := [d] }
/-- I format: a source without a trap bit and a destination (R92). -/
def useI (len : Nat) (d a : GReg) : Use := { len := len, on := anyStrand, src := [(a, false)], dst := [d] }
/-- Sources alone. -/
def useS (len : Nat) (src : List (GReg × Bool)) : Use := { len := len, on := anyStrand, src := src, dst := [] }
/-- A destination alone. -/
def useD (len : Nat) (d : GReg) : Use := { len := len, on := anyStrand, src := [], dst := [d] }
/-- No `g` operand. -/
def use0 (len : Nat) : Use := { len := len, on := anyStrand, src := [], dst := [] }

/-- A signed immediate (R43). -/
def sext64 {n : Nat} (x : BitVec n) : Dword := x.signExtend 64
/-- LUI's value (R43). -/
def luiValue (i : BitVec 18) : Dword := sext64 i <<< 12

/-- The scratchpad offset of an M-form access (R43). -/
def mAddr (base : Dword) (s : Size) (o : BitVec 10) : Nat :=
  ((base.extractLsb' 0 32 + o.signExtend 32 * BitVec.ofNat 32 (sizeBytes s) : Word)).toNat

/-- The page offset of an H-form access, exact (R6, R43, R216). -/
def hOff (base : Dword) (s : Size) (o : BitVec 6) : Nat := base.toNat + o.toNat * sizeBytes s

/-- The target of a taken branch or call: `off` halfwords from the instruction's first halfword (R43). -/
def branchTarget {n : Nat} (pc : Dword) (off : BitVec n) : Int := pc.toNat + 2 * off.toInt

/-- Whether a code address may be entered: even and in the code space (R40, R98). -/
def codeAddr (a : Dword) : Bool := !a.getLsbD 0 && decide (a.toNat < Config.codeLimit)

/-- A compact form's `g0` to `g15` field (R51). -/
def g4 (x : BitVec 4) : GReg := 0#2 ++ x

end Sys2Proof.Machine
end

