-- ==== Sys2Proof/Machine/Flags.lean ====
section
/-!
DEFINITION. The flags of FST (R22) and how instructions and jobs raise them. The device sets bits and never clears one.
-/

namespace Sys2Proof.Machine

/-- FST bits (R22). -/
abbrev Flags := BitVec 9

def fNV : Flags := 0x001
def fDZ : Flags := 0x002
def fOF : Flags := 0x004
def fUF : Flags := 0x008
def fNX : Flags := 0x010
def fSAT : Flags := 0x020
def fDOVF : Flags := 0x040
def fTCODE : Flags := 0x080
def fIDZ : Flags := 0x100

/-- A flag when a condition holds. -/
def flagIf (c : Bool) (f : Flags) : Flags := if c then f else 0

/-- IDZ of a division or remainder: raised by a zero divisor alone (R90). -/
def divFlags (b : Dword) : Flags := flagIf (b == 0) fIDZ

/-- SAT of a clamped result (R193, R197). -/
def satFlag (clamped : Bool) : Flags := flagIf clamped fSAT

end Sys2Proof.Machine
end

