-- ==== Sys2Proof/Machine/Float.lean ====
section
/-!
DEFINITION. Number formats and their arithmetic (R61 to R78): exact values, one rounding, the special values and the
flags. Every operation forms its exact result and rounds it once.
-/

namespace Sys2Proof.Machine

/-- A rounding mode (R64). -/
inductive RMode where
  | rne | rz | ru | rd
deriving DecidableEq, Repr, Inhabited

/-- Rounding mode codes (R64). -/
def RMode.ofCode : Nat → RMode
  | 0 => .rne
  | 1 => .rz
  | 2 => .ru
  | _ => .rd

/-- A number as its format decodes it: a magnitude `m · 2^e` with `m` not 0, or a special value. -/
inductive FVal where
  | nan
  | inf (neg : Bool)
  | zero (neg : Bool)
  | fin (neg : Bool) (m : Nat) (e : Int)
deriving DecidableEq, Repr, Inhabited

/-- A binary format: fraction bits, exponent bits, bias, least quantum, and the largest finite value `maxM · 2^maxE`
(R62, R68, R69, R198). -/
structure FFmt where
  fb : Nat
  eb : Nat
  bias : Nat
  qmin : Int
  maxM : Nat
  maxE : Int
deriving DecidableEq, Repr, Inhabited

def FFmt.fp32 : FFmt := { fb := 23, eb := 8, bias := 127, qmin := -149, maxM := 0xFFFFFF, maxE := 104 }
def FFmt.fp16 : FFmt := { fb := 10, eb := 5, bias := 15, qmin := -24, maxM := 0x7FF, maxE := 5 }
def FFmt.bf16 : FFmt := { fb := 7, eb := 8, bias := 127, qmin := -133, maxM := 0xFF, maxE := 120 }
def FFmt.e4m3 : FFmt := { fb := 3, eb := 4, bias := 7, qmin := -9, maxM := 7, maxE := 6 }
def FFmt.e5m2 : FFmt := { fb := 2, eb := 5, bias := 15, qmin := -16, maxM := 7, maxE := 13 }
def FFmt.e2m1 : FFmt := { fb := 1, eb := 2, bias := 1, qmin := -1, maxM := 3, maxE := 1 }
/-- F12 of the estimates: 13 significant bits in FP32's exponent range, on FP32's subnormal grid (R198). -/
def FFmt.f12 : FFmt := { fb := 12, eb := 8, bias := 127, qmin := -149, maxM := 0x1FFF, maxE := 115 }

/-- Exponent of the smallest normal value. -/
def FFmt.emin (f : FFmt) : Int := 1 - f.bias

/-- Bits of a number, 0 for 0. -/
def bitLen (n : Nat) : Nat := if n = 0 then 0 else Nat.log2 n + 1

/-- The magnitude `m · 2^e`, with a little more when `sticky`, in units of `2^q`: rounded under a mode, and whether that
was inexact (R64). -/
def roundUnits (mode : RMode) (neg : Bool) (m : Nat) (e : Int) (sticky : Bool) (q : Int) : Nat × Bool :=
  if q ≤ e then
    let n := m * 2 ^ (e - q).toNat
    let up := sticky && (match mode with | .ru => !neg | .rd => neg | _ => false)
    (if up then n + 1 else n, sticky)
  else
    let k := (q - e).toNat
    let n := m / 2 ^ k
    let r := m % 2 ^ k
    let half := 2 ^ (k - 1)
    let inexact := r != 0 || sticky
    let above := decide (half < r) || (r == half && sticky)
    let tie := r == half && !sticky
    let up := match mode with
      | .rne => above || (tie && n % 2 == 1)
      | .rz => false
      | .ru => inexact && !neg
      | .rd => inexact && neg
    (if up then n + 1 else n, inexact)

/-- `a · 2^x > b · 2^y`. -/
def gtScaled (a : Nat) (x : Int) (b : Nat) (y : Int) : Bool :=
  let l := min x y
  decide (b * 2 ^ (y - l).toNat < a * 2 ^ (x - l).toNat)

/-- What rounding to a format gives before it is packed. -/
inductive Rounded where
  /-- beyond the largest finite value (R65) -/
  | over
  /-- `n · 2^q` and its flags -/
  | val (n : Nat) (q : Int) (flags : Flags)
deriving DecidableEq, Repr, Inhabited

/-- Rounds a nonzero magnitude to a format (R64, R65). Tininess is judged after rounding with an unbounded exponent. -/
def roundTo (f : FFmt) (mode : RMode) (neg : Bool) (m : Nat) (e : Int) (sticky : Bool := false) : Rounded :=
  let top := e + bitLen m - 1
  let qu := top - f.fb
  let (nu, _) := roundUnits mode neg m e sticky qu
  if gtScaled nu qu f.maxM f.maxE then .over
  else
    let q := max qu f.qmin
    let (n, inexact) := roundUnits mode neg m e sticky q
    let tiny := gtScaled 1 f.emin nu qu
    .val n q (flagIf inexact fNX ||| flagIf (inexact && tiny) fUF)

/-- Packs a sign and a magnitude that the format holds. -/
def packMag (f : FFmt) (neg : Bool) (n : Nat) (q : Int) : Nat :=
  (if neg then 2 ^ (f.fb + f.eb) else 0) +
    (if n = 0 then 0
     else
       -- bring the magnitude to the format's own quantum
       let q0 := max (q + bitLen n - 1 - f.fb) f.qmin
       let n0 := if q0 ≤ q then n * 2 ^ (q - q0).toNat else n / 2 ^ (q0 - q).toNat
       (q0 - f.qmin).toNat * 2 ^ f.fb + n0)

/-- The infinity pattern of a format that has one. -/
def packInf (f : FFmt) (neg : Bool) : Nat := (if neg then 2 ^ (f.fb + f.eb) else 0) + (2 ^ f.eb - 1) * 2 ^ f.fb

/-- The largest finite value of a format. -/
def packMax (f : FFmt) (neg : Bool) : Nat := packMag f neg f.maxM f.maxE

/-- The canonical NaN of an IEEE format (R62, R68): an all-ones exponent and the top fraction bit. -/
def packNan (f : FFmt) : Nat := (2 ^ f.eb - 1) * 2 ^ f.fb + 2 ^ (f.fb - 1)

/-- An overflow goes to the infinity and not to the largest finite value (R65). -/
def overToInf (mode : RMode) (neg : Bool) : Bool :=
  match mode with
  | .rne => true
  | .rz => false
  | .ru => !neg
  | .rd => neg

/-- Rounds an exact value into an IEEE format (R62 to R66). A zero keeps the sign it has: -0 converts to -0 (log entry 62). -/
def FFmt.encode (f : FFmt) (mode : RMode) (v : FVal) (sticky : Bool := false) : Nat × Flags :=
  match v with
  | .nan => (packNan f, 0)
  | .inf s => (packInf f s, 0)
  | .zero s => (packMag f s 0 0, 0)
  | .fin s m e =>
    match roundTo f mode s m e sticky with
    | .over => (if overToInf mode s then packInf f s else packMax f s, fOF ||| fNX)
    | .val n q fl => (packMag f s n q, fl)

/-- Decodes an IEEE pattern (R62). -/
def FFmt.decode (f : FFmt) (b : Nat) : FVal :=
  let s := b / 2 ^ (f.fb + f.eb) % 2 == 1
  let ex := b / 2 ^ f.fb % 2 ^ f.eb
  let fr := b % 2 ^ f.fb
  if ex = 2 ^ f.eb - 1 then (if fr = 0 then .inf s else .nan)
  else if ex = 0 then (if fr = 0 then .zero s else .fin s fr f.qmin)
  else .fin s (fr + 2 ^ f.fb) (f.qmin + (ex - 1 : Nat))

/-- Decodes E4M3, which has no infinity (R68). -/
def decodeE4m3 (b : Nat) : FVal :=
  let s := b / 128 % 2 == 1
  let ex := b / 8 % 16
  let fr := b % 8
  if b % 128 = 127 then .nan
  else if ex = 0 then (if fr = 0 then .zero s else .fin s fr (-9))
  else .fin s (fr + 8) ((ex : Int) - 10)

/-- Magnitudes of E2M1S in quarters: the ordinary codes and the specials (R69). -/
def e2m1Quarters : Nat → Nat
  | 0 => 0 | 1 => 2 | 2 => 4 | 3 => 6 | 4 => 8 | 5 => 12 | 6 => 16 | _ => 24
def e2m1Special : Nat → Nat
  | 0 => 0 | 1 => 1 | 2 => 3 | 3 => 5 | 4 => 10 | 5 => 20 | 6 => 32 | _ => 48

/-- Decodes an E2M1S element, given its block's special code, if it has a side record (R69). -/
def decodeE2m1s (b : Nat) (sc : Option Nat) : FVal :=
  if b % 16 = 8 then
    match sc with
    | none => .zero false
    | some c => let m := e2m1Special (c % 8); if m = 0 then .zero (c / 8 % 2 == 1) else .fin (c / 8 % 2 == 1) m (-2)
  else
    let s := b / 8 % 2 == 1
    let m := e2m1Quarters (b % 8)
    if m = 0 then .zero s else .fin s m (-2)

/-- A conversion to E4M3 (R68, R73). -/
def encodeE4m3 (mode : RMode) (sat : Bool) (v : FVal) : Nat × Flags :=
  match v with
  | .nan => (0x7F, 0)
  | .inf s => if sat then (packMax .e4m3 s, fSAT ||| fNX) else (0x7F, fNV)
  | .zero s => (packMag .e4m3 s 0 0, 0)
  | .fin s m e =>
    match roundTo .e4m3 mode s m e with
    | .over => if sat then (packMax .e4m3 s, fSAT ||| fOF ||| fNX) else (0x7F, fNV)
    | .val n q fl => (packMag .e4m3 s n q, fl)

/-- A conversion to E5M2 (R68, R73). -/
def encodeE5m2 (mode : RMode) (sat : Bool) (v : FVal) : Nat × Flags :=
  match v with
  | .inf s => if sat then (packMax .e5m2 s, fSAT ||| fNX) else (packInf .e5m2 s, 0)
  | .fin s m e =>
    match roundTo .e5m2 mode s m e with
    | .over => if sat then (packMax .e5m2 s, fSAT ||| fOF ||| fNX) else FFmt.e5m2.encode mode v
    | .val n q fl => (packMag .e5m2 s n q, fl)
  | _ => FFmt.e5m2.encode mode v

/-- A conversion to E2M1S (R70): it never gives code 0b1000, and a zero is 0b0000. -/
def encodeE2m1s (mode : RMode) (v : FVal) : Nat × Flags :=
  match v with
  | .nan => (0, fNV)
  | .inf s => (packMax .e2m1 s, fSAT ||| fNX)
  | .zero _ => (0, 0)
  | .fin s m e =>
    if gtScaled m e 3 1 then
      (packMax .e2m1 s, fSAT ||| fNX ||| (match roundTo .e2m1 mode s m e with | .over => fOF | _ => 0))
    else
      match roundTo .e2m1 mode s m e with
      | .over => (packMax .e2m1 s, fSAT ||| fNX ||| fOF)
      | .val n q fl => (if n = 0 then 0 else packMag .e2m1 s n q, fl)

/-! ### Exact arithmetic -/

/-- The value of a signed number `x · 2^e`, a zero taking the given sign. -/
def FVal.ofInt (x : Int) (e : Int) (zeroNeg : Bool) : FVal :=
  if x = 0 then .zero zeroNeg else .fin (decide (x < 0)) x.natAbs e

/-- A finite value's signed significand. -/
def signedMag (neg : Bool) (m : Nat) : Int := if neg then -(m : Int) else m

/-- An exact sum; the mode decides the sign of an exact zero (R64, R66). -/
def FVal.add (mode : RMode) (a b : FVal) : FVal × Flags :=
  match a, b with
  | .nan, _ => (.nan, 0)
  | _, .nan => (.nan, 0)
  | .inf s, .inf t => if s = t then (.inf s, 0) else (.nan, fNV)
  | .inf s, _ => (.inf s, 0)
  | _, .inf t => (.inf t, 0)
  | .zero s, .zero t => (.zero ((s && t) || (s != t && mode == .rd)), 0)
  | .zero _, y => (y, 0)
  | x, .zero _ => (x, 0)
  | .fin s m e, .fin t n k =>
    let l := min e k
    let x := signedMag s (m * 2 ^ (e - l).toNat) + signedMag t (n * 2 ^ (k - l).toNat)
    (.ofInt x l (mode == .rd), 0)

/-- An exact product (R66). A zero product has the sign that its factors give (log entry 62). -/
def FVal.mul (a b : FVal) : FVal × Flags :=
  match a, b with
  | .nan, _ => (.nan, 0)
  | _, .nan => (.nan, 0)
  | .inf _, .zero _ => (.nan, fNV)
  | .zero _, .inf _ => (.nan, fNV)
  | .inf s, .inf t => (.inf (s != t), 0)
  | .inf s, .fin t _ _ => (.inf (s != t), 0)
  | .fin s _ _, .inf t => (.inf (s != t), 0)
  | .zero s, .zero t => (.zero (s != t), 0)
  | .zero s, .fin t _ _ => (.zero (s != t), 0)
  | .fin s _ _, .zero t => (.zero (s != t), 0)
  | .fin s m e, .fin t n k => (.fin (s != t) (m * n) (e + k), 0)

def FVal.neg : FVal → FVal
  | .nan => .nan
  | .inf s => .inf !s
  | .zero s => .zero !s
  | .fin s m e => .fin (!s) m e

/-- Numeric order: less, equal or greater; none with a NaN. -0 equals +0 (R195). -/
def FVal.cmp (a b : FVal) : Option Ordering :=
  let rank : FVal → Int
    | .inf true => -1
    | .inf false => 1
    | _ => 0
  match a, b with
  | .nan, _ => none
  | _, .nan => none
  | .inf _, _ => some (compare (rank a) (rank b))
  | _, .inf _ => some (compare (rank a) (rank b))
  | _, _ =>
    let part : FVal → Int × Int
      | .fin s m e => (signedMag s m, e)
      | _ => (0, 0)
    let (x, e) := part a
    let (y, k) := part b
    let l := min e k
    some (compare (x * 2 ^ (e - l).toNat) (y * 2 ^ (k - l).toNat))

/-- `a` lies below `b` in the order of minimum and maximum, with -0 below +0 (R67). Neither is a NaN. -/
def FVal.below (a b : FVal) : Bool :=
  match a, b with
  | .zero s, .zero t => s && !t
  | _, _ => a.cmp b == some .lt

/-- Floating minimum and maximum of patterns of a format (R67). -/
def fminmax (f : FFmt) (big : Bool) (x y : Nat) : Nat :=
  match f.decode x, f.decode y with
  | .nan, .nan => packNan f
  | .nan, _ => y
  | _, .nan => x
  | a, b => if big then (if a.below b then y else x) else (if b.below a then y else x)

/-! ### Operations on patterns -/

def fAdd (f : FFmt) (x y : Nat) : Nat × Flags :=
  let (v, fl) := (f.decode x).add .rne (f.decode y)
  let (b, fl') := f.encode .rne v
  (b, fl ||| fl')

def fSub (f : FFmt) (x y : Nat) : Nat × Flags :=
  let (v, fl) := (f.decode x).add .rne (f.decode y).neg
  let (b, fl') := f.encode .rne v
  (b, fl ||| fl')

def fMul (f : FFmt) (x y : Nat) : Nat × Flags :=
  let (v, fl) := (f.decode x).mul (f.decode y)
  let (b, fl') := f.encode .rne v
  (b, fl ||| fl')

/-- `d + x·y`, rounded once (R193). A NaN addend with 0 × ∞ still raises NV (log entry 15). -/
def fFma (f : FFmt) (d x y : Nat) : Nat × Flags :=
  let (p, fl) := (f.decode x).mul (f.decode y)
  let (v, fl') := (f.decode d).add .rne p
  let (b, fl'') := f.encode .rne v
  (b, fl ||| fl' ||| fl'')

/-- A floating value to an integer range under a mode (R74). -/
def floatToInt (mode : RMode) (lo hi : Int) (v : FVal) : Int × Flags :=
  match v with
  | .nan => (0, fNV)
  | .inf s => (if s then lo else hi, fSAT ||| fNX)
  | .zero _ => (0, 0)
  | .fin s m e =>
    let (n, inexact) := roundUnits mode s m e false 0
    let x := signedMag s n
    if x < lo then (lo, fSAT ||| fNX) else if hi < x then (hi, fSAT ||| fNX) else (x, flagIf inexact fNX)

/-- An integer to a floating format under a mode (R74). -/
def intToFloat (f : FFmt) (mode : RMode) (x : Int) : Nat × Flags := f.encode mode (.ofInt x 0 false)

/-! ### Block scales (R75) -/

/-- A scale byte: E8M0, or UE5M3 (R75). -/
def scaleVal (ue5m3 : Bool) (b : Nat) : FVal :=
  if b = 255 then .nan
  else if ue5m3 then
    let ex := b / 8
    let fr := b % 8
    if ex = 0 then (if fr = 0 then .zero false else .fin false fr (-17)) else .fin false (8 + fr) ((ex : Int) - 18)
  else .fin false 1 ((b : Int) - 127)

/-- MSCACC's combination of a running value, a partial and two scales (R78). -/
def scaledAdd (t p : Nat) (sa sb : FVal) : Nat × Flags :=
  match sa, sb, FFmt.fp32.decode t, FFmt.fp32.decode p with
  | .nan, _, _, _ => (0x7FC00000, 0)
  | _, .nan, _, _ => (0x7FC00000, 0)
  | _, _, .nan, _ => (0x7FC00000, 0)
  | _, _, _, .nan => (0x7FC00000, 0)
  | _, _, vt, vp =>
    let (sc, _) := sa.mul sb
    match sc, vp with
    | .zero _, .inf _ => (0x7FC00000, fNV)
    | .zero _, _ => (t, 0)
    | _, _ =>
      let (x, _) := vp.mul sc
      let (v, fl) := vt.add .rne x
      let (b, fl') := FFmt.fp32.encode .rne v
      (b, fl ||| fl')

/-! ### Estimates (R198) -/

/-- The integer square root by its bits, from `2^n` down. -/
def isqrtFrom (x : Nat) : Nat → Nat → Nat
  | 0, r => r
  | n + 1, r => if (r + 2 ^ n) * (r + 2 ^ n) ≤ x then isqrtFrom x n (r + 2 ^ n) else isqrtFrom x n r

/-- The integer square root. -/
def isqrt (x : Nat) : Nat := isqrtFrom x (bitLen x / 2 + 1) 0

/-- Rounds to F12 and packs as FP32 (R198). -/
def encodeF12 (s : Bool) (m : Nat) (e : Int) (sticky : Bool) : Nat × Flags :=
  match roundTo .f12 .rne s m e sticky with
  | .over => (packInf .fp32 s, fOF ||| fNX)
  | .val n q fl => (packMag .fp32 s n q, fl)

/-- VRCP of an FP32 pattern (R198). -/
def estRcp (x : Nat) : Nat × Flags :=
  match FFmt.fp32.decode x with
  | .nan => (0x7FC00000, 0)
  | .zero s => (packInf .fp32 s, fDZ)
  | .inf s => (packMag .fp32 s 0 0, 0)
  | .fin s m e => encodeF12 s (2 ^ 64 / m) (-e - 64) (2 ^ 64 % m != 0)

/-- VRSQ of an FP32 pattern (R198). -/
def estRsq (x : Nat) : Nat × Flags :=
  match FFmt.fp32.decode x with
  | .nan => (0x7FC00000, 0)
  | .zero s => (packInf .fp32 s, fDZ)
  | .inf s => if s then (0x7FC00000, fNV) else (0, 0)
  | .fin true _ _ => (0x7FC00000, fNV)
  | .fin false m e =>
    -- make the exponent even; 1/sqrt(m · 2^e) = sqrt(2^128 / m) · 2^(-e/2 - 64)
    let (m, e) := if e % 2 = 0 then (m, e) else (2 * m, e - 1)
    let q := 2 ^ 128 / m
    let r := isqrt q
    encodeF12 false r (-(e / 2) - 64) (!(r * r == q && 2 ^ 128 % m == 0))

/-- ln 2 in units of `2^-256`, rounded down. -/
def ln2Fix : Nat := 0xB17217F7D1CF79ABC9E3B39803F2F6AF40F343267298B62D8A0D175B8BAAFA2B

/-- The power series of the exponential in units of `2^-256`: `n` more terms from the `i`-th, whose value is `t`. -/
def expSeries (x : Nat) : Nat → Nat → Nat → Nat
  | 0, _, _ => 0
  | n + 1, i, t => t + expSeries x n (i + 1) (t * x / 2 ^ 256 / (i + 1))

/-- `2^f` for `f = j · 2^-k` below 1, in units of `2^-256`, rounded down within a few units. -/
def exp2Frac (j k : Nat) : Nat := expSeries (j * ln2Fix / 2 ^ k) 64 0 (2 ^ 256)

/-- VEXP2 of an FP32 pattern (R198). A power of 2 with an integer exponent is exact; any other is irrational, so its
truncation always leaves something. -/
def estExp2 (x : Nat) : Nat × Flags :=
  match FFmt.fp32.decode x with
  | .nan => (0x7FC00000, 0)
  | .zero _ => (0x3F800000, 0)
  | .inf s => if s then (0, 0) else (packInf .fp32 false, 0)
  | .fin s m e =>
    if gtScaled m e 1 9 then encodeF12 false 1 (if s then -600 else 600) false
    else if 0 ≤ e then encodeF12 false 1 (signedMag s (m * 2 ^ e.toNat)) false
    else
      let k := (-e).toNat
      let a := signedMag s m
      let i := a / 2 ^ k
      let f := (a % 2 ^ k).toNat
      if f = 0 then encodeF12 false 1 i false else encodeF12 false (exp2Frac f k) (i - 256) true

end Sys2Proof.Machine
end

