-- ==== Sys2Proof/Machine/Special.lean ====
section
/-!
DEFINITION. The special registers and the tile full/empty bits (R21, R22, R55, R105, R107, R28).
-/

namespace Sys2Proof.Machine

/-- What MFS reads (R21, R22, R55). The SPCNT it reads counts this instruction (log entry 12). -/
def readSpr (s : State) (n : BitVec 6) : Option Dword :=
  let z := s.me
  let i := s.myInst
  match n.toNat with
  | 0 => some (s.dieTime (dieOf s.turn.core))
  | 1 => some (s.now - z.spr.cyc0)
  | 2 => some (dw (sidNat s.turn.strand))
  | 3 => some (s.cid s.turn.core)
  | 4 => some (i.iid.setWidth 64)
  | 5 => some (z.spr.rc.setWidth 64)
  | 6 => some (z.spr.vc.setWidth 64)
  | 7 => some (z.spr.fst.setWidth 64)
  | 8 => some (z.spr.drop ++ z.spr.corr)
  | 9 => some (z.spr.cnst.setWidth 64)
  | 10 => some (s.peer.setWidth 64)
  | 11 => some (z.spr.space.setWidth 64)
  | 12 => some i.frec
  | 13 => some (z.spr.tcause.setWidth 64)
  | 14 => some (z.spr.spcnt.setWidth 64)
  | 15 => some (if i.preq then 1 else 0)
  | 16 => some (z.spr.fwst.setWidth 64)
  | 17 => some (i.epri.setWidth 64)
  | 18 => some (i.leaf.setWidth 64)
  | _ => none

/-- MFS; a number not allocated is an illegal instruction (R22). CNST is read when the strand's content-named operations
have completed (R369). -/
def execMfs (d : GReg) (n : BitVec 6) (s : State) : Out :=
  if 18 < n.toNat then .next (s.trap 0x0001 0 0)
  else
    issue (useD 2 d) (fun s =>
      if n == 9 && s.namesOut s.turn then .wait .interlock s
      else .next (s.setMe (s.me.wg d ((readSpr s n).getD 0)))) s

/-- What MTS stores (R22, R105). R21 gives SPACE the scope "instance" and R22 speaks of the accesses and handles of the strand
that writes it: each strand has a SPACE of its own, and its code translation ends with the handles (log entry 50). -/
def writeSpr (z : Strand) (n : BitVec 6) (x : Dword) : Strand :=
  match n.toNat with
  | 5 => { z with spr := { z.spr with rc := x.setWidth 32 } }
  | 6 => { z with spr := { z.spr with vc := BitVec.ofNat 7 (min x.toNat 64) } }
  | 7 => { z with spr := { z.spr with fst := x.setWidth 9 } }
  | 8 => { z with spr := { z.spr with corr := x.extractLsb' 0 32, drop := x.extractLsb' 32 32 } }
  | 11 => { z with spr := { z.spr with space := x.setWidth 16 }, h := Vector.replicate 16 Handle.none, lease := none }
  | _ => z

/-- What the device has raised in the cycle of an MTS is added to the value it wrote (R22). -/
def Strand.merged (z : Strand) (y : Cycle) (w : Who) (n : BitVec 6) : Strand :=
  match n.toNat with
  | 7 => z.flags (y.flagsOf w)
  | 8 => (z.corrected (y.corrOf w)).dropped (y.dropOf w)
  | _ => z

/-- MTS. A register that may not be written, and SPACE in a user instance, are illegal instructions before the guard and
before any source (R22, R52). -/
def execMts (n : BitVec 6) (a : GReg) (ta : Bool) (s : State) : Out :=
  if !mtsWritable n || (n == 11 && !s.myInst.priv) then .next (s.trap 0x0001 0 0)
  else issue (useS 2 [(a, ta)]) (fun s => .next (s.setMe ((writeSpr s.me n (s.me.rg a)).merged s.cycle s.turn n))) s

/-! ### Tile bits -/

/-- The full bit of a tile (R26). -/
def Core.tfull (c : Core) (t : TReg) : Bool := c.tileFull.getLsbD t.toNat
def Core.setTfull (c : Core) (t : TReg) (b : Bool) : Core := { c with tileFull := setBit c.tileFull t.toNat b }

/-- Byte address of a row of a tile in the tile file: 64 rows of 256 bytes (R19, R122). -/
def tileRow (t : TReg) (row : Nat) : Nat := 16384 * t.toNat + 256 * row

/-- A deferred tile change is put off until the strand's earlier accesses of the tile are done (R28, R107). -/
def deferTile (len : Nat) (t : TReg) (full : Bool) : State → Out :=
  issue (use0 len) fun s =>
    let c := s.here
    let ch : TileChange := { strand := s.turn.strand, tile := t, full := full }
    .next ((s.setHere { c with tileChanges := c.tileChanges ++ [ch] }).due (.tileBitApply s.turn.core))

def execTrel (t : TReg) : State → Out := deferTile 2 t false
def execTmark (t : TReg) : State → Out := deferTile 2 t true
def execCTrel (t : TReg) : State → Out := deferTile 1 t false
def execCTmark (t : TReg) : State → Out := deferTile 1 t true

/-- TSTAT (R107). -/
def execTstat (d : GReg) (t : TReg) : State → Out :=
  issue (useD 2 d) fun s => .next (s.setMe (s.me.wg d (if s.here.tfull t then 1 else 0)))

/-- TILE_BIT_APPLY: the deferred changes of a core, in the order S, V, M, and each strand's in its program order (R28).
Jobs that wait for a tile are looked at again. A `TMARK` of M does not wait for a drain of M into that tile: the drain is the writer
during which a `TMARK` sets the bit at once (R107; log entry 75). -/
def execTileBitApply (c : CoreId) (s : State) : Out :=
  let x := s.core c
  let of (i : StrandId) := x.tileChanges.filter (fun t => t.strand == i)
  let y := (of .s ++ of .v ++ of .m).foldl (fun (x : Core) t => x.setTfull t.tile t.full) x
  .next ((s.setCore c { y with tileChanges := [], deadlock := if x.tileChanges.isEmpty then x.deadlock else 0 }).kick c)

end Sys2Proof.Machine
end

