-- ==== Sys2Proof/Machine/Scratch.lean ====
section
/-!
DEFINITION. Scratchpad loads and stores of the strands, with the range scoreboard (R141, R212 to R214).
-/

namespace Sys2Proof.Machine

/-- Scratchpad address error (R110). -/
def spadError : Body := .trap 0x0006 0 0

/-- Two byte ranges share a byte. -/
def overlap (a n b k : Nat) : Bool := decide (a < b + k) && decide (b < a + n) && decide (0 < n) && decide (0 < k)

/-- A strand's access is held by the scoreboard: a load by write ranges, a store by any range (R141). -/
def Core.boarded (c : Core) (store : Bool) (a n : Nat) : Bool :=
  c.board.any (fun r => (store || r.write) && overlap a n r.base r.len)

/-- Bytes of the scratchpad as a number. -/
def Core.spadNat (c : Core) (a n : Nat) : Nat := c.spad.nat a n
def Core.setSpad (c : Core) (a n v : Nat) : Core := { c with spad := c.spad.putNat a n v }

/-- An aligned access within the scratchpad (R212). -/
def spadOk (a n : Nat) : Bool := a % n == 0 && decide (a + n ≤ Config.spadBytes)

/-- A load into `g[D]`, zero-extended (R212). -/
def loadSpad (len : Nat) (d a : GReg) (n : Nat) (addr : Dword → Nat) : State → Out :=
  issue (useI len d a) fun s =>
    let x := addr (s.me.rg a)
    if !spadOk x n then spadError
    else if s.here.boarded false x n then .wait .rangeBoard s
    else .next (s.setMe (s.me.wg d (dw (s.here.spadNat x n))))

/-- A store of `g[D]`'s low bytes, behind the strand's flushes (R212, R221). -/
def storeSpad (len : Nat) (d a : GReg) (n : Nat) (addr : Dword → Nat) : State → Out :=
  issue (useS len [(a, false), (d, false)]) fun s =>
    let x := addr (s.me.rg a)
    if !spadOk x n then spadError
    else if s.here.boarded true x n then .wait .rangeBoard s
    else if s.me.flushing then .wait .interlock s
    else .next (s.setHere (s.here.setSpad x n (s.me.rg d).toNat))

def execLds (d a : GReg) (sz : Size) (o : BitVec 10) : State → Out := loadSpad 2 d a (sizeBytes sz) fun b => mAddr b sz o
def execSts (d a : GReg) (sz : Size) (o : BitVec 10) : State → Out := storeSpad 2 d a (sizeBytes sz) fun b => mAddr b sz o
/-- C.LDS.D: offset 8·OFF (R214). -/
def execCLdsD (d a o : BitVec 4) : State → Out :=
  loadSpad 1 (g4 d) (g4 a) 8 fun b => mAddr b .d (o.setWidth 10)
/-- C.STS.D (R214). -/
def execCStsD (d a o : BitVec 4) : State → Out :=
  storeSpad 1 (g4 d) (g4 a) 8 fun b => mAddr b .d (o.setWidth 10)

end Sys2Proof.Machine
end

