-- ==== Sys2Proof/Machine/Handles.lean ====
section
/-!
DEFINITION. Handles, global loads, stores and atomics at issue, and the walks behind them (R215 to R221, R275, R276, R288).
-/

namespace Sys2Proof.Machine

/-- The die of the strand whose turn it is. -/
def State.myDie (s : State) : DieId := dieOf s.turn.core

/-- A handle holding a lease (R215). -/
def Handle.ofLease (l : Lease) (c : Nat) : Handle :=
  { state := .valid, wr := l.wr, kind := l.kind, psz := l.psz, lclass := BitVec.ofNat 4 c, base := l.base,
    frame := l.frame, expiry := l.expiry }

/-- A handle whose page is not present (R215, R219, R408). -/
def Handle.absent (base : Nat) : Handle := { Handle.none with state := .absent, base := dw base }

/-- What a walk leaves in a handle. -/
def WalkResult.handle (r : WalkResult) : Handle :=
  match r.found with
  | some (l, c) => Handle.ofLease l c
  | none => Handle.absent r.base

/-- Keeps a translation in the die's cache (R288). -/
def State.keepTrans (s : State) (d : DieId) (space : BitVec 16) (r : WalkResult) : State :=
  match r.found with
  | some (l, c) =>
    let x := s.die d
    let fresh : CachedTrans := { space := space, lease := l, cls := c }
    s.setDie d { x with trans := fresh :: x.trans.filter (fun t => !(t.space == space && t.lease.base == l.base)) }
  | none => s

/-- A live translation of an address in the die's cache (R288). -/
def State.cachedTrans (s : State) (d : DieId) (space : BitVec 16) (va : Nat) : Option CachedTrans :=
  (s.die d).trans.find? (fun t => t.space == space && decide (t.lease.base.toNat ≤ va) &&
    decide (va < t.lease.base.toNat + pageBytes t.lease.psz) &&
    decide ((s.dieTime d).toNat < t.lease.expiry.toNat))

/-! ### Checks of an access through a handle (R216, R276) -/

/-- What the checks of an access decide. -/
inductive HCheck where
  | go (s : State) (h : Handle)
  | stop (b : Body)

/-- A valid handle is used: one that has expired is walked for again, and a page that no longer serves the use is lost
(R216, R294). -/
def refresh (s : State) (hr : HReg) (off n : Nat) (wr : Bool) : HCheck :=
  let h := s.me.rh hr
  if (s.dieTime s.myDie).toNat < h.expiry.toNat then .go s h
  else if s.walkStalls s.myDie s.me.spr.space h.base.toNat then .stop (.wait .interlock s)
  else
    let (s, r) := s.walk s.myDie s.me.spr.space h.base.toNat
    match r.found with
    | some (l, c) =>
      if (wr && !l.wr) || l.kind == 3 || decide (pageBytes l.psz < off + n) then .stop (.fatal s 0x0022 (h.base + dw off) 0)
      else
        let h' := Handle.ofLease l c
        .go ((s.keepTrans s.myDie s.me.spr.space r).setMe (s.me.wh hr h')) h'
    | none => .stop (.fatal s 0x0022 (h.base + dw off) 0)

/-- The checks of an access of `n` bytes at `off` through a handle, in their order (R216). -/
def checkHandle (s : State) (hr : HReg) (off n : Nat) (wr : Bool) : HCheck :=
  let h := s.me.rh hr
  if off % n != 0 then .stop (.trap 0x0002 0 0)
  else if h.kind == 3 then .stop (.trap 0x0002 0 0)
  else
    match h.state with
    | .resolving => .stop (.wait .interlock s)
    | .invalid => .stop (.fatal s 0x0020 (dw off) 0)
    | .absent => .stop (.fatal s 0x0020 (h.base + dw off) 0)
    | .valid =>
      if pageBytes h.psz < off + n then .stop (.fatal s 0x0021 (h.base + dw off) 0)
      else if wr && !h.wr then .stop (.fatal s 0x0021 (h.base + dw off) 0)
      else refresh s hr off n wr

/-- An access on its way (R267, R289). -/
def mkAccess (s : State) (hr : HReg) (h : Handle) (off n : Nat) (wr : Bool) (op : AccessOp) : Access :=
  { who := s.turn, h := hr, off := off, pa := h.frame.toNat + off, n := n, expiry := h.expiry, wr := wr,
    space := s.me.spr.space, va := h.base, kind := h.kind, at_ := s.time.toNat, op := op }

/-- LDG: the destination is empty until the value arrives (R216, R25). -/
def execLdg (d : GReg) (hr : HReg) (a : GReg) (sz : Size) (o : BitVec 6) : State → Out :=
  issue (useI 2 d a) fun s =>
    let off := hOff (s.me.rg a) sz o
    match checkHandle s hr off (sizeBytes sz) false with
    | .stop b => b
    | .go s h => .next ((s.setMe (s.me.empty d)).due (.homeAccess (mkAccess s hr h off (sizeBytes sz) false (.load d))))

/-- STG (R216). -/
def execStg (d : GReg) (hr : HReg) (a : GReg) (sz : Size) (o : BitVec 6) : State → Out :=
  issue (useS 2 [(a, false), (d, false)]) fun s =>
    let off := hOff (s.me.rg a) sz o
    match checkHandle s hr off (sizeBytes sz) true with
    | .stop b => b
    | .go s h => .next (s.due (.homeAccess (mkAccess s hr h off (sizeBytes sz) true (.store (s.me.rg d)))))

/-- AMO at issue: `g[D]` is read as the operand, or a compare and swap's comparand with its new value in `g[D+1]`
(R44, R275, R276). The forms that R44 forbids are illegal instructions. -/
def execAmo (d : GReg) (hr : HReg) (a : GReg) (op : AmoOp) (sc : Scope) (z r : Bool) (s : State) : Out :=
  if !(Instr.amo d hr a op sc z r).wf then .next (s.trap 0x0001 0 0)
  else
    issue { len := 2, on := anyStrand,
            src := [(a, false), (d, false)] ++ (if op == .cas then [(d + 1, false)] else []),
            dst := if r then [d] else [] } (fun s =>
      let off := (s.me.rg a).toNat
      let n := if z then 8 else 4
      match checkHandle s hr off n true with
      | .stop b => b
      | .go s h =>
        let y := if op == .cas then s.me.rg (d + 1) else 0
        let acc := mkAccess s hr h off n true (.atomic d op sc r (s.me.rg d) y)
        .next ((if r then s.setMe (s.me.empty d) else s).due (.homeAccess acc))) s

/-! ### XLT.R (R217 to R219) -/

/-- A walk begins for a handle. It takes a time that the spec gives as typical only; one that takes more than 1000 ns starts
again (R11, R288; log entry 24). -/
def State.startWalk (s : State) (w : Who) (hr : HReg) (x : SpaceAddr) : State :=
  let t := s.time.toNat
  let n := 1 + Config.delay s.fresh
  ({ s with fresh := s.fresh + 1 } : State).timer (t + min n 1000)
    (if n ≤ 1000 then .walkComplete w hr x else .walkRestart w hr x)

/-- The 64 KB page of an address. -/
def basePage (va : Nat) : Nat := va / 0x10000 * 0x10000

/-- A walk's handle still waits for it: an `MTS` of SPACE has made INVALID those of the SPACE before (R105, R215). -/
def State.awaitsWalk (s : State) (w : Who) (hr : HReg) (x : SpaceAddr) : Bool :=
  let h := (s.strand w).rh hr
  h.state == .resolving && h.base == dw (basePage x.va.toNat) && (s.strand w).spr.space == x.space

/-- Sets a handle resolving and starts its walk, or fills it from a live cached translation (R217, R288). -/
def resolve (s : State) (hr : HReg) (va : Nat) : State :=
  match s.cachedTrans s.myDie s.me.spr.space va with
  | some t => s.setMe (s.me.wh hr (Handle.ofLease t.lease t.cls))
  | none =>
    (s.setMe (s.me.wh hr { Handle.none with state := .resolving, base := dw (basePage va) })).startWalk s.turn hr ⟨dw va, s.me.spr.space⟩

/-- XLATE (R217). -/
def execXlate (hr : HReg) (a : GReg) (ta : Bool) : State → Out :=
  issue { useS 2 [(a, ta)] with hold := fun s => interlockWhile ((s.me.rh hr).state == .resolving) } fun s =>
    if 2 ^ 45 ≤ (s.me.rg a).toNat then .trap 0x0002 0 0
    else .next (resolve s hr (s.me.rg a).toNat)

/-- HREL (R217). -/
def execHrel (hr : HReg) : State → Out :=
  issue (use0 2) fun s =>
    if (s.me.rh hr).state == .resolving then .wait .interlock s else .next (s.setMe (s.me.wh hr Handle.none))

/-- The word of HINFO (R219). -/
def hinfoWord (h : Handle) (now : Dword) : Dword :=
  match h.state with
  | .invalid => 0
  | .resolving => 2
  | .absent => dw (3 + fld h.base 44 16 * 2 ^ 16)
  | .valid =>
    let left := min 32767 ((h.expiry.toNat - now.toNat) / 1000)
    dw (1 + (if h.wr then 4 else 0) + h.kind.toNat * 8 + h.psz.toNat * 64 + h.lclass.toNat * 256 +
      fld h.base 44 16 * 2 ^ 16 + left * 2 ^ 45)

/-- HINFO reads the handle as it stands, RESOLVING included (R217, R219, R288). -/
def execHinfo (d : GReg) (hr : HReg) : State → Out :=
  issue (useD 2 d) fun s => .next (s.setMe (s.me.wg d (hinfoWord (s.me.rh hr) (s.dieTime s.myDie))))

/-- HRENEW (R217). -/
def execHrenew (hr : HReg) : State → Out :=
  issue (use0 2) fun s =>
    let h := s.me.rh hr
    match h.state with
    | .invalid => .trap 0x0002 0 0
    | .resolving => .wait .interlock s
    | _ => .next (resolve s hr h.base.toNat)

/-- WALK_COMPLETE: a walk started for a handle in a SPACE ends; while the die's walkers stall it does not (R215, R288, R292). -/
def execWalkComplete (w : Who) (hr : HReg) (x : SpaceAddr) (s : State) : Out :=
  let d := dieOf w.core
  if s.walkStalls d x.space x.va.toNat then .next (s.timer (s.time.toNat + 1) (.walkComplete w hr x))
  else
    let (t, r) := s.walk d x.space x.va.toNat
    let t := t.keepTrans d x.space r
    .next (if s.awaitsWalk w hr x then t.setStrand w ((t.strand w).wh hr r.handle) else t)

/-- WALK_RESTART: a walk that took longer than 1000 ns, or was stalled, begins again (R288, R292). -/
def execWalkRestart (w : Who) (hr : HReg) (x : SpaceAddr) (s : State) : Out :=
  if s.awaitsWalk w hr x then .next (s.startWalk w hr x) else .next s

/-- The pages of a probed range, ascending: the first that is not present, if any (R218); no answer while a walk of one
stalls (R292). -/
def probePages (s : State) (d : DieId) (space : BitVec 16) (base : Nat) : Nat → Nat → Nat → Option (State × Option Nat)
  | 0, _, _ => some (s, none)
  | fuel + 1, va, stop =>
    if stop ≤ va then some (s, none)
    else if s.walkStalls d space va then none
    else
      let (s, r) := s.walk d space va
      match r.found with
      | some (l, _) => probePages s d space base fuel (l.base.toNat + pageBytes l.psz) stop
      | none => some (s, some (max base r.base))

/-- PROBE (R218). -/
def execProbe (a b : GReg) (ta tb : Bool) : State → Out :=
  issue { useS 2 [(a, ta), (b, tb)] with hold := fun s => interlockWhile (s.inFlight s.turn) } fun s =>
    let base := (s.me.rg a).toNat
    let len := (s.me.rg b).toNat
    if len = 0 then .next s
    else if 2 ^ 32 < len ∨ 2 ^ 45 < base + len then .trap 0x0002 0 0
    else
      match probePages s s.myDie s.me.spr.space base 65538 base (base + len) with
      | none => .wait .interlock s
      | some (s, none) => .next s
      | some (s, some va) => .resumable s 0x0010 (dw va)

/-- GREG_FILL: a long-latency producer's result arrives (R25). -/
def execGregFill (w : Who) (d : GReg) (x : Dword) (s : State) : Out :=
  .next (s.setStrand w ((s.strand w).fill d x))

end Sys2Proof.Machine
end

