-- ==== Sys2Proof/Machine/Sem.lean ====
section
/-!
DEFINITION. Semaphores (R139, R140, R226, R227): the instructions, the cycle that applies signals and serves waiters, and
the timeout.
-/

namespace Sys2Proof.Machine

def Core.semCount (c : Core) (k : BitVec 8) : Nat := (c.sem[k.toNat]'k.isLt).toNat
def Core.setSem (c : Core) (k : BitVec 8) (n : Nat) : Core := { c with sem := c.sem.set k.toNat (BitVec.ofNat 16 n) k.isLt }

/-- The amount of a SEM.R instruction (R226). -/
def semAmount (z : Strand) (g : GReg) (amt : BitVec 4) : Nat :=
  if amt = 0 then fld (z.rg g) 15 0 else amt.toNat

/-- A semaphore instruction reads `g[G]` only for an amount of 0 (R48). -/
def amountSrc (g : GReg) (amt : BitVec 4) (tg : Bool) : List (GReg × Bool) := if amt = 0 then [(g, tg)] else []

/-- Adds a signal to those the core's next cycle applies (R140). -/
def State.signal (s : State) (c : CoreId) (x : Signal) : State :=
  let y := s.core c
  (s.setCore c { y with signals := y.signals ++ [x] }).due (.semaphoreCycle c)

/-- Stores of a strand to scratchpads of its cluster that have not been performed (R246, R247). -/
def State.remoteStores (s : State) (w : Who) : List Event :=
  (s.timers.map (·.2)).filter fun e =>
    match e with
    | .clusterAccess x _ _ _ st _ => x == w && st.isSome
    | _ => false

/-- KSIG, which follows the strand's stores: an `RST` is one of them (R226, R247, R274; log entry 77). -/
def ksig (len : Nat) (src : List (GReg × Bool)) (k : BitVec 8) (amount : Strand → Nat) : State → Out :=
  issue (useS len src) fun s =>
    .next (s.signal s.turn.core
      { set := false, k := k, n := amount s.me, src := .strand s.turn.strand, after := s.remoteStores s.turn })

def execKsig (g : GReg) (k : BitVec 8) (amt : BitVec 4) (tg : Bool) : State → Out :=
  ksig 2 (amountSrc g amt tg) k fun z => semAmount z g amt
def execCKsig (k : BitVec 8) (amt : BitVec 4) : State → Out := ksig 1 [] k fun _ => amt.toNat

/-- A KSIG waits until the stores before it have been performed, and one of M until the rows of a drain begun before it have been
written; a KSET does not wait (R226). -/
def State.holdsSignal (s : State) (c : CoreId) (x : Signal) : Bool :=
  !x.set && ((x.src == .strand .m && (s.core c).frame.drain.isSome) || x.after.any fun e => s.agenda.contains e || s.timers.any fun t => t.2 == e)

/-- Whether an acquire on core `c` succeeds in its own cycle: nobody waits before it, the count covers it, and no signal is about to be
applied before it (R140). -/
def State.canAcquire (s : State) (c : CoreId) (k : BitVec 8) (n : Nat) : Bool :=
  let x := s.core c
  decide (n ≤ x.semCount k) && !x.semWait.any (fun w => w.k == k) && x.signals.all (s.holdsSignal c)

/-- Joins the waiters of a semaphore (R140). -/
def State.joinSem (s : State) (k : BitVec 8) (n : Nat) (til : Option Nat) : State :=
  let c := s.here
  let s := s.setHere { c with semWait := c.semWait ++ [{ k := k, n := n, party := .strand s.turn.strand }] }
  (s.setMe { s.me with wait := .sem til }).due (.semaphoreCycle s.turn.core)

/-- KWAIT: an acquire; the strand waits until it succeeds (R226). -/
def kwait (len : Nat) (src : List (GReg × Bool)) (k : BitVec 8) (amount : Strand → Nat) : State → Out :=
  issue (useS len src) fun s =>
    let n := amount s.me
    match s.me.wait with
    | .got => .next (s.setMe { s.me with wait := .none })
    | .sem _ => .wait .semWait s
    | _ =>
      if n = 0 then .next s
      else if s.canAcquire s.turn.core k n then .next (s.setHere (s.here.setSem k (s.here.semCount k - n)))
      else .wait .semWait (s.joinSem k n none)

def execKwait (g : GReg) (k : BitVec 8) (amt : BitVec 4) (tg : Bool) : State → Out :=
  kwait 2 (amountSrc g amt tg) k fun z => semAmount z g amt
def execCKwait (k : BitVec 8) (amt : BitVec 4) : State → Out := kwait 1 [] k fun _ => amt.toNat

/-- KTWAIT: an acquire that gives up after `g[G]`[31:0] cycles; `g[G]` says how it ended (R227). -/
def execKtwait (g : GReg) (k : BitVec 8) (amt : BitVec 4) (tg : Bool) : State → Out :=
  issue { len := 2, on := anyStrand, src := [(g, tg)], dst := [g] } fun s =>
    let z := s.me
    let t := fld (z.rg g) 31 0
    match z.wait with
    | .got => .next (s.setMe { z.wg g 1 with wait := .none })
    | .timedOut => .next (s.setMe { z.wg g 0 with wait := .none })
    | .sem _ => .wait .semWait s
    | _ =>
      if s.canAcquire s.turn.core k amt.toNat then
        let s := s.setHere (s.here.setSem k (s.here.semCount k - amt.toNat))
        .next (s.setMe (s.me.wg g 1))
      else if t = 0 then .next (s.setMe (z.wg g 0))
      else
        let til := s.time.toNat + t
        .wait .semWait ((s.joinSem k amt.toNat (some til)).timer (til + 1) (.ktwaitTimeout s.turn til))

/-- KREAD (R226). -/
def execKread (g : GReg) (k : BitVec 8) : State → Out :=
  issue (useD 2 g) fun s => .next (s.setMe (s.me.wg g (dw (s.here.semCount k))))

/-- KSET is applied in step 1 of its cycle (R226). -/
def execKset (g : GReg) (k : BitVec 8) (tg : Bool) : State → Out :=
  issue (useS 2 [(g, tg)]) fun s =>
    .next (s.signal s.turn.core { set := true, k := k, n := fld (s.me.rg g) 15 0, src := .strand s.turn.strand })

/-! ### The semaphore unit -/

/-- R140's order of the signals of a cycle: strands S, V, M, jobs in queue order, the frame job, the fabric. -/
def sigRank : SigSrc → Nat
  | .strand x => sidNat x
  | .job q _ => 3 + q.val
  | .frame => 11
  | .fabric => 12

/-- The signals of a cycle in R140's order, each source's in program order. -/
def orderSignals (xs : List Signal) : List Signal :=
  (List.range 13).flatMap fun r => xs.filter fun x => sigRank x.src == r

/-- The strand that a count above 65535 is charged to (R139, R395). -/
def sigPusher : SigSrc → StrandId
  | .strand x => x
  | .job _ x => x
  | .frame => .m
  | .fabric => .s

/-- Applies one signal: the count holds at 65535, and a sum above it is charged to its strand (R139). -/
def State.applySignal (c : CoreId) (s : State) (x : Signal) : State :=
  let y := s.core c
  if x.set then s.setCore c (y.setSem x.k x.n)
  else
    let n := y.semCount x.k + x.n
    let s := s.setCore c (y.setSem x.k (min 65535 n))
    if 65535 < n then s.drop ⟨c, sigPusher x.src⟩ 1 else s

/-- A waiter has acquired its amount: a strand goes on; a job or the frame job goes on to its next state (R135, R140). -/
def State.grant (s : State) (c : CoreId) : SemParty → State
  | .strand x =>
    let z := s.strand ⟨c, x⟩
    s.setStrand ⟨c, x⟩ { z with wait := .got }
  | .job q =>
    let y := s.core c
    let qu := y.queue q
    let jobs := qu.jobs.map (fun j => if j.state == .awaitSem then { j with state := .awaitTile } else j)
    (s.setCore c (y.setQueue q { qu with jobs := jobs })).due (.jobPop c q)
  | .frame =>
    let y := s.core c
    (s.setCore c { y with frame := { y.frame with job := y.frame.job.map fun j => { j with state := .awaitTile } } }).due (.stepBegin c)

/-- Serves the waiters: along the queue of each semaphore from its head, as long as each acquire succeeds (R140). -/
def serveWaiters (c : CoreId) : List SemWait → List (BitVec 8) → State → State
  | [], _, s => s
  | w :: r, stuck, s =>
    let y := s.core c
    if !stuck.contains w.k && decide (w.n ≤ y.semCount w.k) then
      let y := y.setSem w.k (y.semCount w.k - w.n)
      serveWaiters c r stuck (s.setCore c y |>.grant c w.party)
    else
      let s := s.setCore c { y with semWait := y.semWait ++ [w] }
      serveWaiters c r (w.k :: stuck) s

/-- SEMAPHORE_CYCLE (R140): signals first, then acquires from the head of each queue. A change ends a deadlock count
(R126). -/
def execSemaphoreCycle (c : CoreId) (s : State) : Out :=
  let y := s.core c
  let go : List Signal := y.signals.filter fun x => !s.holdsSignal c x
  let s := s.setCore c { y with signals := y.signals.filter (s.holdsSignal c), semWait := []
                                deadlock := if go.isEmpty then y.deadlock else 0 }
  let s := (orderSignals go).foldl (State.applySignal c) s
  .next (serveWaiters c y.semWait [] s)

/-- KTWAIT_TIMEOUT: a wait that has not acquired by the end of its last cycle gives up and leaves the queue (R140, R227). -/
def execKtwaitTimeout (w : Who) (til : Nat) (s : State) : Out :=
  if (s.strand w).wait == .sem (some til) then
    let s := s.unregister w
    .next (s.setStrand w { s.strand w with wait := .timedOut })
  else .next s

end Sys2Proof.Machine
end

