-- ==== Sys2Proof/Machine/Sync.lean ====
section
/-!
DEFINITION. Fences, flushes, queue and ring reads (R142, R220 to R225).
-/

namespace Sys2Proof.Machine

/-- A put-off step is a memory access, a vector load, a flush, or a hold or drop of a name of a strand (R372). -/
def Event.memory (w : Who) : Event → Bool
  | .homeAccess a => a.who == w
  | .vldgLanesArrive x _ _ => x == w
  | .flushComplete x => x == w
  | .contentNamedOperation x => x.who == w && (x.kind == .hold || x.kind == .drop)
  | _ => false

/-- A put-off step is a cluster access that a fence of a scope waits for: a load, or a store that the scope's agents can
see (R220, R247). -/
def Event.clusterFor (w : Who) (sc : Scope) : Event → Bool
  | .clusterAccess x tgt _ _ st _ => x == w && (st.isNone || sc != .core || tgt == w.core)
  | _ => false

/-- Everything a fence of a scope waits for has been performed: no access or flush of the strand is on its way, and no
nearer ordering point holds a location for atomics that the scope's agents do not yet see (R220, R268, R277). -/
def State.fenced (s : State) (w : Who) (sc : Scope) : Bool :=
  !s.agenda.any (Event.memory w) && !s.timers.any (fun e => Event.memory w e.2) &&
    !(sc == .package && s.crossing (· == w)) && !s.timers.any (fun e => Event.clusterFor w sc e.2) &&
    !s.held.any (fun x => decide (scopeRank x.scope < scopeRank sc) && x.point == pointOf w.core x.scope)

/-- FENCE (R220). -/
def execFence (sc : Scope) : State → Out :=
  issue (use0 2) fun s => if s.fenced s.turn sc then .next s else .wait .interlock s

/-- FLUSH does not stall its strand (R221). -/
def execFlush (a b : GReg) (ta tb : Bool) : State → Out :=
  issue (useS 2 [(a, ta), (b, tb)]) fun s =>
    let base := (s.me.rg a).toNat
    let len := (s.me.rg b).toNat
    if len = 0 then .next s
    else if 2 ^ 45 < base + len then .trap 0x0002 0 0
    else
      let z := s.me
      .next ((s.setMe { z with flushes := z.flushes ++ [(z.spr.space, base, len, s.time.toNat)] }).due (.flushComplete s.turn))

/-- The strand has an access or a flush that waits to go on. -/
def State.memoryWaits (s : State) (w : Who) : Bool := s.timers.any fun e => Event.memory w e.2

/-- A put-off step is an access or a content-named operation that a core issued before a time. -/
def Event.older (c : CoreId) (t : Nat) : Event → Bool
  | .homeAccess b => b.who.core == c && decide (b.at_ < t)
  | .contentNamedOperation x => x.who.core == c && decide (x.at_ < t)
  | _ => false

/-- Something that a core issued before a time waits to go on: a later access of another of its strands may be ordered after it by a
synchronisation edge, and waits for it (R270, R274, R366). -/
def State.coreWaits (s : State) (c : CoreId) (t : Nat) : Bool := s.timers.any fun e => Event.older c t e.2

/-- Writes of a die's cores issued by a time have yet to be performed (R221). -/
def State.dieWrites (s : State) (d : DieId) (til : Nat) : Bool :=
  let out : Event → Bool
    | .homeAccess a => a.wr && dieOf a.who.core == d && decide (a.at_ ≤ til)
    | _ => false
  s.agenda.any out || s.timers.any (fun t => out t.2) ||
    s.dies.toList.any (fun x => x.xwrites.any fun w => w.sender == d && decide (w.a.at_ ≤ til)) ||
    s.held.any fun x => dieOf x.last.who.core == d && decide (x.since ≤ til)

/-- A byte of memory is reached through addresses of a range, where its page may be migrating (R298). -/
def State.reachedFrom (s : State) (lo n pa : Nat) : Bool :=
  let within (x : Nat) : Bool := decide (lo ≤ x) && decide (x < lo + n)
  within pa || s.dies.toList.any fun d => d.migs.toList.any fun m =>
    m.state != 0 && decide (m.new.toNat ≤ pa) && decide (pa < m.new.toNat + pageBytes m.psz) && within (m.old.toNat + (pa - m.new.toNat))

/-- The pages of a flushed range, ascending: those present are visible to the host, the others are skipped (R221); no answer
while a walk stalls (R292). -/
def flushPages (s : State) (d : DieId) (space : BitVec 16) : Nat → Nat → Nat → Option State
  | 0, _, _ => some s
  | fuel + 1, va, stop =>
    if stop ≤ va || s.unseen.isEmpty then some s
    else if s.walkStalls d space va then none
    else
      match s.walk d space va with
      | (s, { found := some (l, _), .. }) =>
        let next := min stop (l.base.toNat + pageBytes l.psz)
        flushPages { s with unseen := s.unseen.filter fun e => !s.reachedFrom (l.at va) (next - va) e.1 } d space fuel next stop
      | (s, _) => flushPages s d space fuel (va / 0x10000 * 0x10000 + 0x10000) stop

/-- FLUSH_COMPLETE: once the writes before the flush have been performed, which the points of the die hold no longer, those to
its range are visible to the host (R221, R282, R283). -/
def execFlushComplete (w : Who) (s : State) : Out :=
  match (s.strand w).flushes with
  | [] => .next s
  | (space, base, len, at_) :: _ =>
    let again : Out := .next (s.timer (s.time.toNat + 1) (.flushComplete w))
    if s.dieWrites (dieOf w.core) at_ then again
    else
      match flushPages s (dieOf w.core) space (2 ^ 29 + 1) base (base + len) with
      | none => again
      | some s => .next (s.setStrand w { s.strand w with flushes := (s.strand w).flushes.tail })

/-- The word of QROOM (R223): a RESUME that runs still counts as queued (log entry 72). -/
def qroomWord (c : Core) (q : QueueId) : Dword :=
  let qu := c.queue q
  let halted := qu.haltedJob
  dw ((32 - qu.jobs.length) + (16 - c.board.length) * 2 ^ 8 + (if halted.isSome then 2 ^ 16 else 0) +
    (if qu.jobs.any (fun j => fld j.d0 7 0 == 0x0A) then 2 ^ 17 else 0) +
    ((halted.map Job.id).getD 0).toNat * 2 ^ 32)

def execQroom (d : GReg) (q : BitVec 3) : State → Out :=
  issue (useD 2 d) fun s => .next (s.setMe (s.me.wg d (qroomWord s.here q.toFin)))

/-- WMARK (R223). -/
def execWmark (d : GReg) (q : BitVec 3) : State → Out :=
  issue (useD 2 d) fun s => .next (s.setMe (s.me.wg d ((s.here.queue q.toFin).watermark.setWidth 64)))

/-- A job id has retired (R138). -/
def Queue.retired (q : Queue) (j : Word) : Bool :=
  let n := (q.watermark - j).toNat
  decide (1 ≤ n) && decide (n ≤ 2 ^ 31)
/-- A job id is outstanding (R224). -/
def Queue.outstanding (q : Queue) (j : Word) : Bool := decide ((j - q.watermark).toNat < (q.next - q.watermark).toNat)

/-- WMWAIT (R224). -/
def execWmwait (a : GReg) (q : BitVec 3) (ta : Bool) : State → Out :=
  issue (useS 2 [(a, ta)]) fun s =>
    let j : Word := (s.me.rg a).setWidth 32
    let qu := s.here.queue q.toFin
    if !qu.retired j && !qu.outstanding j then .trap 0x0002 0 0
    else if qu.retired j then .next s
    else
      match qu.haltedJob with
      | some h => if (j - h.id).toNat < 2 ^ 31 then .next s else .wait .queueWait s
      | none => .wait .queueWait s

/-! ### Buffer rings (R142, R225) -/

def Ring.base (r : Ring) : Nat := fld r.desc 23 0
def Ring.ssize (r : Ring) : Nat := fld r.desc 35 24 * 32
def Ring.nslot (r : Ring) : Nat := fld r.desc 47 36
/-- The ring may be used (R142). -/
def Ring.enabled (r : Ring) : Bool :=
  r.nslot != 0 && r.base % 32 == 0 && r.ssize != 0 && decide (r.base + r.nslot * r.ssize ≤ Config.spadBytes)

def Core.ring (c : Core) (n : BitVec 3) : Ring := c.rings[n.toNat]'n.isLt
def Core.setRing (c : Core) (n : BitVec 3) (r : Ring) : Core := { c with rings := c.rings.set n.toNat r n.isLt }

/-- BACQ (R142, R225). -/
def execBacq (d : GReg) (n : BitVec 3) : State → Out :=
  issue (useD 2 d) fun s =>
    let r := s.here.ring n
    if !r.enabled then .trap 0x0002 0 0
    else if r.free = 0 then .next (s.setMe (s.me.wg d (BitVec.allOnes 64)))
    else
      let s := s.setHere (s.here.setRing n
        { r with acq := BitVec.ofNat 12 ((r.acq.toNat + 1) % r.nslot), free := r.free - 1 })
      .next (s.setMe (s.me.wg d (dw (r.base + r.acq.toNat * r.ssize))))

/-- BREL (R142, R225). -/
def execBrel (a : GReg) (n : BitVec 3) (ta : Bool) : State → Out :=
  issue (useS 2 [(a, ta)]) fun s =>
    let r := s.here.ring n
    if !r.enabled then .trap 0x0002 0 0
    else if r.free.toNat == r.nslot || (s.me.rg a).toNat != r.base + r.rel.toNat * r.ssize then .trap 0x0002 0 0
    else .next (s.setHere (s.here.setRing n
        { r with rel := BitVec.ofNat 12 ((r.rel.toNat + 1) % r.nslot), free := r.free + 1 }))

end Sys2Proof.Machine
end

