-- ==== Sys2Proof/Machine/Plat.lean ====
section
/-!
DEFINITION. The management registers: what each reads, and what a write does under its access codes (R5, R284, R297, R301,
R312, R339, R345 to R358).
-/

namespace Sys2Proof.Machine

/-- A number built from fields: value and low bit. -/
def packFields (xs : List (Nat × Nat)) : Dword := dw (xs.foldl (fun a x => a + x.1 * 2 ^ x.2) 0)

def bit01 (b : Bool) : Nat := if b then 1 else 0

/-- An instance of the ready pool: ready, or saved and no fault holds it (R115, R311). -/
def Inst.inPool (i : Inst) : Bool := i.status == .ready || (i.status == .saved && !i.stop && i.cores.isEmpty)

/-- Instances of the ready pool (R312). -/
def State.readyCount (s : State) : Nat := (s.insts.filter fun x => x.2.inPool).length

/-- DISTSTAT (R312). -/
def State.diststat (s : State) : Dword :=
  packFields [(s.dist.master.val, 0), (bit01 s.dist.electing, 2),
    (((List.finRange 4).map fun d => bit01 (!(s.die d).fenced) * 2 ^ d.val).sum, 4),
    (s.dist.elects.toNat, 16), (min s.readyCount 0xFFFFFFFF, 32)]

/-- STARTREC (R347). -/
def State.startrec (s : State) : Dword :=
  let p := s.plat
  packFields [(p.fail.toNat, 0), (p.alt.toNat, 16), (p.stepNo.toNat, 32), (bit01 p.ready, 36), (p.nstart.toNat, 40),
    (p.hbmx.toNat, 44)]

/-- SECSTAT (R353). -/
def State.secstat (s : State) : Dword :=
  let p := s.plat
  packFields [(bit01 p.attk, 0), (bit01 p.linkk, 1), (bit01 p.cnk, 2), (bit01 p.slotB, 3), (p.alarm.toNat, 4),
    (p.fctr.toNat, 16), (p.qseq.toNat, 32)]

/-- LCUSTAT of a die (R301). -/
def State.lcustat (s : State) (d : DieId) : Dword :=
  let x := s.die d
  packFields [(bit01 x.locked, 0), (bit01 x.skewf, 1), (bit01 x.inFault, 2), (bit01 x.lcuMaster, 3), (x.skewcnt.toNat, 16),
    (x.ptebad.toNat, 32)]

/-- PWRCAP of a die (R350). -/
def State.pwrcap (s : State) (d : DieId) : Dword :=
  let x := s.die d
  packFields [(x.cap.toNat, 0), (x.granted % 65536, 16), (x.leave.length % 65536, 32), (bit01 x.throt, 48)]

def Die.mig (x : Die) (e : MigId) : Migration := x.migs[e]
def Die.setMig (x : Die) (e : MigId) (m : Migration) : Die := { x with migs := x.migs.set e.val m e.isLt }

/-- A dword of a migration entry (R297). -/
def Migration.dword (m : Migration) : Nat → Dword
  | 0 => packFields [(m.state.toNat, 0), (m.psz.toNat, 2), (fld m.old 47 16, 16)]
  | 1 => packFields [(fld m.new 47 16, 16)]
  | 2 => m.prog.setWidth 64
  | _ => m.badl.setWidth 64

/-- MBCMD reads its fields; GO is write-only (R354). -/
def State.mbcmd (s : State) : Dword := packFields [(s.plat.mbOp.toNat, 0), (s.plat.mbLen.toNat, 16)]
/-- MBSTAT (R354). -/
def State.mbstat (s : State) : Dword :=
  let p := s.plat
  packFields [(bit01 p.busy, 0), (p.result.toNat, 8), (p.rlen.toNat, 16), (p.mseq.toNat, 32)]

/-- Die and entry of an offset among the migration entries. -/
def migOf (off : Nat) : DieId × MigId := (⟨(off - 0x200) / 512 % 4, by omega⟩, ⟨(off - 0x200) / 32 % 16, by omega⟩)
/-- Die of an offset in a per-die group of registers. -/
def dieReg (base off : Nat) : DieId := ⟨(off - base) / 8 % 4, by omega⟩

/-- What the aligned dword at an offset reads; an unlisted offset reads 0 (R345). -/
def State.mgmtRead (s : State) (off : Nat) : Dword :=
  if off = 0x00 then s.plat.ctxbase
  else if off = 0x08 then s.plat.rgnbase
  else if off = 0x10 then s.plat.wqbase
  else if off = 0x18 then s.plat.stealctl
  else if off = 0x20 then s.diststat
  else if off = 0x28 then s.startrec
  else if off = 0x30 then s.plat.alarmpol
  else if off = 0x38 then s.secstat
  else if off = 0x40 then s.plat.errDrop ++ s.plat.errCorr
  else if 0x100 ≤ off ∧ off < 0x120 then s.lcustat (dieReg 0x100 off)
  else if 0x200 ≤ off ∧ off < 0xA00 then ((s.die (migOf off).1).mig (migOf off).2).dword (off / 8 % 4)
  else if 0xA00 ≤ off ∧ off < 0xA20 then s.pwrcap (dieReg 0xA00 off)
  else if off = 0xC00 then s.mbcmd
  else if off = 0xC08 then s.mbstat
  else if 0x1000 ≤ off ∧ off < 0x3000 then s.plat.mbuf.dword (off - 0x1000)
  else 0

/-- The steps that a write of the aligned dword at an offset starts: the row of the register's own behaviour, or
REGISTER_WRITE (R345). -/
def State.mgmtWrite (s : State) (off : Nat) (x : Dword) (host : Bool) : List Event :=
  if off = 0x30 then [.alarmpolWrite x]
  else if off = 0x38 then .registerWrite off x host :: (if x.getLsbD 7 then [.secstatAdv] else [])
  else if 0xA00 ≤ off ∧ off < 0xA20 then [.pwrcapWrite (dieReg 0xA00 off) x]
  else if 0x200 ≤ off ∧ off < 0xA00 ∧ off / 8 % 4 = 0 then
    let (d, e) := migOf off
    if fld x 1 0 = 1 then [.migrationArm d e x]
    else if fld x 1 0 = 0 ∧ ((s.die d).mig e).state = 2 then [.migrationRemove d e]
    else [.registerWrite off x host]
  else [.registerWrite off x host]

/-- Bits of a register that a write may set. -/
def maskTo (x : Dword) (hi lo : Nat) : Dword := dw (fld x hi lo * 2 ^ lo)

/-- A command's row by its OPCODE (R355). -/
def mailboxRow : Nat → Option Event
  | 0x01 => some .fabrd
  | 0x02 => some .fabwr
  | 0x10 => some .kempub
  | 0x11 => some .kekset
  | 0x20 => some .linkkey
  | 0x21 => some .cnkey
  | 0x22 => some .cnkeyclr
  | 0x30 => some .spareret
  | 0x40 => some .quote
  | _ => none

/-- The command in progress will answer so (R354). -/
def State.answer (s : State) (result : Nat) (reply : List Byte) : State :=
  ({ s with plat := { s.plat with reply := some (result, reply) } } : State).due .mailboxComplete

/-- A write of MBCMD: while BUSY it is ignored; GO starts the command (R354). The mailbox answers from start-up step 11
on, and in the safe state. -/
def State.writeMbcmd (s : State) (x : Dword) : State :=
  if s.plat.busy || (decide (s.plat.stepNo.toNat < 11) && !s.plat.safe) then s
  else
    let go := x.getLsbD 63
    let s := { s with plat := { s.plat with mbOp := x.extractLsb' 0 16, mbLen := x.extractLsb' 16 14, busy := go } }
    if go then
      match mailboxRow (fld x 15 0) with
      | some e => s.due e
      | none => s.answer 1 []
    else s

/-- A write of a migration entry's frames, only while it is IDLE (R297). -/
def Migration.write (m : Migration) (x : Dword) (i : Nat) : Migration :=
  if m.state != 0 then m
  else if i = 0 then { m with psz := x.extractLsb' 2 2, old := maskTo x 47 16 }
  else if i = 1 then { m with new := maskTo x 47 16 }
  else m

/-- REGISTER_WRITE: a write of the aligned dword at an offset of the management range, under the access codes of its
fields; only the host clears FAIL and HBMX. A bit of ALARM that an alarm of the same cycle set stays, and what has counted in
ERRSUM in that cycle is added to what is written (R5, R284, R301, R339, R345, R347, R348, R353, R354, R358, R359). -/
def execRegisterWrite (off : Nat) (x : Dword) (host : Bool) (s : State) : Out :=
  let p := s.plat
  .next (
    if off = 0x00 then { s with plat := { p with ctxbase := maskTo x 47 21 } }
    else if off = 0x08 then { s with plat := { p with rgnbase := maskTo x 47 22 } }
    else if off = 0x10 then { s with plat := { p with wqbase := maskTo x 47 21 } }
    else if off = 0x18 then
      ({ s with plat := { p with stealctl := maskTo x 15 0 ||| maskTo x 60 32 } } : State).dueAll [.loadFigure, .stealRequest]
    else if off = 0x28 then
      if host then
        { s with plat := { p with fail := p.fail &&& ~~~(x.extractLsb' 0 16), hbmx := p.hbmx &&& ~~~(x.extractLsb' 44 16) } }
      else s
    else if off = 0x38 then { s with plat := { p with alarm := p.alarm &&& ~~~(x.extractLsb' 4 3) ||| s.cycle.alarm } }
    else if off = 0x40 then
      { s with plat := { p with errCorr := BitVec.ofNat 32 (holdAdd 0xFFFFFFFF (fld x 31 0) s.cycle.corr),
                                errDrop := BitVec.ofNat 32 (holdAdd 0xFFFFFFFF (fld x 63 32) s.cycle.drop) } }
    else if 0x100 ≤ off ∧ off < 0x120 then
      let d := dieReg 0x100 off
      if x.getLsbD 1 then s.setDie d { s.die d with skewf := false } else s
    else if 0x200 ≤ off ∧ off < 0xA00 then
      let (d, e) := migOf off
      s.setDie d ((s.die d).setMig e (((s.die d).mig e).write x (off / 8 % 4)))
    else if off = 0xC00 then s.writeMbcmd x
    else if 0x1000 ≤ off ∧ off < 0x3000 then
      if p.busy then s else { s with plat := { p with mbuf := p.mbuf.putNat (off - 0x1000) 8 x.toNat } }
    else s)

/-- ALARMPOL_WRITE: ignored once LOCK is 1 (R352). -/
def execAlarmpolWrite (x : Dword) (s : State) : Out :=
  .next (if s.plat.alarmpol.getLsbD 63 then s
    else { s with plat := { s.plat with alarmpol := maskTo x 11 0 ||| maskTo x 63 63 } })

/-- An image's MAGIC, ROLLBACK and length (R349). -/
def Image.magic (m : Image) : Bool := m.nat 0 4 == 0x4E4C4B46
def Image.rollback (m : Image) : Nat := m.nat 8 2
def Image.length (m : Image) : Nat := m.nat 16 4
def Image.reservedZero (m : Image) : Bool := m.nat 10 6 == 0 && m.nat 20 4 == 0 && m.nat 24 40 == 0
/-- The signed message: bytes 0x000 to 0x03F and the body (R349). -/
def Image.message (m : Image) : List Byte := m.bytes 0 0x40 ++ m.bytes 0x1000 m.length
/-- ESIG verifies: it is the signature that the vendor makes, or another that its key verifies (R349). -/
def Image.esig (m : Image) : Bool :=
  let sig := m.bytes 0x40 64
  sig == (List.range 64).map (Config.vendorEd25519 m.message) || Config.verifyEd25519 m.message sig
/-- MSIG verifies (R349). -/
def Image.msig (m : Image) : Bool :=
  let sig := m.bytes 0x80 3309
  sig == (List.range 3309).map (Config.vendorMldsa65 m.message) || Config.verifyMldsa65 m.message sig

/-- SECSTAT_ADV: the fused counter rises to the loaded image's number; ignored before READY (R353). -/
def execSecstatAdv (s : State) : Out :=
  let n := Image.rollback (if s.plat.slotB then s.plat.imgB else s.plat.imgA)
  .next (if s.plat.ready then { s with plat := { s.plat with fctr := BitVec.ofNat 16 (max s.plat.fctr.toNat n) } } else s)

/-! ### Alarms (R352) -/

/-- Bit of a sublink's direction in the key slots: port, direction (transmit 0), slot. -/
def keyIndex (p : Port) (rx slot : Bool) : Fin 24 :=
  ⟨4 * p.val + (if rx then 2 else 0) + (if slot then 1 else 0), by have := p.isLt; split <;> split <;> omega⟩

/-- The actions of an alarm's field: erase the attestation keys, the link keys, the content-named keys; restart. Erasing
any set discards the KEK (R352, R356). -/
def State.alarmActions (s : State) (act : Nat) (bit : Nat) : State :=
  let p := s.plat
  let p := { p with alarm := setBit p.alarm bit true }
  let p := if act % 2 = 1 then { p with attk := false, kek := none } else p
  let p := if act / 2 % 2 = 1 then { p with linkk := false, kek := none } else p
  let p := if act / 4 % 2 = 1 then { p with cnk := false, kek := none, cnKeys := [] } else p
  let s := { s with plat := p, cycle := { s.cycle with alarm := setBit s.cycle.alarm bit true } }
  let s := if act / 2 % 2 = 1 then { s with fab := { s.fab with keys := Vector.replicate 24 none } } else s
  if act / 8 % 2 = 1 then s.due (.moduleStart Startup.good) else s

def execTamperAlarm (s : State) : Out := .next (s.alarmActions (fld s.plat.alarmpol 3 0) 0)
def execVoltageGlitch (s : State) : Out := .next (s.alarmActions (fld s.plat.alarmpol 7 4) 1)
def execClockGlitch (s : State) : Out := .next (s.alarmActions (fld s.plat.alarmpol 11 8) 2)

/-! ### Start-up (R346 to R349) -/

/-- Time mastership passes to a die, whose copy goes on as TIME; no copy steps. For 32 µs the threshold of R292 is 32 ns, and the
others are brought within 16 ns of the new master (R291). -/
def State.timeTo (s : State) (m : DieId) : State :=
  let t := s.dieTime m
  let shift := s.time.toInt - t.toInt
  let dies : Vector Die 4 := Vector.ofFn fun e : Fin 4 =>
    let y := s.dies[e]
    let ofs := if e = m then 0 else y.offset + shift
    { y with lcuMaster := decide (e = m), offset := ofs, hold := if y.fenced then y.hold else s.dieTime e
             locked := !y.fenced && !y.inFault && decide (ofs.natAbs ≤ 16) }
  let s : State := { s with time := t, dies := dies, dist := { s.dist with wide := t + 32000 } }
  ((List.finRange 4).filter fun e => e != m && !(s.die e).fenced).foldl (fun (s : State) e => s.timer (s.time.toNat + 1000) (.slew e)) s

/-- The state at the beginning of a start. Memory keeps its contents until steps 8 and 9 and the management registers theirs until
step 11; the persistent fields, the flash and the fuses keep theirs; all else is at its reset value, and no key is loaded (R346,
R347, R349, R353, R356). -/
def State.cold (s : State) : State :=
  { State.reset with
    dies := Vector.ofFn fun d : Fin 4 =>
      let x := s.dies[d]
      { Die.reset with skewf := x.skewf, skewcnt := x.skewcnt, ptebad := x.ptebad, migs := x.migs, cap := x.cap }
    dist := { Dist.reset with elects := s.dist.elects }
    plat := { s.plat with alt := 0, stepNo := 0, ready := false, excluded := 0, safe := false, attk := false, linkk := false,
                          cnk := false, slotB := false, qseq := 0, busy := false, mseq := 0, reply := none, kek := none, cnKeys := [] }
    mem := s.mem, flaws := s.flaws, stamps := s.stamps
    peer := s.peer, agenda := [], fresh := s.fresh }

/-- Memory at some addresses is zeroed (R346). -/
def State.zeroed (s : State) (p : Nat → Bool) : State :=
  { s with mem := s.mem.filter (fun x => !p x.1), flaws := s.flaws.filter (fun x => !p x.1), stamps := s.stamps.filter fun x => !p x.1 }

/-- An address of the coherent window (R343). -/
def windowAddr (a : Nat) : Bool := decide (windowBase ≤ a) && decide (a < mgmtBase)

/-- Step 11: the management registers that are not persistent take their reset values. Those that only show a state of the
machine go on showing it (R345, R346). -/
def State.clearRegisters (s : State) : State :=
  let p := s.plat
  { s with
    plat := { p with ctxbase := 0, rgnbase := 0, wqbase := 0, stealctl := 0, alarmpol := alarmpolReset, alarm := 0, errCorr := 0,
                     errDrop := 0, mbOp := 0, mbLen := 0, busy := false, result := 0, rlen := 0, mseq := 0, mbuf := [], reply := none }
    dies := s.dies.map fun x => { x with skewf := false, skewcnt := 0, ptebad := 0, cap := 760, migs := Vector.replicate 16 Migration.reset }
    dist := { s.dist with elects := 0 } }

/-- An image is accepted: its MAGIC, its reserved fields, its ROLLBACK and both signatures are good (R10, R349). -/
def Image.accepted (m : Image) (fctr : BitVec 16) : Bool :=
  m.magic && m.reservedZero && decide (fctr.toNat ≤ m.rollback) && m.esig && m.msig

/-- The lowest-numbered die that is not fenced (R303). -/
def State.lowestHealthy (s : State) : Option DieId := (List.finRange 4).find? fun d => !(s.die d).fenced

/-- Dies of a mask are fenced; time mastership leaves one that held it (R291, R313). -/
def State.fenceDies (s : State) (m : BitVec 4) : State :=
  let held := (List.finRange 4).any fun d => m.getLsbD d.val && (s.die d).lcuMaster
  let t := (List.finRange 4).foldl (fun s d => if m.getLsbD d.val then s.setDie d { s.die d with fenced := true, locked := false } else s) s
  match held, t.lowestHealthy with
  | true, some d => t.timeTo d
  | _, _ => t

/-- The clusters of a mask are taken out of the pool. -/
def State.removeClusters (s : State) (m : BitVec 128) : State :=
  { s with clusters := Vector.ofFn fun k : Fin 128 => { s.clusters[k] with removed := m.getLsbD k.val } }

/-- The lowest-numbered die whose lease clock unit passed its self-check is the time master, and those that passed lock to it; none
where no unit passed (R290, R291). -/
def State.timeMaster (s : State) (failed : BitVec 4) : Option State :=
  ((List.finRange 4).find? fun d => !failed.getLsbD d.val).map fun m =>
    { s with dies := Vector.ofFn fun i : Fin 4 =>
        { s.dies[i] with lcuMaster := decide (i = m), locked := !failed.getLsbD i.val } }

/-- Step 12: the master distributor is elected, and time mastership passes to its die (R291, R303). -/
def State.elected (s : State) : Option State :=
  s.lowestHealthy.map fun d =>
    let t : State := { s with dist := { s.dist with master := d } }
    if (t.die d).lcuMaster then t else t.timeTo d

/-- One step of the start in its normal or alternate form; none where it fails. Steps 13 and 14 in their alternate form are
skipped (R346). -/
def startStep (u : Startup) (n : Nat) (alternate : Bool) (s : State) : Option State :=
  let ok := (alternate && decide (13 ≤ n)) || !(if alternate then u.alternate else u.normal).getLsbD n
  let p := s.plat
  if !ok then none
  else
    match n, alternate with
    | 1, _ => some { s with plat := { p with attk := true, linkk := true, cnk := true } }
    | 2, false => if p.imgA.accepted p.fctr then some { s with plat := { p with slotB := false } } else none
    | 2, true => if p.imgB.accepted p.fctr then some { s with plat := { p with slotB := true } } else none
    | 3, _ => s.timeMaster u.clocks
    | 4, false => if u.links = 0 then some s else none
    | 4, true => let s := s.fenceDies u.links; if s.lowestHealthy.isSome then some s else none
    | 5, false => if u.dies = 0 then some s else none
    | 5, true => let s := s.fenceDies u.dies; if s.lowestHealthy.isSome then some s else none
    | 6, false => if u.vaults = 0 then some s else none
    | 6, true => some (s.removeClusters u.vaults)
    | 7, false => if u.hbm = 0 then some s else none
    | 7, true => if u.hbm &&& ~~~p.hbmx = 0 then some { s with plat := { p with excluded := p.hbmx } } else none
    | 8, _ => some (s.zeroed fun a => !windowAddr a)
    | 9, _ => some (s.zeroed windowAddr)
    | 11, _ => some s.clearRegisters
    | 12, _ => s.elected
    | 13, false =>
      some { s with fab := { s.fab with links := Vector.ofFn fun i : Fin 24 =>
               { s.fab.links[i] with up := !(s.die ⟨i.val % 4, by omega⟩).fenced } } }
    | 15, _ => some { s with plat := { p with ready := true, nstart := 0 } }
    | _, _ => some s

/-- Steps that have no alternate form (R346). -/
def startStops (n : Nat) : Bool := [0, 1, 3, 8, 9, 11, 12, 15].contains n

/-- NSTART rises, holding at 15 (R347). -/
def State.startFailed (s : State) : State :=
  { s with plat := { s.plat with nstart := BitVec.ofNat 4 (holdAdd 15 s.plat.nstart.toNat 1) } }

/-- The alarms of a step are acted on as it completes; those of step 0 as step 1 does (R352, R359). -/
def State.startAlarms (s : State) (u : Startup) (n : Nat) : State :=
  let seen := (u.alarms.filter fun x => if n = 1 then decide (x.1 ≤ 1) else n != 0 && x.1 == n).foldl (fun m x => m ||| x.2) 0#3
  (List.range 3).foldl (fun (s : State) i =>
    if seen.getLsbD i then s.alarmActions (fld s.plat.alarmpol (4 * i + 3) (4 * i)) i else s) s

/-- The steps of a start from step `n` on; an alarm that restarts the module ends it, a start that did not reach READY. A step that
fails has completed for its alarms, but for steps 0 and 1, whose alarms wait for step 1 to succeed (R346 to R348, R352, R359). -/
def runStart (u : Startup) : List Nat → State → State
  | [], s => s
  | n :: r, s =>
    let alternate := s.plat.fail.getLsbD n && !startStops n
    let s : State := { s with plat := { s.plat with alt := if alternate then setBit s.plat.alt n true else s.plat.alt } }
    match startStep u n alternate s with
    | some t =>
      let t := ({ t with plat := { t.plat with stepNo := BitVec.ofNat 4 n } } : State).startAlarms u n
      if t.agenda.isEmpty then runStart u r t else if n = 15 then t else t.startFailed
    | none =>
      let again : Event := .moduleStart { u with alarms := [] }
      let s := s.startFailed
      if alternate || startStops n then
        let s : State := { s with plat := { s.plat with safe := true } }
        if n < 2 then s else s.startAlarms u n
      else
        let p := { s.plat with fail := setBit s.plat.fail n true, hbmx := if n = 7 then s.plat.hbmx ||| u.hbm else s.plat.hbmx }
        { ({ s with plat := p } : State).startAlarms u n with agenda := [again] }

/-- MODULE_START: the sixteen steps, in order (R346 to R349). -/
def execModuleStart (u : Startup) (s : State) : Out := .next (runStart u (List.range 16) s.cold)

/-! ### Mailbox commands (R354 to R357) -/

/-- The request of the command in progress. -/
def State.request (s : State) : List Byte := s.plat.mbuf.bytes 0 s.plat.mbLen.toNat
/-- A dword of the request. -/
def State.requestDword (s : State) (i : Nat) : Dword := s.plat.mbuf.dword (8 * i)

/-- A command that needs optics and links, which start-up step 13 brings up (R354). -/
def State.noFabric (s : State) : Bool := s.plat.safe || decide (s.plat.stepNo.toNat < 13)
/-- A command that drives the optics themselves, which a start that skips step 13 never enables (R346, R354). -/
def State.noOptics (s : State) : Bool := s.noFabric || s.plat.alt.getLsbD 13

/-- The checks every command makes in this order: LEN, the fields, the parts it needs; then its effect (R354). -/
def mailbox (len : Nat) (bad : State → Bool) (refused : State → Bool) (run : State → State) (s : State) : Out :=
  .next (if s.plat.mbLen.toNat != len then s.answer 2 []
    else if bad s then s.answer 3 []
    else if refused s then s.answer 7 []
    else run s)

/-- A sublink by port and die. -/
def linkIndex (p : Port) (d : DieId) : Fin 24 := ⟨4 * p.val + d.val, by have := p.isLt; have := d.isLt; omega⟩
def State.link (s : State) (p : Port) (d : DieId) : Link := s.fab.links[linkIndex p d]
def State.setLink (s : State) (p : Port) (d : DieId) (x : Link) : State :=
  { s with fab := { s.fab with links := s.fab.links.set (linkIndex p d).val x (linkIndex p d).isLt } }
def State.key (s : State) (p : Port) (rx slot : Bool) : Option LinkKey := s.fab.keys[keyIndex p rx slot]

/-- A port number taken from a field; the model clamps what its callers have refused. -/
def portOf (n : Nat) : Port := ⟨n % 6, by omega⟩

/-- PORTSTAT (R404). -/
def State.portstat (s : State) (p : Port) : Dword :=
  let ls := (List.finRange 4).map fun d => (d.val, s.link p d)
  let st := s.fab.ports[p]
  packFields [((ls.map fun x => bit01 x.2.up * 2 ^ x.1).sum, 0), ((ls.map fun x => bit01 x.2.training * 2 ^ x.1).sum, 4),
    (bit01 st.slot, 8), (bit01 (ls.any fun x => x.2.swpend), 9),
    ((ls.map fun x => x.2.txSpares + x.2.rxSpares).sum % 64, 10), (st.authfail.toNat, 16), (st.retrains.toNat, 32),
    (st.badpkt.toNat, 48)]

def execFabrd : State → Out :=
  mailbox 8 (fun s => decide (6 < fld (s.requestDword 0) 2 0) || fld (s.requestDword 0) 63 3 != 0) State.noFabric fun s =>
    let sel := fld (s.requestDword 0) 2 0
    s.answer 0 (leBytes 8 (if sel = 0 then s.fab.cfg.toNat else (s.portstat (portOf (sel - 1))).toNat))

def execFabwr : State → Out :=
  mailbox 8 (fun s => fld (s.requestDword 0) 63 27 != 0) State.noFabric fun s =>
    ({ s with fab := { s.fab with cfg := (s.requestDword 0).setWidth 27 } } : State).answer 0 []

/-- The ML-KEM-768 encapsulation key. -/
def kemBytes : List Byte := (List.range 1184).map Config.kemKey

def execKempub : State → Out :=
  mailbox 0 (fun _ => false) (fun s => !s.plat.attk) fun s => s.answer 0 kemBytes

def execKekset : State → Out :=
  mailbox 1088 (fun _ => false) (fun s => !s.plat.attk) fun s =>
    ({ s with plat := { s.plat with kek := some (Config.kemDecap s.request) } } : State).answer 0 []

/-- The key a command carries wrapped, in its last 40 bytes, or the result that refuses it (R356). -/
def State.unwrapped (s : State) (at_ : Nat) : Except Nat (BitVec 256) :=
  match s.plat.kek with
  | none => .error 4
  | some kek =>
    match Config.aesUnwrap kek (s.plat.mbuf.bytes at_ 40) with
    | none => .error 5
    | some k => .ok k

/-- A key slot is free: it holds no key (R401). -/
def State.slotFree (s : State) (p : Port) (rx slot : Bool) : Bool := (s.key p rx slot).isNone

/-- A key of a port direction is set, or erased. -/
def State.setKey (s : State) (p : Port) (rx slot : Bool) (k : Option LinkKey) : State :=
  { s with fab := { s.fab with keys := s.fab.keys.set (keyIndex p rx slot).val k (keyIndex p rx slot).isLt } }

/-- Changes the four sublinks of a port. -/
def State.mapPort (s : State) (p : Port) (f : Link → Link) : State :=
  (List.finRange 4).foldl (fun s d => s.setLink p d (f (s.link p d))) s

/-- A slot that all four sublinks of a port direction have switched away from at both ends becomes free: its key is gone. A
receiver has switched after its sender; a sender learns of its receiver (R401, R406; log entry 66). -/
def State.vacate (s : State) (p : Port) (rx : Bool) : State :=
  let ls := (List.finRange 4).map (s.link p)
  let left (x : Bool) : Bool := ls.all fun l => if rx then l.rxSlot != x && l.rxOld else l.slot != x && l.txOld && l.farOld
  match ([false, true] : List Bool).find? left with
  | none => s
  | some x => (s.setKey p rx x none).mapPort p fun l => if rx then { l with rxOld := false } else { l with txOld := false, farOld := false }

/-- Installs a link key: no sublink that uses the other slot has left this one, and those that wait for a key go on. The counters of
the port direction, 0 since the start, go on (R400, R401, R405). -/
def State.installKey (s : State) (p : Port) (rx slot : Bool) (k : LinkKey) : State :=
  let s : State := s.setKey p rx slot (some k)
  let s : State := { s with plat := { s.plat with linkk := true } }
  let s := s.mapPort p fun l =>
    if rx then (if slot != l.rxSlot then { l with rxOld := false } else l)
    else { (if slot != l.slot then { l with txOld := false, farOld := false } else l) with swpend := false }
  if rx then s else s.dueAll ((List.finRange 4).map (.flitSend p))

def execLinkkey : State → Out :=
  mailbox 48
    (fun s => decide (5 < fld (s.requestDword 0) 2 0) || fld (s.requestDword 0) 63 5 != 0 ||
      ((s.requestDword 0).getLsbD 3 && s.requestDword 1 != 0))
    State.noFabric fun s =>
    let p := portOf (fld (s.requestDword 0) 2 0)
    let rx := (s.requestDword 0).getLsbD 3
    let slot := (s.requestDword 0).getLsbD 4
    match s.unwrapped 16 with
    | .error e => s.answer e []
    | .ok k =>
      if !s.slotFree p rx slot then s.answer 6 []
      else (s.installKey p rx slot { key := k, swpt := s.requestDword 1 }).answer 0 []

def execCnkey : State → Out :=
  mailbox 48 (fun s => fld (s.requestDword 0) 63 8 != 0 || s.requestDword 1 != 0) (fun _ => false) fun s =>
    let slot := fld (s.requestDword 0) 7 0
    match s.unwrapped 16 with
    | .error e => s.answer e []
    | .ok k =>
      if (Table.find s.plat.cnKeys slot).isSome then s.answer 6 []
      else ({ s with plat := { s.plat with cnKeys := Table.put s.plat.cnKeys slot k, cnk := true } } : State).answer 0 []

/-- CNKEYCLR: with the last key gone, CNK is 0 (R353, R355). -/
def execCnkeyclr : State → Out :=
  mailbox 8 (fun s => fld (s.requestDword 0) 63 8 != 0) (fun _ => false) fun s =>
    let left := Table.del s.plat.cnKeys (fld (s.requestDword 0) 7 0)
    ({ s with plat := { s.plat with cnKeys := left, cnk := s.plat.cnk && (s.plat.cnKeys.isEmpty || !left.isEmpty) } } : State).answer 0 []

/-- The fibres under test that pass, of `n`, and the draws after them. -/
def testFibres : Nat → Nat → Nat → Nat × Nat
  | 0, fresh, got => (got, fresh)
  | n + 1, fresh, got => testFibres n (fresh + 1) (if Config.fibrePasses fresh then got + 1 else got)

/-- SPARERET: each passing fibre takes back its lane, and its spare returns to the pool (R355, R403). -/
def execSpareret : State → Out :=
  mailbox 8 (fun s => decide (5 < fld (s.requestDword 0) 2 0) || fld (s.requestDword 0) 63 6 != 0) State.noOptics fun s =>
    let p := portOf (fld (s.requestDword 0) 2 0)
    let rx := (s.requestDword 0).getLsbD 3
    let d : DieId := ⟨fld (s.requestDword 0) 5 4 % 4, by omega⟩
    let l := s.link p d
    let (got, fresh) := testFibres (if rx then l.rxSpares else l.txSpares) s.fresh 0
    let l := if rx then { l with rxSpares := l.rxSpares - got } else { l with txSpares := l.txSpares - got }
    let s := { s with fresh := fresh }.setLink p d l
    ({ s with fab := { s.fab with spares := s.fab.spares + got } } : State).answer 0 (leBytes 8 got)

/-- SHA-384 of an image slot: header and body, or nothing where its MAGIC does not match (R357). -/
def Image.hash (m : Image) : List Byte :=
  (List.range 48).map (Config.sha384 (if m.magic then m.bytes 0 (0x1000 + m.length) else []))

/-- QUOTE (R353, R355, R357). -/
def execQuote : State → Out :=
  mailbox 32 (fun _ => false) (fun s => !s.plat.attk || s.plat.alt.getLsbD 14 || decide (s.plat.stepNo.toNat < 14)) fun s =>
    let nonce := s.request
    let s := { s with plat := { s.plat with qseq := s.plat.qseq + 1 } }
    let body := leBytes 8 s.plat.qseq.toNat ++ nonce ++ s.plat.imgA.hash ++ s.plat.imgB.hash ++ leBytes 8 s.startrec.toNat ++
      leBytes 8 s.secstat.toNat ++ kemBytes
    s.answer 0 (body ++ (List.range 64).map (Config.ed25519 body) ++ (List.range 3309).map (Config.mldsa65 body))

/-- MAILBOX_COMPLETE: the reply, RLEN and RESULT, MSEQ, and BUSY clear (R354). -/
def execMailboxComplete (s : State) : Out :=
  match s.plat.reply with
  | none => .next s
  | some (result, reply) =>
    let p := s.plat
    .next { s with plat := { p with mbuf := p.mbuf.putBytes 0 reply, rlen := BitVec.ofNat 14 reply.length,
                                    result := BitVec.ofNat 8 result, mseq := p.mseq + 1, busy := false, reply := none } }

end Sys2Proof.Machine
end

