-- ==== Sys2Proof/Machine/Home.lean ====
section
/-!
DEFINITION. Accesses at their homes: ordering points, atomics, writes that cross dies, what the host reads and writes,
migration and the lease clocks (R266 to R283, R289 to R301).
-/

namespace Sys2Proof.Machine

/-! ### Atomics (R275, R277) -/

/-- A low-byte value as a signed number. -/
def signedBytes (n x : Nat) : Int := if 2 ^ (8 * n - 1) ≤ x then (x : Int) - 2 ^ (8 * n) else x

/-- The new value of an atomic, none where it writes nothing, and its flags (R275). -/
def amoNew (op : AmoOp) (n o v y : Nat) : Option Nat × Flags :=
  match op with
  | .add => (some ((o + v) % 256 ^ n), 0)
  | .and => (some (o &&& v), 0)
  | .or => (some (o ||| v), 0)
  | .xor => (some (o ^^^ v), 0)
  | .mins => (some (if signedBytes n v < signedBytes n o then v else o), 0)
  | .minu => (some (min o v), 0)
  | .maxs => (some (if signedBytes n o < signedBytes n v then v else o), 0)
  | .maxu => (some (max o v), 0)
  | .swap => (some v, 0)
  | .cas => (if o = v then some y else none, 0)
  | .fadd => let (x, f) := fAdd FFmt.fp32 o v; (some x, f)
  | .fmin => (some (fminmax FFmt.fp32 false o v), 0)
  | .fmax => (some (fminmax FFmt.fp32 true o v), 0)

/-- An atomic of a scope executes at a point nearer than its home (R268, R277). -/
def nearScope (c : CoreId) (pa : Nat) : Scope → Bool
  | .core | .cluster => true
  | .die => homeDie pa != dieOf c
  | .package => false

/-- The near scope an access executes at, if it is an atomic of one. -/
def nearOf (a : Access) (pa : Nat) : Option Scope :=
  match a.op with
  | .atomic _ _ sc _ _ _ => if nearScope a.who.core pa sc && !mgmtAddr pa then some sc else none
  | _ => none

/-- An atomic is done: its flags, and its old value on its way back (R276). -/
def State.atomicDone (s : State) (w : Who) (d : GReg) (ret : Bool) (o : Nat) (f : Flags) : State :=
  let s := s.raise w f
  if ret then s.whenReady (.gregFill w d (dw o)) else s

/-- Bytes of an access: where they lie at their home, and their virtual addresses. -/
def accessBytes (a : Access) (pa : Nat) : List (Nat × Nat) :=
  (List.range a.n).map fun i => (pa + i, (a.va + dw a.off).toNat + i)

/-- An atomic is applied to the value a point holds (R277). Of a word with two wrong bits none is: each returns 0 (R280,
R283). -/
def State.applyHeld (s : State) (a : Access) (x : HeldLoc) : State :=
  match a.op with
  | .atomic d op _ ret v y =>
    let sh := 8 * (a.pa % 8)
    let o := if x.bad then 0 else x.value.toNat / 2 ^ sh % 256 ^ a.n
    let (new, f) := if x.bad then (none, 0) else amoNew op a.n o (lowBytes a.n v).toNat (lowBytes a.n y).toNat
    let value := match new with
      | some z => dw (x.value.toNat - o * 2 ^ sh + z * 2 ^ sh)
      | none => x.value
    let x' : HeldLoc := { x with value := value, count := x.count + 1, stamp := s.time.toNat, last := a
                                 by_ := if x.by_.contains a.who then x.by_ else a.who :: x.by_ }
    let s := { s with held := x' :: s.held.filter fun h => !(h.scope == x.scope && h.point == x.point && h.loc == x.loc) }
    let back : Event := .atomicWriteback x.scope x.point x.loc
    let s := if 64 ≤ x'.count then s.due back else s.timer (s.time.toNat + 16) back
    let s := if x.bad then State.charge a.who s (x.loc, true, (a.va + dw a.off).toNat) else s
    s.atomicDone a.who d ret o f
  | _ => s

/-! ### Performing an access -/

/-- What the master does about a write of a word of the coherent window (R326, R328). -/
def State.noticed (s : State) (pa : Nat) : List Event :=
  if pa < windowBase ∨ mgmtBase ≤ pa then []
  else
    let off := pa - windowBase
    if off < 0x80000 then [.wqConsume (off / 8)]
    else if off < 0xA0000 then
      let n := (off - 0x80000) / 8
      let x := s.sound.dword (locOf pa)
      if x.toNat % 64 = 0 then [.doorbellRecord n x]
      else if x = 1 then [.restart n]
      else if x = 3 then [.reload n]
      else []
    else []

/-- A write performed at its home (R267). -/
def State.writeHome (s : State) (pa n v : Nat) : State :=
  let s := s.putNat pa n v
  s.dueAll (s.noticed pa)

/-- An access of the management registers: an aligned dword of a privileged instance through a page of kind normal. Other
accesses read 0 and write nothing (R345; log entry 18). -/
def State.accessMgmt (s : State) (a : Access) (pa : Nat) : State :=
  let ok := a.n == 8 && (s.instOn a.who.core).priv && a.kind == 0
  let off := pa - mgmtBase
  match a.op with
  | .load d => s.whenReady (.gregFill a.who d (if ok then s.mgmtRead off else 0))
  | .store x => if ok then s.dueAll (s.mgmtWrite off x false) else s
  | .laneLoad d l => let z := s.strand a.who; s.setStrand a.who { z with vload := Table.put z.vload (laneKey d l.val) 0 }
  | .atomic d _ _ ret _ _ => s.atomicDone a.who d ret 0 0

/-- An access is performed at its home at `pa`; a write leaves its vector there, and a response from another die brings one
(R267, R272, R276). A word with two wrong bits reads 0, and neither an atomic nor a write of a part of it is performed
(R280). -/
def State.perform (s : State) (a : Access) (pa : Nat) (v : Vector Word 4) : Out :=
  if !s.assigned pa then .fault .unassignedAddress
  else if mgmtAddr pa then .next (s.accessMgmt a pa)
  else
    let o := s.sound.nat pa a.n
    let bad := s.badWord pa
    let s := s.errors a.who (match a.op with | .store _ => true | _ => false) (accessBytes a pa)
    match a.op with
    | .load d => .next ((s.learn (dieOf a.who.core) pa).whenReady (.gregFill a.who d (dw o)))
    | .laneLoad d l =>
      let s := s.learn (dieOf a.who.core) pa
      let z := s.strand a.who
      .next (s.setStrand a.who { z with vload := Table.put z.vload (laneKey d l.val) (BitVec.ofNat 32 o) })
    | .store x => .next (if bad && decide (a.n < 8) then s else (s.writeHome pa a.n x.toNat).stamp pa v)
    | .atomic d op _ ret x y =>
      if bad then .next (s.atomicDone a.who d ret 0 0)
      else
      let (new, f) := amoNew op a.n o (lowBytes a.n x).toNat (lowBytes a.n y).toNat
      let s := s.learn (dieOf a.who.core) pa
      let s := match new with
        | some z => (s.writeHome pa a.n z).stamp pa v
        | none => s
      .next (s.atomicDone a.who d ret o f)

/-- An access that arrived after its lease ended is returned unperformed: its handle re-walks, and the access is sent
again, before any later one of its strand, or the translation is lost (R216, R289). -/
def State.returned (s : State) (a : Access) : State :=
  let d := dieOf a.who.core
  let at_ := a.va + dw a.off
  let again (s : State) (a : Access) : State := { s with timers := (s.time.toNat + 1, .homeAccess a) :: s.timers }
  if s.walkStalls d a.space a.va.toNat then again s a
  else
    let (s, r) := s.walk d a.space a.va.toNat
    match r.found with
    | some (l, c) =>
      if (a.wr && !l.wr) || l.kind == 3 || decide (l.base.toNat + pageBytes l.psz < at_.toNat + a.n) then s.fatal a.who 0x0022 at_ 0
      else
        let z := s.strand a.who
        let h := z.rh a.h
        let s := if h.state == .valid && h.base == a.va && z.spr.space == a.space
          then s.setStrand a.who (z.wh a.h (Handle.ofLease l c)) else s
        again (s.keepTrans d a.space r) { a with pa := l.at at_.toNat, expiry := l.expiry, kind := l.kind }
    | none => s.fatal a.who 0x0022 at_ 0

/-- Sends a write to a home of another die: its die counts it, and it carries the die's vector (R272). -/
def State.sendWrite (s : State) (a : Access) (home : DieId) (by_ : List Who) : State :=
  let d := dieOf a.who.core
  let s := s.countWrite d
  let h := s.die home
  (s.setDie home { h with xwrites := h.xwrites ++ [{ sender := d, vec := (s.die d).clock, a := a, by_ := by_ }] }).due
    (.crossdieWriteApply home)

/-- The home takes an access of a strand at a location. -/
def State.served (s : State) (a : Access) (pa : Nat) : State := s.take (accessPort a) pa

/-- Earlier accesses of its core and die that an access has yet to let pass: those of its core that wait, which may be before
it by a synchronisation edge (R274); and for a write, those of its die that cross, and the locations that points on its way
hold (R270, R272, R277). -/
def State.owes (s : State) (a : Access) : Bool :=
  let sent (x : XWrite) : Bool := x.sender == dieOf a.who.core && decide (x.a.at_ ≤ a.at_)
  let kept (x : HeldLoc) : Bool :=
    decide (x.since ≤ a.at_) && x.point == pointOf a.who.core x.scope && s.homeOf x.loc != s.homeOf (locOf a.pa)
  s.coreWaits a.who.core a.at_ || (a.wr && (s.dies.toList.any (fun d => d.xwrites.any sent) || s.held.any kept))

/-- An access has not yet reached its ordering point or its home: it waits behind an earlier one of its strand, or behind
others on its way (R268, R270). -/
def State.underway (s : State) (a : Access) : Bool :=
  s.memoryWaits a.who || s.owes a || s.crossingAt (dieOf a.who.core) (locOf a.pa)

/-- The home checks the lease of an access that has arrived (R289); the security controller has no clock of its own. -/
def State.late (s : State) (a : Access) (pa : Nat) : Bool :=
  !mgmtAddr pa && decide (a.expiry.toNat ≤ (s.dieTime (homeDie pa)).toNat)

/-! ### Ports in turn (R255, R267, R279) -/

/-- A held write may be applied: every earlier write that its vector names has been reported, or its die is fenced, and
no write of its die to this home is before it (R272, R273). -/
def State.mayApply (s : State) (d : DieId) (x : XWrite) : Bool :=
  (List.finRange 4).all fun f =>
    (s.die f).fenced ||
      countReached ((s.die d).known[f]) (if f = x.sender then x.vec[f] - 1 else x.vec[f])

/-- The first held write of a list that may be applied, with those before and after it: those of its die before it are
none. -/
def State.firstApply (s : State) (d : DieId) : List XWrite → List XWrite → Option (XWrite × List XWrite)
  | _, [] => none
  | pre, x :: r =>
    if !pre.any (fun y => y.sender == x.sender) && s.mayApply d x then some (x, pre ++ r)
    else State.firstApply s d (pre ++ [x]) r

/-- Bytes that a request reaches. -/
def packetReach (p : Packet) : Nat :=
  match p.kind with
  | .write => p.data.length
  | .atomic => 2 ^ p.size.toNat
  | _ => p.len

/-- A live translation in a port lane's destination cache. -/
def State.portCached (s : State) (d : DieId) (space : BitVec 16) (va : Nat) : Option Lease :=
  ((s.die d).portTrans.find? fun t => t.space == space && decide (t.lease.base.toNat ≤ va) &&
    decide (va < t.lease.base.toNat + pageBytes t.lease.psz) && decide ((s.dieTime d).toNat < t.lease.expiry.toNat)).map (·.lease)

/-- The locations that a request reaches through a translation, at their homes. -/
def State.requestLocs (s : State) (l : Lease) (p : Packet) : List Nat :=
  (locsOf ((addrs p.va (max 1 (packetReach p))).map fun a => s.homeOf (l.at a))).filter fun a => !mgmtAddr a

/-- A write that a die sent, and those that stay behind it, where nothing holds it from being performed now: it may be applied, and
its home is in no fault and takes it in time (R272, R292). -/
def State.landing (s : State) (d : DieId) : Option XWrite :=
  if (s.die d).inFault then none
  else
    match s.firstApply d [] (s.die d).xwrites with
    | some (x, _) => if s.homeHolds x.a.pa || s.late x.a (s.homeOf x.a.pa) then none else some x
    | none => none

/-- A held location's value is to be written back (R277). -/
def State.settled (s : State) (x : HeldLoc) : Bool := decide (64 ≤ x.count) || decide (x.stamp + 16 ≤ s.time.toNat)

/-- A write-back is held on its way by an outer point, by a write of its die that crosses, or by a home in a clock-skew fault (R268,
R277, R292). -/
def State.backWaits (s : State) (x : HeldLoc) : Bool :=
  let c := x.last.who.core
  let outer (y : HeldLoc) : Bool :=
    decide (scopeRank x.scope < scopeRank y.scope) && y.point == pointOf c y.scope && s.homeOf y.loc == s.homeOf x.loc
  s.held.any outer || s.crossingAt (dieOf c) x.loc || s.homeHolds (s.homeOf (locOf x.last.pa))

/-- An access reaches its home in this cycle: it is the first of its strand that is due, and nothing on its way holds it (R268). -/
def State.reaches (s : State) (b : Access) : Bool :=
  let pa := s.homeOf b.pa
  s.agenda.find? (Event.memory b.who) == some (.homeAccess b) && !s.agenda.any (Event.older b.who.core b.at_) && !s.underway b &&
    (s.heldOnWay b.who.core (locOf b.pa)).isNone && !s.homeHolds pa && !s.late b pa &&
    ((nearOf b pa).isSome || !b.wr || homeDie pa == dieOf b.who.core || mgmtAddr pa)

/-- The location of memory at which a step that is due reaches its home in this cycle, with the port it comes in by. A request of
another package counts where it reaches one location only (log entry 76). -/
def State.reachOf (s : State) : Event → Option (Nat × Nat)
  | .homeAccess b => if s.reaches b then some (locOf (s.homeOf b.pa), accessPort b) else none
  | .crossdieWriteApply d => (s.landing d).map fun x => (locOf (s.homeOf x.a.pa), accessPort x.a)
  | .atomicWriteback sc point loc =>
    match s.held.find? fun x => x.scope == sc && x.point == point && x.loc == loc with
    | some x =>
      let pa := s.homeOf (locOf x.last.pa)
      if s.settled x && !x.bad && !s.backWaits x && homeDie pa == dieOf x.last.who.core then some (locOf pa, accessPort x.last) else none
    | none => none
  | .hostAccess pa _ _ _ => if s.plat.safe || s.homeHolds pa || mgmtAddr pa then none else some (locOf (s.homeOf pa), hostPort)
  | .write d p | .read d p | .atomic d p =>
    match s.portCached d p.space p.va with
    | some l =>
      match s.requestLocs l p with
      | [a] => if s.dieWaits d [a] then none else some (a, fabricPort d)
      | _ => none
    | none => none
  | _ => none

/-- Another access that reaches the same location in this cycle comes in by a port whose turn is before (R267, R279). -/
def State.passedBy (s : State) (port pa : Nat) : Bool :=
  s.agenda.any fun e =>
    match s.reachOf e with
    | some (loc, q) => loc == locOf pa && decide (s.portTurn (sliceOf pa) q < s.portTurn (sliceOf pa) port)
    | none => false

/-- HOME_ACCESS: an access goes on to its ordering point or its home. It waits behind what is before it on its way, and behind a
location that a point holds (R267, R268, R270, R272, R274, R277); it waits at a home that is in a clock-skew fault, and comes
back from one that it reaches too late (R289, R292). A home slice takes one access of a location in a cycle, from its ports in
turn (R267). -/
def execHomeAccess (a : Access) (s : State) : Out :=
  let wait : Out := .next (s.timer (s.time.toNat + 1) (.homeAccess a))
  let pa := s.homeOf a.pa
  let home := homeDie pa
  let loc := locOf a.pa
  if s.underway a then wait
  else
    match s.heldOnWay a.who.core loc with
    | some x =>
      if nearOf a pa != some x.scope || decide (64 ≤ x.count) || s.homeHolds pa then wait
      else if s.late a pa then .next (s.returned a)
      else .next (s.applyHeld a x)
    | none =>
      if s.homeHolds pa then wait
      else if s.late a pa then .next (s.returned a)
      else if !s.assigned pa then .fault .unassignedAddress
      else if s.taken pa || s.passedBy (accessPort a) pa then wait
      else
        match nearOf a pa with
        | some sc =>
          let bad := s.badWord pa
          let t := (if bad then s else s.errors a.who false (accessBytes a pa)).learn (dieOf a.who.core) pa
          .next ((t.served a pa).applyHeld a
            { scope := sc, point := pointOf a.who.core sc, loc := loc, value := s.sound.dword (locOf pa), bad := bad, count := 0
              since := s.time.toNat, stamp := s.time.toNat, last := a, by_ := [] })
        | none =>
          if a.wr && home != dieOf a.who.core && !mgmtAddr pa then .next (s.sendWrite a home [a.who])
          else (s.served a pa).perform a pa (s.die (dieOf a.who.core)).clock

/-- The write-back of a held location: a store of the whole word under the translation of its last atomic (R277). -/
def HeldLoc.back (x : HeldLoc) : Access :=
  { x.last with off := x.last.off - x.last.pa % 8, pa := locOf x.last.pa, n := 8, wr := true, at_ := x.stamp, op := .store x.value }

/-- A write-back that came after its lease had ended: it goes under a fresh walk, or the translation is lost (R289). -/
def State.backAgain (s : State) (x : HeldLoc) : State :=
  let a := x.back
  let d := dieOf a.who.core
  let again (s : State) (x : HeldLoc) : State := s.timer (s.time.toNat + 1) (.atomicWriteback x.scope x.point x.loc)
  if s.walkStalls d a.space a.va.toNat then again s x
  else
    let rest := s.held.filter (· != x)
    match s.walk d a.space a.va.toNat with
    | (s, { found := some (l, _), .. }) =>
      if !l.wr || l.kind == 3 then ({ s with held := rest } : State).fatal a.who 0x0022 (a.va + dw a.off) 0
      else
        let y : HeldLoc := { x with last := { x.last with pa := l.at (a.va.toNat + x.last.off), expiry := l.expiry } }
        again { s with held := y :: rest } y
    | (s, _) => ({ s with held := rest } : State).fatal a.who 0x0022 (a.va + dw a.off) 0

/-- ATOMIC_WRITEBACK: a point that no atomic has reached for 16 cycles, or that has applied 64, writes the value back. The
write-back goes the way of any write: past the outer points, and to a home of another die with its die's vector (R268, R272,
R277, R289). -/
def execAtomicWriteback (sc : Scope) (point loc : Nat) (s : State) : Out :=
  match s.held.find? fun x => x.scope == sc && x.point == point && x.loc == loc with
  | none => .next s
  | some x =>
    let a := x.back
    let pa := s.homeOf a.pa
    let wait : Out := .next (s.timer (s.time.toNat + 1) (.atomicWriteback sc point loc))
    let gone : State := { s with held := s.held.filter (· != x) }
    if !s.settled x then .next s
    else if x.bad then .next gone
    else if s.backWaits x then wait
    else if s.late a pa then .next (s.backAgain x)
    else if homeDie pa != dieOf a.who.core then .next (gone.sendWrite a (homeDie pa) x.by_)
    else if s.taken pa || s.passedBy (accessPort a) pa then wait
    else (gone.served a pa).perform a pa (s.die (dieOf a.who.core)).clock

/-! ### Writes that cross dies (R272, R273) -/

/-- CROSSDIE_WRITE_APPLY: a home applies one held write that may be applied (R272). One whose line has been copied is
forwarded in its place: the die it then lands on holds it in a clock-skew fault and checks its lease (R289, R292, R298,
R302). -/
def execCrossdieWriteApply (d : DieId) (s : State) : Out :=
  let again : Out := .next (s.timer (s.time.toNat + 1) (.crossdieWriteApply d))
  if (s.die d).inFault then again
  else
    match s.firstApply d [] (s.die d).xwrites with
    | none => .next s
    | some (x, rest) =>
      let pa := s.homeOf x.a.pa
      if s.homeHolds pa || (!s.late x.a pa && (s.taken pa || s.passedBy (accessPort x.a) pa)) then again
      else
        let s := (s.setDie d { s.die d with xwrites := rest }).due (.crossdieWriteApply d)
        let s := if s.timers.any fun t => t.2 == .appliedCountReport x.sender then s
          else s.timer (s.time.toNat + 64) (.appliedCountReport x.sender)
        if s.late x.a pa then .next (s.returned x.a) else (s.served x.a pa).perform x.a pa x.vec

/-- The count up to which a die's writes to other dies have all been applied (R272). -/
def State.appliedCount (s : State) (f : DieId) : Word :=
  let out := s.dies.toList.flatMap fun d => (d.xwrites.filter fun x => x.sender == f).map fun x => x.vec[f]
  out.foldl (fun m c => if countReached m c then c - 1 else m) (s.die f).clock[f]

/-- APPLIED_COUNT_REPORT: a die's count reaches the others, and writes that waited for it are looked at (R272). -/
def execAppliedCountReport (f : DieId) (s : State) : Out :=
  let n := s.appliedCount f
  let s := { s with dies := Vector.ofFn fun i : Fin 4 => { s.dies[i] with known := s.dies[i].known.set f.val n f.isLt } }
  let s := if s.appliedCount f == (s.die f).clock[f] then s else s.timer (s.time.toNat + 64) (.appliedCountReport f)
  .next (s.dueAll (((List.finRange 4).filter fun d => !(s.die d).xwrites.isEmpty).map .crossdieWriteApply))

/-! ### The host (R281, R282, R344, R345) -/

/-- Bytes as the host reads them: bulk HBM as it was before device writes that no `FLUSH` has shown (R282). -/
def State.hostSees (s : State) (pa n : Nat) : Nat :=
  leNat ((addrs pa n).map fun a => (Table.find s.unseen a).getD (s.sound.get a))

/-- The host has written bytes: it sees what it wrote, and its write carries no vector (R272, R282). -/
def State.hostWrote (s : State) (pa n : Nat) : State :=
  { s with unseen := (addrs pa n).foldl Table.del s.unseen, stamps := Table.del s.stamps (locOf pa) }

/-- HOST_ACCESS: an aligned access of the host to the HBM stacks, the coherent window or the management registers; it
sees nothing else (R344), and in the safe state only the management registers are served (R348). What a read returns leaves
the machine. -/
def execHostAccess (pa n : Nat) (wr : Bool) (x : Dword) (s : State) : Out :=
  let fin := s.homeOf pa
  if n = 0 ∨ 8 < pa % 8 + n ∨ !s.assigned fin ∨ (0xC000000000 ≤ pa ∧ pa < windowBase) then .next s
  else if mgmtAddr pa then
    .next (if n != 8 then s else if wr then s.dueAll (s.mgmtWrite (pa - mgmtBase) x true)
      else { s with hostRead := s.mgmtRead (pa - mgmtBase) })
  else if s.plat.safe then .next s
  else if s.homeHolds pa || s.taken fin || s.passedBy hostPort fin then .next (s.timer (s.time.toNat + 1) (.hostAccess pa n wr x))
  else
    let s := (s.ownErrors wr (addrs fin n)).take hostPort fin
    .next (if wr then (s.writeHome fin n x.toNat).hostWrote fin n else { s with hostRead := dw (s.hostSees fin n) })

/-! ### Migration (R297 to R299) -/

/-- The ranges of two frames share a byte. -/
def framesMeet (a b n : Nat) : Bool := decide (a < b + n) && decide (b < a + n)

/-- An entry may start: its frames are aligned and apart, and no active entry of the die names its OLD (R297, R302). -/
def Die.mayArm (x : Die) (m : Migration) : Bool :=
  let n := pageBytes m.psz
  m.psz != 3 && m.old.toNat % n == 0 && m.new.toNat % n == 0 && !framesMeet m.old.toNat m.new.toNat n &&
    !x.migs.toList.any fun y => y.state != 0 && y.old == m.old

/-- MIGRATION_ARM: a write of 1 to an IDLE entry's STATE starts its copy (R297). -/
def execMigrationArm (d : DieId) (e : MigId) (x : Dword) (s : State) : Out :=
  let m := ((s.die d).mig e)
  if m.state != 0 then .next s
  else
    let m := m.write x 0
    if (s.die d).mayArm m then
      .next ((s.setDie d ((s.die d).setMig e { m with state := 1, prog := 0 })).timer (s.time.toNat + 1) (.migrationLineCopy d e))
    else .next (s.setDie d ((s.die d).setMig e m))

/-- MIGRATION_REMOVE: a write of 0 to a FORWARDING entry removes it (R297). -/
def execMigrationRemove (d : DieId) (e : MigId) (s : State) : Out :=
  let m := (s.die d).mig e
  .next (if m.state = 2 then s.setDie d ((s.die d).setMig e { m with state := 0 }) else s)

/-- A line of a migration with words of two wrong bits has been copied: BADL counts it, and a record is posted at the root for
each of them. The spec gives such a word no virtual address: ADDR is a free value (R280, R299; log entry 26). -/
def State.lineLost (s : State) (d : DieId) (e : MigId) (n : Nat) : State :=
  let m := (s.die d).mig e
  let s := if n = 0 then s else s.setDie d ((s.die d).setMig e { m with badl := m.badl + 1 })
  (List.range n).foldl (fun (s : State) _ =>
    ({ s with fresh := s.fresh + 1 } : State).regionFault 0 0x005C (Config.freeAddr s.fresh)) s

/-- A line has moved: the vector of the last write of each of its locations goes with it, and what the host still reads of it;
the copy is no write in coherence order (R272, R282, R299). -/
def State.carried (s : State) (unseen : Table Byte) (from_ to_ : Nat) : State :=
  let stamps := (List.range 32).foldl (fun t i =>
    match Table.find s.stamps (from_ + 8 * i) with
    | some v => Table.put t (to_ + 8 * i) v
    | none => Table.del t (to_ + 8 * i)) s.stamps
  let view := if unseen.isEmpty then [] else (List.range 256).foldl (fun t i =>
    match Table.find unseen (from_ + i) with
    | some b => Table.put t (to_ + i) b
    | none => Table.del t (to_ + i)) unseen
  { s with stamps := stamps, unseen := view }

/-- MIGRATION_LINE_COPY: the line at PROG is read at OLD and written at NEW; after the last line the entry forwards. A home in a
clock-skew fault holds both (R292, R298, R299). -/
def execMigrationLineCopy (d : DieId) (e : MigId) (s : State) : Out :=
  let m := (s.die d).mig e
  let faulty (a : Dword) : Bool := (s.die (homeDie (a.toNat + m.prog.toNat))).inFault
  if m.state != 1 then .next s
  else if faulty m.old || faulty m.new then .next (s.timer (s.time.toNat + 1) (.migrationLineCopy d e))
  else
    let from_ := m.old.toNat + m.prog.toNat
    let to_ := m.new.toNat + m.prog.toNat
    let old := addrs from_ 256
    let line := s.sound.bytes from_ 256
    let lost := ((s.meets false (old.map fun a => (a, 0))).filter fun x => x.2.1).length
    let s := s.ownErrors false old
    let s := (({ s with mem := s.mem.putBytes to_ line } : State).mended s.mem (addrs to_ 256)).carried s.unseen from_ to_
    let s := s.lineLost d e lost
    let m := (s.die d).mig e
    let p := m.prog + 256
    if p.toNat = pageBytes m.psz then .next (s.setDie d ((s.die d).setMig e { m with state := 2, prog := p }))
    else .next ((s.setDie d ((s.die d).setMig e { m with prog := p })).timer (s.time.toNat + 1) (.migrationLineCopy d e))

/-! ### Lease clocks (R290 to R292) -/

/-- A strand's handles expire, their states unchanged (R215). -/
def Strand.expireHandles (z : Strand) : Strand :=
  { z with h := Vector.ofFn fun i : Fin 16 => { z.h[i] with expiry := 0 } }

/-- A job's translations expire. -/
def Job.expire (j : Job) : Job := { j with leases := j.leases.map fun l => { l with expiry := 0 } }

/-- A core's handles and its jobs' translations expire (R292). -/
def Core.expire (c : Core) : Core :=
  { c with s := c.s.expireHandles, v := c.v.expireHandles, m := c.m.expireHandles,
           queues := Vector.ofFn fun i : Fin 8 => { c.queues[i] with jobs := c.queues[i].jobs.map Job.expire } }

/-- A die in a clock-skew fault (R292). -/
def State.skewFault (s : State) (d : DieId) : State :=
  let x := s.die d
  let s := { s with cores := Vector.ofFn fun i : Fin 512 => if dieOf i = d then (s.cores[i]).expire else s.cores[i] }
  (s.setDie d { x with trans := [], entries := [], portTrans := [], inFault := true, skewf := true, locked := false,
                       skewcnt := BitVec.ofNat 16 (holdAdd 0xFFFF x.skewcnt.toNat 1) }).timer
    (s.time.toNat + 100000) (.skewResyncTimeout d)

/-- LCU_MEASURE: a die measures its copy `ofs` ns after the master's; beyond the threshold it is in a clock-skew fault.
A copy corrected backward holds its value (R290 to R292). -/
def execLcuMeasure (d : DieId) (ofs : Int) (s : State) : Out :=
  let x := s.die d
  if x.fenced || x.lcuMaster || x.inFault then .next s
  else
    let limit : Nat := if s.time.toNat < s.dist.wide.toNat then 32 else 16
    let t := s.setDie d { x with offset := ofs, hold := s.dieTime d, locked := decide (ofs.natAbs ≤ 16) }
    if limit < ofs.natAbs then .next (t.skewFault d) else .next t

/-- SLEW: after a handover a copy that is more than 16 ns from the new master's is brought nearer by 1 ns in each µs; one that
runs ahead holds rather than stepping back (R290, R291). -/
def execSlew (d : DieId) (s : State) : Out :=
  let x := s.die d
  if x.fenced || x.lcuMaster || x.inFault || decide (x.offset.natAbs ≤ 16) then .next s
  else
    let ofs := if x.offset < 0 then x.offset + 1 else x.offset - 1
    .next ((s.setDie d { x with offset := ofs, hold := s.dieTime d, locked := decide (ofs.natAbs ≤ 16) }).timer
      (s.time.toNat + 1000) (.slew d))

/-- SKEW_RESYNC: the copy is locked to the master's again, and the walkers resume (R292). -/
def execSkewResync (d : DieId) (s : State) : Out :=
  let x := s.die d
  if x.inFault && !x.fenced then
    let s := { s with timers := s.timers.filter fun t => t.2 != Event.skewResyncTimeout d }
    .next ((s.setDie d { x with inFault := false, locked := true, offset := 0, hold := s.dieTime d }).due (.crossdieWriteApply d))
  else .next s

/-- SKEW_RESYNC_TIMEOUT: a resynchronisation that took 100 µs fences the die (R292). -/
def execSkewResyncTimeout (d : DieId) (s : State) : Out :=
  if (s.die d).inFault && !(s.die d).fenced then .next (s.due (.dieFence d)) else .next s

end Sys2Proof.Machine
end

