-- ==== Sys2Proof/Machine/Net.lean ====
section
/-!
DEFINITION. Routing and sending packets of the fabric (R383 to R386, R389, R399).
-/

namespace Sys2Proof.Machine

/-- A packet of a kind with nothing in it. -/
def emptyPacket (k : PKind) : Packet :=
  { kind := k, status := 0, src := 0, dst := 0, space := 0, va := 0, len := 0, size := 0, op := 0, tag := 0, aux := 0, data := [] }

/-- FABCFG.EN (R383). -/
def State.fabricOn (s : State) : Bool := s.fab.cfg.getLsbD 26
/-- FABCFG.RFREG (R383). -/
def State.rfreg (s : State) : Nat := (s.fab.cfg.extractLsb' 12 14).toNat

/-- Coordinate of a peer along a dimension (R383). -/
def coord (p : BitVec 12) (dim : Nat) : Nat := p.toNat / 16 ^ dim % 16
/-- Extent along a dimension (R383). -/
def State.extent (s : State) (dim : Nat) : Nat := s.fab.cfg.toNat / 16 ^ dim % 16 + 1

/-- A peer exists (R383). -/
def State.peerExists (s : State) (p : BitVec 12) : Bool := (List.range 3).all fun i => decide (coord p i < s.extent i)

/-- The port towards a peer: the first dimension that differs, the shorter way round, and + on a tie (R385). -/
def State.routeFrom (s : State) (dst : BitVec 12) : Nat → Nat → Option Port
  | 0, _ => none
  | fuel + 1, dim =>
    let n := s.extent dim
    let up := (coord dst dim + n - coord s.peer dim % n) % n
    if up = 0 then State.routeFrom s dst fuel (dim + 1)
    else some (portOf (2 * dim + (if 2 * up ≤ n then 0 else 1)))

def State.route (s : State) (dst : BitVec 12) : Option Port := s.routeFrom dst 3 0

/-- A sublink carries packets: it is up, and its port holds a key in its active slot; a retrain or a wait for a key only
delays them (R385, R401, R402). -/
def State.sublinkUp (s : State) (p : Port) (d : DieId) : Bool :=
  let l := s.link p d
  l.up && (s.key p false l.slot).isSome

/-- The sublink of a port that a packet of sublink `d` takes (R385). -/
def State.pickSublink (s : State) (p : Port) (d : DieId) : Option DieId :=
  if s.sublinkUp p d then some d else (List.finRange 4).find? fun i => s.sublinkUp p i

/-- The response to a request (R399). -/
def responseOf : PKind → Option PKind
  | .write | .signal => some .ack
  | .read => some .readresp
  | .atomic => some .atomresp
  | _ => none

/-- Codes of PKIND (R399). -/
def pkindCode : PKind → Nat
  | .write => 1 | .read => 2 | .readresp => 3 | .atomic => 4 | .atomresp => 5 | .signal => 6 | .ack => 7 | .steal => 8

def pkindOf : Nat → Option PKind
  | 1 => some .write | 2 => some .read | 3 => some .readresp | 4 => some .atomic | 5 => some .atomresp
  | 6 => some .signal | 7 => some .ack | 8 => some .steal | _ => none

/-- The 32 bytes of a packet header (R399). -/
def packetHeader (p : Packet) : List Byte :=
  dwordBytes [
    packFields [(pkindCode p.kind, 0), (p.status % 16, 4), (p.src.toNat, 8), (p.dst.toNat, 20), (p.space.toNat, 32)],
    dw (p.va % 2 ^ 45),
    packFields [(p.len % 4096, 0), (p.size.toNat, 12), (p.op.toNat, 14), (p.tag.toNat, 32)],
    p.aux]

/-- Bytes in pieces of a size. -/
def pieces (size : Nat) : Nat → List Byte → List (List Byte)
  | 0, _ => []
  | n + 1, xs => xs.take size :: pieces size n (xs.drop size)

/-- A packet's plaintexts, each padded with zeros to 232 bytes (R399). -/
def packetPlain (p : Packet) : List (List Byte) :=
  let bytes := packetHeader p ++ p.data
  (pieces 232 (max 1 ((bytes.length + 231) / 232)) bytes).map fun x => x ++ List.replicate (232 - x.length) 0

/-- First and last marks of a packet's flits (R398). -/
def markFlits (xs : List (List Byte)) : List (Bool × Bool × List Byte) :=
  (List.range xs.length).map fun i => (i == 0, i + 1 == xs.length, (xs[i]?).getD [])

/-- The step by which a packet that is addressed to this package, and arrived on sublink `d`, is served. STEAL packets
are taken at their port (`State.stealArrives`). -/
def arrivalOf (p : Packet) (d : DieId) : List Event :=
  match p.kind with
  | .write => [.write d p]
  | .read => [.read d p]
  | .atomic => [.atomic d p]
  | .signal => [.signal d p]
  | .readresp => [.readresp p]
  | .atomresp => [.atomresp p]
  | .ack => [.ack p]
  | .steal => []

/-- Puts a packet on a sublink of a port; none where no sublink of the port is up (R385). -/
def State.putOn (s : State) (port : Port) (d : DieId) (p : Packet) : Option State :=
  match s.pickSublink port d with
  | none => none
  | some e =>
    let l := s.link port e
    some ((s.setLink port e { l with outq := l.outq ++ markFlits (packetPlain p) }).due (.flitSend port e))

/-- Sends a packet on sublink `d`; none where no port leads to its peer (R385). -/
def State.sendOut (s : State) (d : DieId) (p : Packet) : Option State :=
  if !s.peerExists p.dst then none
  else if p.dst = s.peer then some (s.dueAll (arrivalOf p d))
  else
    match s.route p.dst with
    | none => none
    | some port => s.putOn port d p

/-- Sends a packet on sublink `d` while the fabric is enabled; none where it cannot be sent (R383, R385). -/
def State.send (s : State) (d : DieId) (p : Packet) : Option State := if s.fabricOn then s.sendOut d p else none

/-- A response to a request, on the sublink it came by, also where the fabric is not enabled (R383, R385, R389). -/
def State.respond (s : State) (d : DieId) (p : Packet) (status : Nat) (data : List Byte) (aux : Dword) : State :=
  match responseOf p.kind with
  | none => s
  | some k =>
    let r := { p with kind := k, status := status, src := p.dst, dst := p.src, len := data.length, data := data, aux := aux }
    if p.src = s.peer then s.dueAll (arrivalOf r d) else (s.sendOut d r).getD s

/-- Sends a packet, or answers it UNREACHABLE (R385). -/
def State.emit (s : State) (d : DieId) (p : Packet) : State :=
  match s.send d p with
  | some t => t
  | none => s.respond d p 3 [] 0

/-- The sublink of a request: VA[12:11] (R386). -/
def subOf (va : Nat) : DieId := ⟨va / 2048 % 4, by omega⟩

/-- The peer behind a port (R383, R385). -/
def State.neighbour (s : State) (p : Port) : BitVec 12 :=
  let dim := p.val / 2
  let n := s.extent dim
  let x := coord s.peer dim % n
  let y := if p.val % 2 = 0 then (x + 1) % n else (x + n - 1) % n
  BitVec.ofNat 12 (s.peer.toNat - coord s.peer dim * 16 ^ dim + y * 16 ^ dim)

/-! ### STEAL packets (R340, R341, R399) -/

/-- The items of a stolen instance as consecutive dwords, in the order of R341: node record, first index, count, age, SPACE, its
replay's origin (the replay, the node and the instance at the donor) and the argument bytes (log entry 64). -/
def stolenDwords (x : Stolen) : List Dword :=
  (List.range 32).map (bytesDword x.node) ++
    [x.first.setWidth 64, x.count.setWidth 64, dw x.age, x.space.setWidth 64, dw x.replay, dw x.index, dw x.inst] ++
    (List.range ((fld (bytesDword x.node 7) 12 0 + 7) / 8)).map (bytesDword x.args)

/-- The stolen instances that dwords list. -/
def stolenOf : Nat → List Byte → List Stolen
  | 0, _ => []
  | n + 1, bs =>
    if bs.length < 312 then []
    else
      let d (i : Nat) : Dword := bytesDword bs i
      let asize := fld (d 7) 12 0
      { node := bs.take 256, first := (d 32).setWidth 32, count := (d 33).setWidth 32, age := (d 34).toNat, space := (d 35).setWidth 16
        replay := (d 36).toNat, index := (d 37).toNat, inst := (d 38).toNat, args := (bs.drop 312).take asize } ::
      stolenOf n (bs.drop (312 + (asize + 7) / 8 * 8))

/-- A STEAL message's code in AUX, and its dwords. A refusal grants nothing; a load figure goes in idle flits (log entry 64). -/
def stealWire : StealMsg → Nat × List Dword
  | .figure n => (0, [dw n])
  | .request n => (1, [dw n])
  | .refusal => (2, [])
  | .grant xs => (2, xs.flatMap stolenDwords)
  | .report n t => (3, [dw n, dw (bit01 t)])

/-- The message that a code and bytes spell. -/
def stealOf (code : Nat) (bs : List Byte) : Option StealMsg :=
  match code with
  | 1 => some (.request (bytesDword bs 0).toNat)
  | 2 => some (if bs.isEmpty then .refusal else .grant (stolenOf (bs.length / 312) bs))
  | 3 => some (.report (bytesDword bs 0).toNat ((bytesDword bs 1).getLsbD 0))
  | _ => none

/-- The packets of a STEAL message: 2048 bytes at most in each, with the number of bytes still to come in TAG. Their header's SPACE is 0: the
master that sends them has none (R399; log entry 64). -/
def State.stealPackets (s : State) (p : Port) (x : StealMsg) : List Packet :=
  let bs := dwordBytes (stealWire x).2
  (pieces 2048 (max 1 ((bs.length + 2047) / 2048)) bs).zipIdx.map fun y =>
    { emptyPacket .steal with src := s.peer, dst := s.neighbour p, len := y.1.length, data := y.1, aux := dw (stealWire x).1
                              tag := BitVec.ofNat 32 (bs.length - 2048 * (y.2 + 1)) }

/-- Sends a STEAL message by a port, all of it on one sublink; none where the fabric is not enabled or no sublink of the port is up
(R340, R385). -/
def State.sendSteal (s : State) (p : Port) (x : StealMsg) : Option State :=
  if !s.fabricOn then none else (s.stealPackets p x).foldlM (fun (s : State) k => s.putOn p 0 k) s

/-- A STEAL packet arrives at a port: with the last of its message the master learns of it (R340, R341, R383). -/
def State.stealArrives (s : State) (p : Port) (k : Packet) : State :=
  let bs := s.fab.stealIn[p] ++ k.data
  let kept (bs : List Byte) : State := { s with fab := { s.fab with stealIn := s.fab.stealIn.set p.val bs p.isLt } }
  if !s.fabricOn then s
  else if k.tag != 0 then kept bs
  else
    match stealOf k.aux.toNat bs with
    | some x => (kept []).due (.steal p x)
    | none => kept []

/-- Issues a remote operation: a tag, 3 ms to be answered in, and its packet (R386, R389). -/
def State.remoteOp (s : State) (w : Who) (u : RemoteFor) (p : Packet) : State :=
  let t := s.fab.nextTag
  let entry : Remote := { tag := t, who := w, use := u }
  let p : Packet := { p with tag := t, src := s.peer }
  let s : State := { s with fab := { s.fab with nextTag := t + 1, remotes := s.fab.remotes ++ [entry] } }
  (s.timer (s.time.toNat + 3000000) (.remoteTimeout t)).emit (subOf p.va) p

end Sys2Proof.Machine
end

