-- ==== Sys2Proof/Machine/Vec.lean ====
section
/-!
DEFINITION. The vector unit: lanes, activity, element arithmetic, compares, movement, conversions, estimates, ternary,
reductions, scans and masks (R188 to R202, R207 to R210).
-/

namespace Sys2Proof

/-- Element width in bits (R50). -/
def VType.width : VType → Nat
  | .i32 | .ui32 | .f32 => 32
  | .bf16 | .f16 | .i16 => 16
  | .i8 | .ui8 => 8

/-- The floating format of a type, if it is one (R50). -/
def VType.float : VType → Option Machine.FFmt
  | .f32 => some .fp32
  | .bf16 => some .bf16
  | .f16 => some .fp16
  | _ => none

/-- The latency of `VADD` and its like: `i` for integers, 4 for floats (R191). -/
def VType.latency (t : VType) (i : Nat) : Nat := if t.float.isSome then 4 else i

/-- The type's elements are signed integers (R50). -/
def VType.signed : VType → Bool
  | .i32 | .i16 | .i8 => true
  | _ => false

/-- The integer value of an element pattern (R50). -/
def VType.int (t : VType) (x : Nat) : Int :=
  if t.signed && decide (2 ^ (t.width - 1) ≤ x) then (x : Int) - 2 ^ t.width else x

/-- The range of an integer type. -/
def VType.lo (t : VType) : Int := if t.signed then -2 ^ (t.width - 1) else 0
def VType.hi (t : VType) : Int := if t.signed then 2 ^ (t.width - 1) - 1 else 2 ^ t.width - 1

end Sys2Proof

namespace Sys2Proof.Machine

/-- An instruction that the decoder accepts runs; an ill-formed term is the illegal instruction of R52. -/
def legal (i : Instr) (k : State → Out) (s : State) : Out := if i.wf then k s else .next (s.trap 0x0001 0 0)

/-- A V-format `g` field names `g0` to `g31` (R190). -/
def g5 (x : BitVec 5) : GReg := 0#1 ++ x

/-- The pattern of an integer at a width. -/
def wrapInt (w : Nat) (x : Int) : Nat := (x % 2 ^ w).toNat

/-- An integer clamped to a type's range (R193, R197). -/
def clampInt (t : VType) (x : Int) : Nat × Flags :=
  if x < t.lo then (wrapInt t.width t.lo, fSAT) else if t.hi < x then (wrapInt t.width t.hi, fSAT) else (wrapInt t.width x, 0)

/-- Element `i` of width `w` of a lane (R188). -/
def laneElem (w : Nat) (x : Word) (i : Nat) : Nat := x.toNat / 2 ^ (w * i) % 2 ^ w

/-- A lane from its elements, slot 0 lowest (R188), and the flags they raised. -/
def packLane (w : Nat) : List (Nat × Flags) → Word × Flags
  | [] => (0, 0)
  | (x, f) :: r =>
    let (y, g) := packLane w r
    ((y <<< w) ||| BitVec.ofNat 32 (x % 2 ^ w), f ||| g)

/-- An operation on every element of a lane. -/
def laneMap (w : Nat) (f : Nat → Nat × Flags) : Word × Flags := packLane w ((List.range (32 / w)).map f)

/-- Lane `i` of an instruction is active (R189). -/
def Strand.active (z : Strand) (k : MReg) (i : Nat) : Bool := decide (i < z.spr.vc.toNat) && (z.rm k).getLsbD i

/-- Flags of the active lanes. -/
def laneFlags (act : Fin 64 → Bool) (f : Fin 64 → Word × Flags) : Flags :=
  (List.finRange 64).foldl (fun x i => if act i then x ||| (f i).2 else x) 0

/-- The active lanes of a vector register take their results, the others keep theirs (R189). -/
def Strand.lanes (z : Strand) (k : MReg) (d : VReg) (f : Fin 64 → Word × Flags) : Strand :=
  let old := z.rv d
  z.wv d (Vector.ofFn fun i => if z.active k i.val then (f i).1 else old[i])

/-- The active lanes take their results, whose flags come with them `n` cycles after the issue (R189, R192). -/
def State.lanes (s : State) (n : Nat) (k : MReg) (d : VReg) (f : Fin 64 → Word × Flags) : State :=
  (s.setMe (s.me.lanes k d f)).arrives none (some d) n (laneFlags (fun i => s.me.active k i.val) f) 0

/-- A put-off step ends a vector load of a strand into one of these registers. -/
def Event.fillsV (w : Who) (rs : List VReg) : Event → Bool
  | .vldgLanesArrive x d _ => x == w && rs.contains d
  | _ => false

/-- A vector load into one of these registers is still on its way, or a result with flags (R23, R192, R205). -/
def State.vPending (s : State) (rs : List VReg) : Bool :=
  s.agenda.any (Event.fillsV s.turn rs) || (s.timers.any fun e => Event.fillsV s.turn rs e.2) || s.resultDue [] rs

/-- Issues a V-class instruction on V: `g` sources block when empty, and a register that has yet to take an earlier result is
waited for (R17, R190, R192). -/
def vIssue (src dst : List GReg) (rs : List VReg) (body : State → Body) : State → Out :=
  issue { len := 2, on := [.v], src := src.map (fun r => (r, false)), dst := dst
          hold := fun s => interlockWhile (s.vPending rs) } body

/-- A V instruction that writes the active lanes of `v[d]`; its result has a latency of `n` (R191). -/
def vLanes (n : Nat) (d : VReg) (rs : List VReg) (src : List GReg) (k : MReg) (f : Strand → Fin 64 → Word × Flags) : State → Out :=
  vIssue src [] (d :: rs) fun s => .next (s.lanes n k d (f s.me))

/-- Element-wise operation of two sources. -/
def vElem2 (n : Nat) (d a b : VReg) (k : MReg) (w : Nat) (f : Nat → Nat → Nat × Flags) : State → Out :=
  vLanes n d [a, b] [] k fun z i =>
    let x := (z.rv a)[i]
    let y := (z.rv b)[i]
    laneMap w fun j => f (laneElem w x j) (laneElem w y j)

/-- Element-wise operation of one source. -/
def vElem1 (n : Nat) (d a : VReg) (k : MReg) (w : Nat) (f : Nat → Nat × Flags) : State → Out :=
  vLanes n d [a] [] k fun z i =>
    let x := (z.rv a)[i]
    laneMap w fun j => f (laneElem w x j)

/-! ### Element arithmetic (R193, R194) -/

/-- VADD, VSUB, VMUL by type: wrapped integers, or floats rounded once. -/
def arith (t : VType) (fi : Int → Int → Int) (ff : FFmt → Nat → Nat → Nat × Flags) (x y : Nat) : Nat × Flags :=
  match t.float with
  | some f => ff f x y
  | none => (wrapInt t.width (fi x y), 0)

/-- VMIN, VMAX by type. -/
def minmaxElem (t : VType) (big : Bool) (x y : Nat) : Nat × Flags :=
  match t.float with
  | some f => (fminmax f big x y, 0)
  | none => (if big then (if t.int x < t.int y then y else x) else (if t.int y < t.int x then y else x), 0)

def execVadd (d a b : VReg) (k : MReg) (ty : VType) : State → Out := vElem2 (ty.latency 1) d a b k ty.width (arith ty (· + ·) fAdd)
def execVsub (d a b : VReg) (k : MReg) (ty : VType) : State → Out := vElem2 (ty.latency 1) d a b k ty.width (arith ty (· - ·) fSub)
def execVmul (d a b : VReg) (k : MReg) (ty : VType) : State → Out := vElem2 (ty.latency 3) d a b k ty.width (arith ty (· * ·) fMul)
/-- VFMA reads its destination as the addend (R193). -/
def execVfma (d a b : VReg) (k : MReg) (ty : VType) : State → Out :=
  vLanes (ty.latency 3) d [a, b] [] k fun z i =>
    let o := (z.rv d)[i]
    let x := (z.rv a)[i]
    let y := (z.rv b)[i]
    laneMap ty.width fun j =>
      let e (v : Word) := laneElem ty.width v j
      match ty.float with
      | some f => fFma f (e o) (e x) (e y)
      | none => (wrapInt ty.width ((e o : Int) + (e x : Int) * (e y : Int)), 0)
def execVmin (d a b : VReg) (k : MReg) (ty : VType) : State → Out := vElem2 (ty.latency 1) d a b k ty.width (minmaxElem ty false)
def execVmax (d a b : VReg) (k : MReg) (ty : VType) : State → Out := vElem2 (ty.latency 1) d a b k ty.width (minmaxElem ty true)
def execVsadd (d a b : VReg) (k : MReg) (ty : VType) : State → Out :=
  legal (.vsadd d a b k ty) (vElem2 1 d a b k ty.width fun x y => clampInt ty (ty.int x + ty.int y))
def execVssub (d a b : VReg) (k : MReg) (ty : VType) : State → Out :=
  legal (.vssub d a b k ty) (vElem2 1 d a b k ty.width fun x y => clampInt ty (ty.int x - ty.int y))

/-- A lane operation on 32-bit patterns. -/
def vBits (d a b : VReg) (k : MReg) (f : Word → Word → Word) : State → Out :=
  vLanes 1 d [a, b] [] k fun z i => (f (z.rv a)[i] (z.rv b)[i], 0)

def execVand (d a b : VReg) (k : MReg) : State → Out := vBits d a b k (· &&& ·)
def execVor (d a b : VReg) (k : MReg) : State → Out := vBits d a b k (· ||| ·)
def execVxor (d a b : VReg) (k : MReg) : State → Out := vBits d a b k (· ^^^ ·)
def execVshl (d a b : VReg) (k : MReg) (ty : VType) : State → Out :=
  legal (.vshl d a b k ty) (vElem2 1 d a b k ty.width fun x y => (x * 2 ^ (y % ty.width) % 2 ^ ty.width, 0))
def execVshr (d a b : VReg) (k : MReg) (ty : VType) : State → Out :=
  legal (.vshr d a b k ty) (vElem2 1 d a b k ty.width fun x y => (x / 2 ^ (y % ty.width), 0))
def execVsra (d a b : VReg) (k : MReg) (ty : VType) : State → Out :=
  legal (.vsra d a b k ty) (vElem2 1 d a b k ty.width fun x y => (wrapInt ty.width (ty.int x / 2 ^ (y % ty.width)), 0))

/-- VABS and VNEG of one element: a NaN gives the canonical NaN, and no flag is raised (R194). -/
def signElem (t : VType) (fi : Int → Int) (ff : Nat → Nat) (x : Nat) : Nat × Flags :=
  match t.float with
  | some f => (if f.decode x = .nan then packNan f else ff x, 0)
  | none => (wrapInt t.width (fi (t.int x)), 0)

def execVabs (d a : VReg) (k : MReg) (ty : VType) : State → Out :=
  legal (.vabs d a k ty) (vElem1 1 d a k ty.width (signElem ty (fun x => x.natAbs) fun x => x % 2 ^ (ty.width - 1)))
def execVneg (d a : VReg) (k : MReg) (ty : VType) : State → Out :=
  legal (.vneg d a k ty) (vElem1 1 d a k ty.width (signElem ty (fun x => -x) fun x => (x + 2 ^ (ty.width - 1)) % 2 ^ ty.width))

/-! ### Compares and movement (R195, R196) -/

/-- A mask of the lanes that a condition holds for. -/
def maskOf (f : Nat → Bool) : Dword := (List.range 64).foldl (fun m i => setBit m i (f i)) 0

/-- A compare writes the whole of a mask (R195). -/
def vCompare (i : Instr) (d : MReg) (a b : VReg) (k : MReg) (ty : VType) (fi : Int → Int → Bool) (ff : Ordering → Bool) :
    State → Out :=
  legal i (vIssue [] [] [a, b] fun s =>
    let z := s.me
    .next (s.setMe (z.wm d (maskOf fun i =>
      if h : i < 64 then
        let x := ((z.rv a)[i]'h).toNat
        let y := ((z.rv b)[i]'h).toNat
        z.active k i && (match ty.float with
          | some f => ((f.decode x).cmp (f.decode y)).any ff
          | none => fi (ty.int x) (ty.int y))
      else false))))

def execVcmpeq (d : MReg) (a b : VReg) (k : MReg) (ty : VType) : State → Out :=
  vCompare (.vcmpeq d a b k ty) d a b k ty (· == ·) (· == .eq)
def execVcmplt (d : MReg) (a b : VReg) (k : MReg) (ty : VType) : State → Out :=
  vCompare (.vcmplt d a b k ty) d a b k ty (fun x y => decide (x < y)) (· == .lt)
def execVcmple (d : MReg) (a b : VReg) (k : MReg) (ty : VType) : State → Out :=
  vCompare (.vcmple d a b k ty) d a b k ty (fun x y => decide (x ≤ y)) (· != .gt)

/-- VSEL: the mask selects and does not gate (R196). -/
def execVsel (d a b : VReg) (k : MReg) : State → Out :=
  vIssue [] [] [d, a, b] fun s =>
    let z := s.me
    .next (s.setMe (z.wv d (Vector.ofFn fun i =>
      if i.val < z.spr.vc.toNat then (if (z.rm k).getLsbD i.val then (z.rv a)[i] else (z.rv b)[i]) else (z.rv d)[i])))

def execVmov (d a : VReg) (k : MReg) : State → Out := vLanes 1 d [a] [] k fun z i => ((z.rv a)[i], 0)
def execVbcast (d : VReg) (b : BitVec 5) (k : MReg) (ty : VType) : State → Out :=
  vLanes 1 d [] [g5 b] k fun z _ => laneMap ty.width fun _ => ((z.rg (g5 b)).toNat % 2 ^ ty.width, 0)

/-- VEXT (R196). -/
def execVext (d : BitVec 5) (a : VReg) (b : BitVec 5) (k : MReg) (ty : VType) : State → Out :=
  legal (.vext d a b k ty) (vIssue [g5 b] [g5 d] [a] fun s =>
    let z := s.me
    let l : Fin 64 := ⟨(z.rg (g5 b)).toNat % 64, Nat.mod_lt _ (by decide)⟩
    let x := (z.rv a)[l]
    .next (s.setMe (z.wg (g5 d) (if z.active k l.val then (if ty.signed then x.signExtend 64 else x.setWidth 64) else 0))))

/-- VPERM (R196). -/
def execVperm (d a b : VReg) (k : MReg) : State → Out :=
  vLanes 2 d [a, b] [] k fun z i =>
    let l : Fin 64 := ⟨((z.rv b)[i]).toNat % 64, Nat.mod_lt _ (by decide)⟩
    ((z.rv a)[l], 0)

/-! ### Conversions and estimates (R197, R198) -/

/-- One element converted (R73, R74, R197). -/
def cvtElem (src ty : VType) (mode : RMode) (x : Nat) : Nat × Flags :=
  match src.float, ty.float with
  | some f, some g => g.encode mode (f.decode x)
  | some f, none =>
    let (v, fl) := floatToInt mode ty.lo ty.hi (f.decode x)
    (wrapInt ty.width v, fl)
  | none, some g => intToFloat g mode (src.int x)
  | none, none => clampInt ty (src.int x)

/-- Element `e` of a vector register under a type (R188). -/
def vecElem (v : Vector Word 64) (t : VType) (e : Nat) : Nat :=
  let l : Fin 64 := ⟨e / t.perLane % 64, Nat.mod_lt _ (by decide)⟩
  laneElem t.width v[l] (e % t.perLane)

/-- VCVT: equal widths, widening of one part, or narrowing into the lowest lanes (R197). -/
def execVcvt (d a : VReg) (rm : BitVec 2) (src : VType) (k : MReg) (ty : VType) : State → Out :=
  legal (.vcvt d a rm src k ty) (vLanes 2 d [a] [] k fun z i =>
    let ns := src.perLane
    let nd := ty.perLane
    let mode := if nd < ns then .rne else RMode.ofCode rm.toNat
    laneMap ty.width fun j =>
      let e := i.val * nd + j
      if nd < ns then cvtElem src ty mode (vecElem (z.rv a) src (64 * nd * rm.toNat + e))
      else if e < 64 * ns then cvtElem src ty mode (vecElem (z.rv a) src e)
      else (laneElem ty.width (z.rv d)[i] j, 0))

/-- An estimate of F32 lanes. -/
def vEstimate (d a : VReg) (k : MReg) (f : Nat → Nat × Flags) : State → Out := vElem1 8 d a k 32 f

def execVrcp (d a : VReg) (k : MReg) : State → Out := vEstimate d a k estRcp
def execVrsq (d a : VReg) (k : MReg) : State → Out := vEstimate d a k estRsq
def execVexp2 (d a : VReg) (k : MReg) : State → Out := vEstimate d a k estExp2

/-! ### Table lookup, ternary and dot products (R199 to R202) -/

/-- VLUT (R199). -/
def execVlut (d a : VReg) (b : BitVec 5) (k : MReg) (ty : VType) : State → Out :=
  legal (.vlut d a b k ty) (vIssue [g5 b] [] [d, a] fun s =>
    let z := s.me
    let x := fld (z.rg (g5 b)) 31 0
    let n := if ty == .ui32 then 1024 else 256
    if x % n != 0 || decide (Config.spadBytes < x + n) then spadError
    else if s.here.boarded false x n then .wait .rangeBoard s
    else
      let c := s.here
      .next (s.setMe (z.lanes k d fun i =>
        let v := (z.rv a)[i]
        if ty == .ui32 then (BitVec.ofNat 32 (c.spadNat (x + 4 * (v.toNat % 256)) 4), 0)
        else laneMap 8 fun j => (c.spadNat (x + laneElem 8 v j) 1, 0))))

/-- The weight of trit `i` of a packed byte as an I8 pattern (R72, R200). -/
def tritWeight (b i : Nat) : Nat := wrapInt 8 ((b / 3 ^ i % 3 : Nat) - 1 : Int)

/-- Byte `n` of a vector register (R188). -/
def vecByte (v : Vector Word 64) (n : Nat) : Nat := vecElem v .ui8 n

/-- VUNPK3 (R200): byte `q` of the part fills elements `5q` to `5q+4`; a byte none of whose elements lies in an active
lane is not examined. -/
def execVunpk3 (d a : VReg) (sub : Bool) (h : BitVec 3) (k : MReg) : State → Out :=
  legal (.vunpk3 d a sub h k) (vIssue [] [] [d, a] fun s =>
    let z := s.me
    let src (q : Nat) := vecByte (z.rv a) (51 * h.toNat + q)
    let bad := (List.range 51).filter fun q =>
      (z.active k (5 * q / 4) || z.active k ((5 * q + 4) / 4)) && decide (242 < src q)
    if !bad.isEmpty && !sub then .trap 0x0002 0 0
    else
      let z' := z.lanes k d fun i => laneMap 8 fun j =>
        let e := 4 * i.val + j
        if e = 255 then (0, 0)
        else if 242 < src (e / 5) then (0, 0) else (tritWeight (src (e / 5)) (e % 5), 0)
      .next ((s.setMe z').arrives none (some d) 2 (flagIf (!bad.isEmpty) fTCODE) bad.length))

/-- A sum over the four byte slots of a lane. -/
def sum4 (f : Nat → Int) : Int := f 0 + f 1 + f 2 + f 3

/-- The 32-bit accumulator of a lane plus a sum, wrapped. -/
def accLane (o : Word) (x : Int) : Word × Flags := (BitVec.ofInt 32 (o.toInt + x), 0)

/-- VTACC: only the sign of a weight counts (R201). -/
def execVtacc (d a b : VReg) (k : MReg) (ty : VType) : State → Out :=
  legal (.vtacc d a b k ty) (vLanes 2 d [a, b] [] k fun z i =>
    accLane (z.rv d)[i] (sum4 fun j =>
      let w := VType.i8.int (laneElem 8 (z.rv a)[i] j)
      let x := ty.int (laneElem 8 (z.rv b)[i] j)
      if 0 < w then x else if w < 0 then -x else 0))

/-- VDOT4 (R202). -/
def execVdot4 (d a b : VReg) (k : MReg) (ty : VType) : State → Out :=
  legal (.vdot4 d a b k ty) (vLanes 3 d [a, b] [] k fun z i =>
    accLane (z.rv d)[i] (sum4 fun j => ty.int (laneElem 8 (z.rv a)[i] j) * ty.int (laneElem 8 (z.rv b)[i] j)))

/-! ### Reductions and scans (R207, R208) -/

/-- One level of the tree: neighbours combined, a lone child passed through (R207). -/
def pairUp {α : Type} (comb : α → α → α) : List (Option α) → List (Option α)
  | x :: y :: r =>
    (match x, y with
      | some u, some v => some (comb u v)
      | some u, none => some u
      | none, v => v) :: pairUp comb r
  | r => r

/-- The root of the fixed binary tree over 64 lanes (R207). -/
def treeRoot {α : Type} (comb : α → α → α) (xs : List (Option α)) : Option α :=
  ((List.range 6).foldl (fun l _ => pairUp comb l) xs).headD none

/-- The active lanes of a register as leaves of the tree. -/
def leaves (z : Strand) (k : MReg) (a : VReg) : List (Option Nat) :=
  (List.finRange 64).map fun i => if z.active k i.val then some ((z.rv a)[i]).toNat else none

/-- FP32 addition that gathers flags. -/
def addFlags (x y : Nat × Flags) : Nat × Flags :=
  let (v, f) := fAdd .fp32 x.1 y.1
  (v, x.2 ||| y.2 ||| f)

/-- VRSUM (R207). -/
def execVrsum (d : BitVec 5) (a : VReg) (k : MReg) (ty : VType) : State → Out :=
  legal (.vrsum d a k ty) (vIssue [] [g5 d] [a] fun s =>
    let z := s.me
    let xs := leaves z k a
    if ty == .f32 then
      let r := (treeRoot addFlags (xs.map (·.map fun x => (x, 0)))).getD (0, 0)
      .next ((s.setMe (z.wg (g5 d) (dw r.1))).arrives (some (g5 d)) none 6 r.2 0)
    else
      let r := (treeRoot (· + ·) (xs.map (·.map ty.int))).getD 0
      .next (s.setMe (z.wg (g5 d) (BitVec.ofInt 64 r))))

/-- VRMAX and VRMIN of no lane (R207). -/
def absentExtreme (ty : VType) (big : Bool) : Dword :=
  match ty with
  | .i32 => if big then 0xFFFFFFFF80000000 else 0x7FFFFFFF
  | .f32 => if big then 0xFF800000 else 0x7F800000
  | _ => if big then 0 else 0xFFFFFFFF

/-- VRMAX and VRMIN (R207). -/
def vExtreme (i : Instr) (big : Bool) (d : BitVec 5) (a : VReg) (k : MReg) (ty : VType) : State → Out :=
  legal i (vIssue [] [g5 d] [a] fun s =>
    let z := s.me
    let r := treeRoot (fun x y => (minmaxElem ty big x y).1) (leaves z k a)
    let v := match r with
      | some x => if ty.signed then BitVec.ofInt 64 (ty.int x) else dw x
      | none => absentExtreme ty big
    .next (s.setMe (z.wg (g5 d) v)))

def execVrmax (d : BitVec 5) (a : VReg) (k : MReg) (ty : VType) : State → Out := vExtreme (.vrmax d a k ty) true d a k ty
def execVrmin (d : BitVec 5) (a : VReg) (k : MReg) (ty : VType) : State → Out := vExtreme (.vrmin d a k ty) false d a k ty

/-- The inclusive scan over active lanes: each lane's result, none for an inactive one (R208). -/
def scanFrom {α : Type} (comb : α → α → α) : Option α → List (Option α) → List (Option α)
  | _, [] => []
  | acc, none :: r => none :: scanFrom comb acc r
  | none, some x :: r => some x :: scanFrom comb (some x) r
  | some p, some x :: r => some (comb p x) :: scanFrom comb (some (comb p x)) r

/-- VPFX (R208). -/
def execVpfx (d a : VReg) (k : MReg) (ty : VType) : State → Out :=
  legal (.vpfx d a k ty) (vIssue [] [] [d, a] fun s =>
    let z := s.me
    let comb (x y : Nat × Flags) : Nat × Flags :=
      if ty == .f32 then addFlags (x.1, 0) (y.1, 0) else ((x.1 + y.1) % 2 ^ 32, 0)
    let r := scanFrom comb none ((leaves z k a).map (·.map fun x => (x, 0)))
    .next (s.lanes 6 k d fun i =>
      match r.getD i.val none with
      | some (x, f) => (BitVec.ofNat 32 x, f)
      | none => (0, 0)))

/-! ### Masks (R209, R210) -/

def m5 (x : BitVec 5) : MReg := x.extractLsb' 0 3

/-- VMSK acts on all 64 bits and ignores VC (R209). -/
def execVmsk (d a b : BitVec 5) (f : MskFunc) : State → Out :=
  legal (.vmsk d a b f) (
    let bits (g : Dword → Dword → Dword) : State → Out :=
      vIssue [] [] [] fun s => .next (s.setMe (s.me.wm (m5 d) (g (s.me.rm (m5 a)) (s.me.rm (m5 b)))))
    match f with
    | .and => bits (· &&& ·)
    | .or => bits (· ||| ·)
    | .xor => bits (· ^^^ ·)
    | .andn => bits fun x y => x &&& ~~~y
    | .not => bits fun x _ => ~~~x
    | .gtom => vIssue [g5 a] [] [] fun s => .next (s.setMe (s.me.wm (m5 d) (s.me.rg (g5 a))))
    | .mtog => vIssue [] [g5 d] [] fun s => .next (s.setMe (s.me.wg (g5 d) (s.me.rm (m5 a))))
    | .first => vIssue [g5 a] [] [] fun s =>
        .next (s.setMe (s.me.wm (m5 d) (dw (2 ^ min (s.me.rg (g5 a)).toNat 64 - 1)))))

/-- VPOP counts below VC (R210). -/
def execVpop (d : BitVec 5) (a : MReg) : State → Out :=
  vIssue [] [g5 d] [] fun s =>
    let z := s.me
    .next (s.setMe (z.wg (g5 d) (dw ((List.range z.spr.vc.toNat).countP fun i => (z.rm a).getLsbD i))))

/-- VCOMP packs the active lanes to the front and writes every lane (R210). -/
def execVcomp (d a : VReg) (k : MReg) : State → Out :=
  vIssue [] [] [d, a] fun s =>
    let z := s.me
    let xs := ((List.finRange 64).filter fun i => z.active k i.val).map fun i => (z.rv a)[i]
    .next (s.setMe (z.wv d (Vector.ofFn fun i => xs.getD i.val 0)))

/-- VIOTA (R210). -/
def execViota (d : VReg) (k : MReg) : State → Out :=
  vLanes 1 d [] [] k fun z i => (BitVec.ofNat 32 ((List.range i.val).countP fun j => z.active k j), 0)

end Sys2Proof.Machine
end

