-- ==== Sys2Proof/Machine/Engine.lean ====
section
/-!
DEFINITION. Commands and what all engine jobs share: the kinds and their ranges, `PUSH`, the job a queue works on, the
engines' translations and how a job ends (R56, R57, R135, R136, R141, R222, R228, R294).
-/

namespace Sys2Proof.Machine

/-! ### Command kinds (R56, R57) -/

/-- A command kind: its queues, whether it is privileged, the KFLAGS bits it defines and whether it may name a layout. -/
structure Kind where
  queues : List Nat
  priv : Bool
  kflags : Nat
  layout : Bool
deriving DecidableEq, Repr, Inhabited

/-- The kinds of R56, with the KFLAGS that their own rules define. -/
def kindOf : Nat → Option Kind
  | 0x01 => some { queues := [0, 1], priv := false, kflags := 1, layout := true }
  | 0x02 => some { queues := [2, 3], priv := false, kflags := 1, layout := true }
  | 0x03 => some { queues := [0, 1], priv := false, kflags := 1, layout := true }
  | 0x04 => some { queues := [2, 3], priv := false, kflags := 1, layout := true }
  | 0x05 => some { queues := [0, 1, 2, 3], priv := false, kflags := 5, layout := false }
  | 0x06 => some { queues := [2, 3], priv := false, kflags := 0, layout := false }
  | 0x07 => some { queues := [0, 1, 2, 3, 4, 5, 6, 7], priv := false, kflags := 0, layout := false }
  | 0x08 => some { queues := [0, 1, 2, 3], priv := true, kflags := 0, layout := false }
  | 0x09 => some { queues := [0, 1, 2, 3], priv := true, kflags := 0, layout := false }
  | 0x0A => some { queues := [0, 1, 2, 3], priv := false, kflags := 0, layout := false }
  | 0x10 => some { queues := [4], priv := false, kflags := 0, layout := false }
  | 0x11 => some { queues := [4], priv := false, kflags := 0, layout := false }
  | 0x12 => some { queues := [4], priv := false, kflags := 3, layout := false }
  | 0x20 => some { queues := [5], priv := false, kflags := 15, layout := false }
  | 0x21 => some { queues := [5], priv := false, kflags := 0, layout := false }
  | 0x22 => some { queues := [5], priv := false, kflags := 1, layout := false }
  | 0x30 => some { queues := [6], priv := false, kflags := 0, layout := false }
  | 0x31 => some { queues := [6], priv := false, kflags := 0, layout := false }
  | 0x32 => some { queues := [6], priv := false, kflags := 0, layout := false }
  | 0x40 => some { queues := [7], priv := false, kflags := 0, layout := false }
  | 0x41 => some { queues := [7], priv := false, kflags := 0, layout := false }
  | 0x42 => some { queues := [7], priv := false, kflags := 0, layout := false }
  | _ => none

/-- The row of a kind. -/
def kindEvent (k : Nat) (c : CoreId) (q : QueueId) : Event :=
  match k with
  | 0x01 => .copyin c q
  | 0x02 => .copyout c q
  | 0x03 => .decode c q
  | 0x04 => .encode c q
  | 0x05 => .fill c q
  | 0x06 => .compact c q
  | 0x07 => .qfence c q
  | 0x08 => .layset c q
  | 0x09 => .laysync c q
  | 0x0A => .resume c q
  | 0x10 => .gather c q
  | 0x11 => .scatter c q
  | 0x12 => .scatadd c q
  | 0x20 => .madd c q
  | 0x21 => .mpfx c q
  | 0x22 => .munion c q
  | 0x30 => .rsend c q
  | 0x31 => .rfetch c q
  | 0x32 => .rsignal c q
  | 0x40 => .cnout c q
  | 0x41 => .cnin c q
  | _ => .cndiff c q

def Job.kind (j : Job) : Nat := fld j.d0 7 0
/-- KFLAGS bit `i` of the four. -/
def Job.kflag (j : Job) (i : Nat) : Bool := j.d0.getLsbD (12 + i)
def Job.wen (j : Job) : Bool := j.d0.getLsbD 8
def Job.sen (j : Job) : Bool := j.d0.getLsbD 9
def Job.wsem (j : Job) : BitVec 8 := j.d0.extractLsb' 16 8
def Job.ssem (j : Job) : BitVec 8 := j.d0.extractLsb' 24 8
def Job.wamt (j : Job) : Nat := fld j.d0 55 48
def Job.samt (j : Job) : Nat := fld j.d0 63 56
def Job.layoutNo (j : Job) : Nat := fld j.d0 47 32

/-- A command of the copy kinds, which a `RESUME` may continue (R235). -/
def Job.copyKind (j : Job) : Bool := decide (1 ≤ j.kind) && decide (j.kind ≤ 6)

/-- The checks of dword 0 at `PUSH` (R57). -/
def pushOk (d0 : Dword) (q : Nat) (priv : Bool) : Bool :=
  match kindOf (fld d0 7 0) with
  | none => false
  | some k =>
    k.queues.contains q && (priv || !k.priv) && fld d0 11 10 == 0 &&
      (fld d0 15 12 &&& (15 - k.kflags)) == 0 && (k.layout || fld d0 47 32 == 0)

/-! ### Ranges (R141) -/

/-- The scratchpad ranges a command names: base, length, write. -/
def commandRanges (j : Job) : List (Nat × Nat × Bool) :=
  let lo (x : Dword) := fld x 31 0
  let hi (x : Dword) := fld x 63 32
  let all : List (Nat × Nat × Bool) :=
    match j.kind with
    | 0x01 => if j.kflag 0 then [] else [(lo j.d2, hi j.d2, true)]
    | 0x02 => if j.kflag 0 then [] else [(lo j.d2, hi j.d2, false)]
    | 0x03 => if j.kflag 0 then [] else [(lo j.d2, hi j.d2, true)]
    | 0x04 => if j.kflag 0 then [] else [(lo j.d2, hi j.d2, false)]
    | 0x05 => if j.kflag 0 || j.kflag 2 then [] else [(lo j.d1, lo j.d2, true)]
    | 0x06 => [(lo j.d1, fld j.d3 15 0 * hi j.d1, false)]
    | 0x08 => [(lo j.d2, 64, false)]
    | 0x10 => [(lo j.d2, 4 * fld j.d2 47 32, false), (lo j.d3, 8 * fld j.d1 63 54 * fld j.d2 47 32, true)]
    | 0x11 | 0x12 => [(lo j.d2, 4 * fld j.d2 47 32, false), (lo j.d3, 8 * fld j.d1 63 54 * fld j.d2 47 32, false)]
    | 0x20 => [(lo j.d1, 32, false), (lo j.d2, fld j.d1 47 32 * hi j.d2, true), (lo j.d3, fld j.d1 47 32 * hi j.d3, true)]
    | 0x22 => [(lo j.d1, 32, false), (lo j.d2, fld j.d1 47 32 * hi j.d2, true)]
    | 0x21 => [(lo j.d1, (fld j.d2 47 32 - 1) * hi j.d1 + 4, false), (lo j.d2, 4 * fld j.d2 47 32 + 4, true)]
    | 0x30 => [(lo j.d2, hi j.d2, false)]
    | 0x31 => [(lo j.d2, hi j.d2, true)]
    | 0x40 => [(lo j.d3, 32, false)]
    | 0x41 => [(lo j.d3, 32, true)]
    | 0x42 => [(lo j.d3, 64, false), (lo j.d3 + 0x40, 8, true)]
    | _ => []
  all.filter fun r => r.2.1 != 0

/-! ### The queue's work -/

/-- The job of a queue that runs (R135). -/
def Queue.running (q : Queue) : Option Job := q.jobs.find? fun j => j.state == .running

/-- The job a queue works on: for a `RESUME`, the halted job that it continues (R236). -/
def Queue.work (q : Queue) : Option Job :=
  match q.running with
  | some j => if j.kind = 0x0A && j.ending.isNone then q.haltedJob else some j
  | none => none

/-- Changes a job of a queue by its id. -/
def State.updJob (s : State) (c : CoreId) (q : QueueId) (id : Word) (f : Job → Job) : State :=
  let x := s.core c
  let qu := x.queue q
  s.setCore c (x.setQueue q { qu with jobs := qu.jobs.map fun j => if j.id = id then f j else j })

/-- The pusher of a job. -/
def Job.pusher (j : Job) (c : CoreId) : Who := ⟨c, j.sid⟩

/-- An end with nothing to report. -/
def JobEnd.ok : JobEnd := { status := .ok, cause := 0, addr := 0, detail := 0, flags := 0, drop := 0 }
/-- An end with a cause: one item dropped, and a record with the job's id (R228). -/
def JobEnd.bad (j : Job) (st : JobStatus) (cause : BitVec 16) (detail : Dword) : JobEnd :=
  { status := st, cause := cause, addr := j.id.setWidth 64, detail := detail, flags := 0, drop := 1 }

/-- A job has made its last access to what it reads in scratchpad: those ranges are released (R141). -/
def State.releaseReads (s : State) (c : CoreId) (q : QueueId) (id : Word) : State :=
  let x := s.core c
  s.setCore c { x with board := x.board.filter fun r => r.write || !(r.queue == q && r.job == id) }

/-- A job has finished its work and completes next (R136). -/
def State.endJob (s : State) (c : CoreId) (q : QueueId) (j : Job) (e : JobEnd) : State :=
  (s.updJob c q j.id fun j => { j with ending := some e }).due (.jobComplete c q)

/-- An engine may begin a job's work: no clock of the package is in a fault, and what R274 puts before the job has been
performed: no access or content-named operation of its core waits or is held at a point, no write of its die crosses to another, and
what the die has sent and seen is applied everywhere (R222, R268, R272, R274, R292, R366). -/
def State.engineReady (s : State) (c : CoreId) : Bool :=
  !(List.finRange 4).any (fun d => (s.die d).inFault && !(s.die d).fenced) &&
    !([.s, .v, .m] : List StrandId).any (fun i => s.memoryWaits ⟨c, i⟩) && !s.coreWaits c s.time.toNat &&
    !s.held.any (fun x => x.point == pointOf c x.scope) && !s.sending (dieOf c)

/-- Packets of a job that have not completed. -/
def State.jobRemotes (s : State) (c : CoreId) (q : QueueId) (id : Word) : Bool :=
  s.fab.remotes.any fun r => r.who.core == c &&
    match r.use with
    | .job q' id' _ _ _ => q' == q && id' == id
    | _ => false

/-- A job's step has reached a location of which its home took an access before it in this cycle (R267). -/
def State.clashes (s t : State) : Bool :=
  (t.cycle.served.take (t.cycle.served.length - s.cycle.served.length)).any s.cycle.served.contains

/-- The step of a job: it does its work whole once it may begin, and looks again later until then; the homes that it reaches take its
accesses first in a cycle (R267; log entry 76). -/
def runJob (c : CoreId) (q : QueueId) (e : Event) (body : Job → State → Out) (s : State) : Out :=
  match ((s.core c).queue q).work with
  | none => .next s
  | some j =>
    if j.ending.isSome || s.jobRemotes c q j.id then .next s
    else if s.engineReady c then
      match body j s with
      | .next t => .next (if s.clashes t then { s with timers := (s.time.toNat + 1, e) :: s.timers } else t)
      | r => r
    else .next (s.timer (s.time.toNat + 1) e)

/-! ### Translations of the engines (R294, R296) -/

/-- An engine at work: the state, the translations its job holds, and whether it met an address without meaning. -/
structure Eng where
  s : State
  ls : List Lease
  bad : Bool := false

/-- An address is about to be reached through a page: the map of R343 must give it a meaning. -/
def Eng.touch (e : Eng) (l : Lease) (va : Nat) : Eng :=
  { e with bad := e.bad || (l.kind != 3 && !e.s.assigned (e.s.homeOf (l.at va))) }

/-- What an engine finds at a virtual address: a page, or the base of one that is not present. -/
def Eng.xlate (e : Eng) (d : DieId) (space : BitVec 16) (va : Nat) : Eng × Except Nat Lease :=
  match e.ls.find? fun l => l.serves va (e.s.dieTime d).toNat with
  | some l => (e.touch l va, .ok l)
  | none =>
    match e.s.walk d space va with
    | (s, { found := some (l, _), .. }) =>
      (({ e with s := s, ls := l :: e.ls.filter fun x => x.base != l.base } : Eng).touch l va, .ok l)
    | (s, { found := none, base := b }) => ({ e with s := s }, .error b)

/-- What an engine's step answers. -/
def Eng.out (e : Eng) (s : State) : Out := if e.bad then .fault .unassignedAddress else .next s

/-- Reads one byte of a page at its home. Through a page of kind normal the engines of a privileged instance read the management
registers; for others they read 0 (R266, R345; log entry 18). -/
def State.engRead (s : State) (priv : Bool) (l : Lease) (va : Nat) : Byte :=
  let pa := s.homeOf (l.at va)
  if mgmtAddr pa then
    if priv && l.kind == 0 then (s.mgmtRead (locOf pa - mgmtBase)).extractLsb' (8 * (pa % 8)) 8 else 0
  else s.sound.get pa

/-- Where bytes that an engine reaches lie at their homes, with their virtual addresses. -/
def State.engBytes (s : State) (xs : List (Nat × Lease)) : List (Nat × Nat) := xs.map fun x => (s.homeOf (x.2.at x.1), x.1)

/-- Puts bytes at their homes; each word of the coherent window that they reach is noticed. -/
def State.engBytesPut (s : State) : List (Nat × Byte) → State
  | [] => s
  | (pa, b) :: r =>
    let s := if mgmtAddr pa then s else { s with mem := s.mem.put pa b }
    let last := match r with
      | (next, _) :: _ => locOf next != locOf pa
      | [] => true
    let s := if last then s.dueAll (s.noticed pa) else s
    State.engBytesPut s r

/-- The management registers of which all eight bytes are written, with their values: the aligned 8-byte writes among some
bytes (R266, R345). -/
def mgmtCells (xs : List (Nat × Byte)) : List (Nat × Dword) :=
  xs.filterMap fun x =>
    let bs := (addrs x.1 8).filterMap fun a => (xs.find? fun y => y.1 == a).map (·.2)
    if x.1 % 8 == 0 && bs.length == 8 then some (x.1 - mgmtBase, dw (leNat bs)) else none

/-- Writes bytes at virtual addresses of pages, at their homes; words of the coherent window are noticed. The management
registers take the whole words of a privileged instance through a page of kind normal (R345; log entry 18). -/
def State.engPut (s : State) (priv : Bool) (xs : List (Nat × Lease × Byte)) : State :=
  let as := xs.map fun x => s.homeOf (x.2.1.at x.1)
  let regs := xs.filterMap fun x =>
    let pa := s.homeOf (x.2.1.at x.1)
    if mgmtAddr pa && priv && x.2.1.kind == 0 then some (pa, x.2.2) else none
  let s := (s.engBytesPut (as.zip (xs.map (·.2.2)))).mended s.mem as
  (mgmtCells regs).foldl (fun (s : State) x => s.dueAll (s.mgmtWrite x.1 x.2 false)) s

/-- Writes bytes from one address of a page on. -/
def State.engWrite (s : State) (priv : Bool) (l : Lease) (va : Nat) (bs : List Byte) : State :=
  s.engPut priv (bs.zipIdx.map fun b => (va + b.2, l, b.1))

/-- The instance of a core is privileged. -/
def State.privOn (s : State) (c : CoreId) : Bool := (s.instOn c).priv

/-- A job's access to bytes on pages: the homes take it, the errors it meets are counted for its pusher, and its die's vector follows
(R267, R272, R280). -/
def State.engAccess (s : State) (c : CoreId) (j : Job) (wr : Bool) (xs : List (Nat × Lease)) : State :=
  let as := (s.engBytes xs).map (·.1)
  ((s.errors (j.pusher c) wr (s.engBytes xs)).ordered (dieOf c) wr as).takeAll (corePort c) as

/-- Keeps the translations of an engine in its job. -/
def Eng.keep (e : Eng) (c : CoreId) (q : QueueId) (id : Word) : State :=
  e.s.updJob c q id fun j => { j with leases := e.ls }

/-- ENGINE_LEASE_RENEW: every translation of a queue's job with less than one eighth of its lease left is walked for
again, unless the walk stalls (R292); one whose page is gone is dropped, and its next use ends the job as its kind states
(R294). -/
def execEngineLeaseRenew (c : CoreId) (q : QueueId) (s : State) : Out :=
  let d := dieOf c
  match ((s.core c).queue q).work with
  | none => .next s
  | some j =>
    let old : List Lease := j.leases.filter fun l => !l.serves l.base.toNat (s.dieTime d).toNat
    if old.any fun l => s.walkStalls d j.space l.base.toNat then .next (s.timer (s.time.toNat + 1) (.engineLeaseRenew c q))
    else
      let e : Eng := { s := s, ls := j.leases.filter fun l => l.serves l.base.toNat (s.dieTime d).toNat }
      let e := old.foldl (fun e l => (e.xlate d j.space l.base.toNat).1) e
      .next (e.keep c q j.id)

/-! ### PUSH (R57, R141, R222) -/

/-- The jobs a `QFENCE` records as it is accepted: of each queue of its mask but its own, the newest; and the frame job
held, as queue 8 (R234). -/
def fenceJobs (x : Core) (q : QueueId) (d1 : Dword) : List (Nat × Word) :=
  ((List.finRange 8).filter fun i => d1.getLsbD i.val && i != q).map (fun i => (i.val, (x.queue i).next - 1)) ++
    (if d1.getLsbD 8 then (match x.frame.job with | some f => [(8, f.id)] | none => []) else [])

/-- PUSH (R57, R221, R222). -/
def execPush (a : GReg) (q : BitVec 3) (ta : Bool) : State → Out :=
  legal (.push a q ta) <|
  issue (useS 2 [(a, ta), (a + 1, ta), (a + 2, ta), (a + 3, ta)]) fun s =>
    let z := s.me
    let x := s.here
    let qi : QueueId := q.toFin
    let qu := x.queue qi
    let d0 := z.rg a
    let j : Job := { id := qu.next, sid := s.turn.strand, space := z.spr.space, d0 := d0, d1 := z.rg (a + 1), d2 := z.rg (a + 2),
                     d3 := z.rg (a + 3), state := .queued, layout := none, units := 0, pchunk := 0, resumeAt := 0, made := 0, short := none, inbuf := [], fence := [],
                     params := [], leases := [], fails := [], ending := none }
    let rs := commandRanges j
    if !pushOk d0 q.toNat s.myInst.priv then .trap 0x0002 0 0
    else if Config.queueDepth ≤ qu.jobs.length ∨ Config.scoreEntries < x.board.length + rs.length then .wait .queueFull s
    else if z.flushing then .wait .interlock s
    else
      let j := if j.kind = 7 then { j with fence := fenceJobs x qi j.d1 } else j
      let claims : List Range := rs.map fun r => { base := r.1, len := r.2.1, write := r.2.2, queue := qi, job := j.id }
      let x := { x.setQueue qi { next := qu.next + 1, jobs := qu.jobs ++ [j] } with board := x.board ++ claims }
      .next ((s.setHere x).due (.jobPop s.turn.core qi))

/-! ### Local memory of a job -/

/-- Bytes a scratchpad or a tile holds (R128, R228). -/
def localLimit (tile : Bool) : Nat := if tile then 0x4000 else Config.spadBytes

/-- The first byte of `n` at `off` beyond a limit, if any (R228). -/
def beyond (off n limit : Nat) : Option Nat := if 0 < n ∧ limit < off + n then some (max off limit) else none

/-- Reads a local byte: of the scratchpad, or of a tile. -/
def Core.localGet (x : Core) (tile : Option TReg) (off : Nat) : Byte :=
  match tile with
  | some t => x.tiles.get (tileRow t 0 + off)
  | none => x.spad.get off

/-- Writes local bytes at rising offsets. -/
def Core.localPut (x : Core) (tile : Option TReg) (off : Nat) (bs : List Byte) : Core :=
  match tile with
  | some t => { x with tiles := x.tiles.putBytes (tileRow t 0 + off) bs }
  | none => { x with spad := x.spad.putBytes off bs }

/-- `n` local bytes. -/
def Core.localBytes (x : Core) (tile : Option TReg) (off n : Nat) : List Byte :=
  (List.range n).map fun i => x.localGet tile (off + i)

/-- A job writer sets its tile full (R26). -/
def State.fillTile (s : State) (c : CoreId) (tile : Option TReg) : State :=
  match tile with
  | some t => (s.setCore c { (s.core c).setTfull t true with deadlock := 0 }).kick c
  | none => s

/-- The 0x0043 of a condition on a dword (R228). -/
def badDword (n : Nat) : Option (BitVec 16 × Dword) := some (0x0043, dw n)

/-- The first of several checks that fails: of several that fail at a pop it is the one reported (log entry 70). -/
def firstBad : List (Option (BitVec 16 × Dword)) → Option (BitVec 16 × Dword)
  | [] => none
  | some x :: _ => some x
  | none :: r => firstBad r

/-- A check of a dword. -/
def dwordBad (n : Nat) (bad : Bool) : Option (BitVec 16 × Dword) := if bad then badDword n else none

/-- A check of a local range. -/
def rangeBad (off n limit : Nat) : Option (BitVec 16 × Dword) := (beyond off n limit).map fun o => (0x0042, dw o)

end Sys2Proof.Machine
end

