-- ==== Sys2Proof/Machine/Cluster.lean ====
section
/-!
DEFINITION. The cluster: accesses of neighbours' scratchpads, barriers, failures of the cluster network (R243 to R254, R264);
and `TCLR` (R107).
-/

namespace Sys2Proof.Machine

/-! ### Remote scratchpad access (R246, R247) -/

/-- Cluster accesses a strand has outstanding. -/
def State.clusterOut (s : State) (w : Who) : Nat :=
  let mine : Event → Bool
    | .clusterAccess x _ _ _ _ _ => x == w
    | _ => false
  (s.agenda.filter mine).length + (s.timers.filter fun e => mine e.2).length

/-- Issues an access of a core of the cluster; a store waits for the strand's flushes (R221, R246). -/
def sendCluster (a : GReg) (sz : Size) (data : Strand → Option Dword) (d : GReg) (s : State) : Body :=
  let w := s.me.rg a
  let n := sizeBytes sz
  let off := fld w 31 0
  let tgt := coreOf (clusterOf s.turn.core) (fld w 33 32)
  if fld w 63 34 != 0 || !s.myInst.cores.contains tgt then .trap 0x0002 0 0
  else if !spadOk off n then spadError
  else if 16 ≤ s.clusterOut s.turn || ((data s.me).isSome && s.me.flushing) then .wait .interlock s
  else
    let x := data s.me
    let e : Event := .clusterAccess s.turn tgt off n x d
    .next ((if x.isNone then s.setMe (s.me.empty d) else s).due e)

/-- RST (R246). -/
def execRst (d a : GReg) (sz : Size) (ta : Bool) : State → Out :=
  issue { len := 2, on := anyStrand, src := [(a, ta), (d, false)], dst := [] } (sendCluster a sz (fun z => some (z.rg d)) d)
/-- RLD (R246). -/
def execRld (d a : GReg) (sz : Size) (ta : Bool) : State → Out :=
  issue (useR1 d a ta) (sendCluster a sz (fun _ => none) d)

/-- A signal that a core holds is looked at again: a store before it may have been performed (R226). -/
def State.signalDue (s : State) (c : CoreId) : State := if (s.core c).signals.isEmpty then s else s.due (.semaphoreCycle c)

/-- CLUSTER_ACCESS: an access is served at its target, behind the target's ranges and behind an earlier access of its
strand to that core, or of another strand of its core to the same bytes, which a synchronisation edge may put before it (R141, R245,
R247, R274). -/
def execClusterAccess (w : Who) (tgt : CoreId) (off n : Nat) (x : Option Dword) (d : GReg) (s : State) : Out :=
  let before : Event → Bool
    | .clusterAccess y t o k v _ =>
      t == tgt && (y == w || (y.core == w.core && (v.isSome || x.isSome) && overlap o k off n))
    | _ => false
  let c := s.core tgt
  if c.boarded x.isSome off n || s.timers.any (fun e => before e.2) then
    .next (s.timer (s.time.toNat + 1) (.clusterAccess w tgt off n x d))
  else
    let s := s.portGood w.core
    match x with
    | some v => .next ((s.signalDue w.core).setCore tgt ((s.core tgt).setSpad off n v.toNat))
    | none => .next (s.whenReady (.gregFill w d (dw (c.spadNat off n))))

/-! ### Barriers (R249 to R254) -/

def State.cluster (s : State) (k : ClusterId) : Cluster := s.clusters[k]
def State.setCluster (s : State) (k : ClusterId) (x : Cluster) : State :=
  { s with clusters := s.clusters.set k.val x k.isLt }
def Cluster.bar (k : Cluster) (b : BitVec 4) : Barrier := k.bars[b.toNat]'b.isLt
def Cluster.setBar (k : Cluster) (b : BitVec 4) (x : Barrier) : Cluster := { k with bars := k.bars.set b.toNat x b.isLt }
/-- The cluster of the strand whose turn it is. -/
def State.myCluster (s : State) : Cluster := s.cluster (clusterOf s.turn.core)

/-- Sends an operation to a barrier, which applies it in the fourth cycle on (R250). -/
def State.sendBar (s : State) (op : BarOp) : State :=
  let k := clusterOf op.who.core
  let at_ := s.time.toNat + 4
  (s.setCluster k { s.cluster k with ops := (s.cluster k).ops ++ [{ op with at_ := at_ }] }).timer at_ (.barrierApply k)

/-- Barrier instructions are legal in a cluster-scope instance only (R249). -/
def barrierOp (src : List (GReg × Bool)) (dst : List GReg) (body : State → Body) : State → Out :=
  issue { len := 2, on := anyStrand, src := src, dst := dst } fun s => if s.myInst.cluster then body s else .trap 0x0002 0 0

/-- CARV: an arrival, after a `FENCE.CLUSTER`; its result has a latency of 8 (R251). -/
def execCarv (g : GReg) (b : BitVec 4) : State → Out :=
  barrierOp [] [g] fun s =>
    if s.fenced s.turn .cluster then
      .next ((s.sendBar { who := s.turn, bar := b, arrive := some g, n := 0, at_ := 0 }).resultIn (some g) none 8 0 0)
    else .wait .interlock s

/-- CBSET (R253). -/
def execCbset (g : GReg) (b : BitVec 4) (tg : Bool) : State → Out :=
  barrierOp [(g, tg)] [] fun s =>
    let n : Byte := (s.me.rg g).extractLsb' 0 8
    if n = 0 then .trap 0x0002 0 0 else .next (s.sendBar { who := s.turn, bar := b, arrive := none, n := n, at_ := 0 })

/-- A phase counts as complete (R252). -/
def Barrier.passed (b : Barrier) (p : Word) : Bool :=
  let n := (b.phase - p).toNat
  decide (1 ≤ n) && decide (n ≤ 2 ^ 31)

/-- Sends a wait for a phase to its barrier, which registers it in the fourth cycle on; its deadline, if it has one, is some
cycles after that (R250, R252). -/
def State.sendWait (s : State) (b : BitVec 4) (p : Word) (tmo : Option Nat) : State :=
  let reg := s.time.toNat + 4
  let s := (s.setMe { s.me with wait := .barrier b p reg (tmo.map (reg + ·)) }).timer reg (.barrierApply (clusterOf s.turn.core))
  match tmo with
  | some t => s.timer (reg + t + 1) (.ctwaitTimeout s.turn (reg + t))
  | none => s

/-- A wait at a barrier: it is sent, and completes when the barrier's answer has come (R252). -/
def barrierWait (b : BitVec 4) (p : Word) (tmo : Option Nat) (fin : Strand → Bool → Strand) (s : State) : Body :=
  let z := s.me
  match z.wait with
  | .answered ok at_ => if s.time.toNat < at_ then .wait .barrierWait s else .next (s.setMe { fin z ok with wait := .none })
  | .barrier .. => .wait .barrierWait s
  | _ => .wait .barrierWait (s.sendWait b p tmo)

/-- CWAIT (R252). -/
def execCwait (g : GReg) (b : BitVec 4) (tg : Bool) : State → Out :=
  barrierOp [(g, tg)] [] fun s => barrierWait b ((s.me.rg g).setWidth 32) none (fun z _ => z) s

/-- CTWAIT (R252). -/
def execCtwait (g : GReg) (b : BitVec 4) (tg : Bool) : State → Out :=
  barrierOp [(g, tg)] [g] fun s =>
    barrierWait b ((s.me.rg g).setWidth 32) (some (fld (s.me.rg g) 63 32)) (fun z ok => z.wg g (if ok then 1 else 0)) s

/-- A barrier after an operation, and the phase its arrival was counted in (R251, R253). -/
def Barrier.apply (b : Barrier) (op : BarOp) : Barrier :=
  let b := match op.arrive with
    | some _ => { b with arr := b.arr + 1 }
    | none => { b with n := op.n }
  if b.n.toNat ≤ b.arr.toNat then { b with phase := b.phase + 1, arr := 0 } else b

/-- Order of operations that arrive in one cycle: core, then S, V, M (R254). -/
def barRank (op : BarOp) : Nat := 3 * coreInCluster op.who.core + sidNat op.who.strand

/-- Applies one operation; an arrival's strand learns its phase (R251). -/
def State.applyBar (k : ClusterId) (s : State) (op : BarOp) : State :=
  let c := s.cluster k
  let b := c.bar op.bar
  let s := s.setCluster k (c.setBar op.bar (b.apply op))
  match op.arrive with
  | some g => s.setStrand op.who ((s.strand op.who).wg g (b.phase.setWidth 64))
  | none => s

/-- A registered waiter whose phase has passed is answered: its instruction completes four cycles on (R252, R254). -/
def State.wakeBar (k : ClusterId) (s : State) (w : Who) : State :=
  match (s.strand w).wait with
  | .barrier b p reg _ =>
    if decide (reg ≤ s.time.toNat) && ((s.cluster k).bar b).passed p
    then s.setStrand w { s.strand w with wait := .answered true (s.time.toNat + 4) } else s
  | _ => s

/-- BARRIER_APPLY: the operations that have arrived, in R254's order, and then the waiters. -/
def execBarrierApply (k : ClusterId) (s : State) : Out :=
  let now := s.time.toNat
  let ops := (s.cluster k).ops.filter fun op => decide (op.at_ ≤ now)
  let s := s.setCluster k { s.cluster k with ops := (s.cluster k).ops.filter fun op => !decide (op.at_ ≤ now) }
  let s := ((List.range 12).flatMap fun r => ops.filter fun op => barRank op == r).foldl (State.applyBar k) s
  let ws : List Who := (List.range 4).flatMap fun i => [⟨coreOf k i, .s⟩, ⟨coreOf k i, .v⟩, ⟨coreOf k i, .m⟩]
  .next (ws.foldl (State.wakeBar k) s)

/-- CTWAIT_TIMEOUT: a wait whose phase has not passed by the end of its deadline's cycle fails (R252, R254). -/
def execCtwaitTimeout (w : Who) (til : Nat) (s : State) : Out :=
  match (s.strand w).wait with
  | .barrier _ _ _ (some t) => .next (if t = til then s.setStrand w { s.strand w with wait := .answered false (til + 4) } else s)
  | _ => .next s

/-! ### Failures (R264) -/

/-- An instance of a cluster that has lost its network: a record, and its end whatever its policy (R264). -/
def State.loseNetwork (s : State) (c : CoreId) (k : Nat) : State :=
  let i := s.getInst k
  let r : Rec := { cause := 0x005D, sid := none, queue := 0, arg := 0, pc := 0, cid := s.cid c, addr := 0, detail := 0 }
  match s.post r i with
  | (s, some va, n) => ((s.setInst k { s.getInst k with frec := va }).applyStop n).terminate k
  | (s, none, _) => s.terminate k

/-- CLUSTER_NETWORK_FLIT_FAILURE: the port resends; after 16 failures in a row the cluster leaves the pool and its
instances end (R264). -/
def execClusterNetworkFlitFailure (w : Who) (s : State) : Out :=
  let c := w.core
  let s := s.corr w 1
  let n := (s.core c).netFails + 1
  let s := s.setCore c { s.core c with netFails := n }
  if n < 16 then .next s
  else
    let k := clusterOf c
    let s := s.setCluster k { s.cluster k with removed := true }
    let here := (List.range 4).filterMap fun i => (s.core (coreOf k i)).inst.map fun x => (coreOf k i, x)
    .next (here.foldl (fun (s : State) y => if (s.getInst y.2).status == .terminated then s else s.loseNetwork y.1 y.2) s)

end Sys2Proof.Machine
end

