-- ==== Sys2Proof/Machine/Copy.lean ====
section
/-!
DEFINITION. The copy kinds and their layouts, KPACK streams, `QFENCE`, the layout kinds and `RESUME` (R228 to R241).
-/

namespace Sys2Proof.Machine

/-! ### Layout records (R229 to R231) -/

/-- A layout record's fields (R229). -/
structure Layout where
  efmt : Nat
  sfmt : Nat
  sblk : Nat
  comp : Bool
  space : Nat
  cols : Nat
  rows : Nat
  n2 : Nat
  n3 : Nat
  gs1 : Int
  gs2 : Int
  gs3 : Int
  lstr : Nat
  sgoff : Int
  sloff : Nat
  valid : Bool

/-- Reads a captured record (R229). -/
def Layout.of (bs : List Byte) : Layout :=
  let d (i : Nat) := bytesDword bs i
  { efmt := fld (d 0) 3 0, sfmt := fld (d 0) 5 4, sblk := fld (d 0) 7 6, comp := (d 0).getLsbD 8, space := fld (d 0) 47 32,
    cols := fld (d 1) 15 0, rows := fld (d 1) 31 16, n2 := fld (d 1) 47 32, n3 := fld (d 1) 63 48,
    gs1 := (d 2).toInt, gs2 := (d 3).toInt, gs3 := (d 4).toInt, lstr := fld (d 5) 31 0,
    sgoff := ((d 6).extractLsb' 0 32).toInt, sloff := fld (d 6) 63 32, valid := (d 7).getLsbD 0 }

/-- Physical address of a SPACE's layout record (R230, R284); its table is where LAYT says, whatever else the context's entry holds
(log entry 71). -/
def State.layoutAddr (s : State) (space : BitVec 16) (no : Nat) : Nat :=
  fld (s.physDword (s.ctxAddr space + 8)) 47 22 * 2 ^ 22 + 64 * no

/-- The record a job captures as it leaves QUEUED (R230). -/
def State.capture (s : State) (j : Job) : Option (List Byte) :=
  if j.layoutNo = 0 then none
  else some ((List.range 64).map fun i => BitVec.ofNat 8 (s.physNat (s.layoutAddr j.space j.layoutNo + i) 1))

/-- Bits of an element by its format code (R150, R231). -/
def fmtBits (code : Nat) : Nat := [16, 16, 8, 8, 4, 8, 8, 4, 2, 32].getD code 0

/-- A record may be used by a job: `comp` is what its kind asks of COMP (R228, R229). -/
def Layout.ok (l : Layout) (space : BitVec 16) (comp : Bool) : Bool :=
  l.valid && l.space == space.toNat && decide (l.efmt ≤ 9) && l.sfmt != 3 && l.cols != 0 && l.rows != 0 && l.n2 != 0 &&
    l.n3 != 0 && l.comp == comp

/-- The local strides are within their stated limits (R228, R229). -/
def Layout.stridesOk (l : Layout) : Bool := l.lstr % 8 == 0 && l.sloff % 2 == 0

/-- Bytes of a row (R231). -/
def Layout.rowBytes (l : Layout) : Nat := (l.cols * fmtBits l.efmt + 7) / 8
/-- Bytes of a row's side records (R231). -/
def Layout.sideBytes (l : Layout) : Nat :=
  if l.sfmt = 0 then 0 else 2 * ((l.cols + 16 * 2 ^ l.sblk - 1) / (16 * 2 ^ l.sblk))
/-- Rows of the record. -/
def Layout.total (l : Layout) : Nat := l.rows * l.n2 * l.n3
/-- Offset of a row's first global byte from GVA (R231). -/
def Layout.rowOfs (l : Layout) (n : Nat) : Int :=
  (n % l.rows : Nat) * l.gs1 + (n / l.rows % l.n2 : Nat) * l.gs2 + (n / l.rows / l.n2 : Nat) * l.gs3

/-- What a copy moves: a flat range, or the rows of a record below `valid` (R231, R232). -/
structure Shape where
  layout : Option Layout
  gva : Nat
  loff : Nat
  /-- local span in bytes; a flat job's length -/
  len : Nat
  /-- rows moved -/
  rows : Nat

/-- Bytes of a shape's stream (R231). -/
def Shape.stream (p : Shape) : Nat :=
  match p.layout with
  | none => p.len
  | some l => l.total * (l.rowBytes + l.sideBytes)

/-- Global and local place of a byte of the stream; none in a row that is not moved (R231). -/
def Shape.place (p : Shape) (o : Nat) : Option (Int × Nat) :=
  match p.layout with
  | none => some (p.gva + o, p.loff + o)
  | some l =>
    let rowPart := l.total * l.rowBytes
    if o < rowPart then
      let n := o / l.rowBytes
      if n < p.rows then some (p.gva + l.rowOfs n + (o % l.rowBytes : Nat), p.loff + n * l.lstr + o % l.rowBytes) else none
    else
      let r := o - rowPart
      if r / l.sideBytes < p.rows then some (p.gva + l.sgoff + r, p.loff + l.sloff + r) else none

/-- The first local byte at or above `top` among the first `rows` rows of a record, `part` bytes of the row after them, and
`side` bytes of side records (R228). -/
def Layout.localBad (l : Layout) (loff top rows part side : Nat) : Option Nat :=
  let first := if top < loff + l.rowBytes then 0 else if l.lstr = 0 then rows else (top - loff - l.rowBytes) / l.lstr + 1
  if first < rows then some (max (loff + first * l.lstr) top)
  else (beyond (loff + rows * l.lstr) part top).or (beyond (loff + l.sloff) side top)

/-- The first local byte of a shape's stream beyond its span or the local memory (R228). -/
def Shape.localBad (p : Shape) (limit : Nat) : Option Nat :=
  match p.layout with
  | none => beyond p.loff p.len limit
  | some l => l.localBad p.loff (min limit (p.loff + p.len)) p.rows 0 (l.sideBytes * p.rows)

/-- Rows at which a signed walk of rows 0 to `n - 1` reaches its least and greatest offset: the corners of its three
boxes. -/
def Layout.corners (l : Layout) (n : Nat) : List Nat :=
  let m := n - 1
  let a1 := m % l.rows
  let a2 := m / l.rows % l.n2
  let a3 := m / l.rows / l.n2
  let at_ (i1 i2 i3 : Nat) := i1 + l.rows * (i2 + l.n2 * i3)
  (if a3 = 0 then [] else
    [0, a3 - 1].flatMap fun i3 => [0, l.n2 - 1].flatMap fun i2 => [0, l.rows - 1].map fun i1 => at_ i1 i2 i3) ++
  (if a2 = 0 then [] else [0, a2 - 1].flatMap fun i2 => [0, l.rows - 1].map fun i1 => at_ i1 i2 a3) ++
  [at_ 0 a2 a3, at_ a1 a2 a3]

/-- A shape's global bytes pass 2^45 (R228). -/
def Shape.globalBad (p : Shape) : Bool :=
  match p.layout with
  | none => decide (2 ^ 45 < p.gva + p.len)
  | some l =>
    p.rows != 0 &&
      ((l.corners p.rows).any fun n =>
        decide (p.gva + l.rowOfs n < 0) || decide ((2 ^ 45 : Int) < p.gva + l.rowOfs n + l.rowBytes)) ||
      (l.sideBytes != 0 && p.rows != 0 &&
        (decide (p.gva + l.sgoff < 0) || decide ((2 ^ 45 : Int) < p.gva + l.sgoff + (l.sideBytes * p.rows : Nat))))

/-! ### COPYIN and COPYOUT (R232) -/

/-- The tile of a copy kind's local side: KFLAGS TILE and a tile number. -/
def Job.tileNo (j : Job) : Option TReg :=
  if !j.kflag 0 then none
  else match j.kind with
    | 0x01 | 0x02 => some (j.d3.extractLsb' 16 4)
    | 0x05 => some (j.d2.extractLsb' 32 4)
    | 0x03 | 0x04 => some (j.d3.extractLsb' 45 4)
    | _ => none

/-- A job's record, if it names one. -/
def Job.record (j : Job) : Option Layout := j.layout.map Layout.of

/-- What a COPYIN or COPYOUT moves. -/
def Job.copyShape (j : Job) : Shape :=
  let v := fld j.d3 15 0
  { layout := j.record, gva := fld j.d1 44 0, loff := fld j.d2 31 0, len := fld j.d2 63 32,
    rows := match j.record with
      | some l => if v = 0 then l.total else min v l.total
      | none => 0 }

/-- The 0x0041 of a record that may not be used, and the 0x0043 of one whose local strides are outside their limits: dword 0
names the record (R228, R229). -/
def layoutBad (j : Job) (comp : Bool) : Option (BitVec 16 × Dword) :=
  match j.record with
  | some l => if l.ok j.space comp then dwordBad 0 (!l.stridesOk) else some (0x0041, dw j.layoutNo)
  | none => none

/-- Checks of COPYIN and COPYOUT at the pop: dwords, record, then ranges (R228, R232). -/
def checkCopy (j : Job) : Option (BitVec 16 × Dword) :=
  let p := j.copyShape
  firstBad [dwordBad 1 (fld j.d1 63 45 != 0), dwordBad 2 (decide (0x180000 < p.len)),
    dwordBad 3 (fld j.d3 63 20 != 0 || (j.layoutNo == 0 && fld j.d3 15 0 != 0) || (!j.kflag 0 && fld j.d3 19 16 != 0)),
    layoutBad j false, dwordBad 1 (p.len != 0 && p.globalBad),
    if p.len = 0 then none else (p.localBad (localLimit (j.kflag 0))).map fun o => (0x0042, dw o)]

/-- How a chunk came out. -/
inductive ChunkEnd where
  | done
  /-- a page it cannot use -/
  | halt (page : Nat)
  /-- packets of it are on their way (R386) -/
  | remote

/-- Places of a chunk: global and local addresses of its bytes, rising (R231). -/
def Shape.chunk (p : Shape) (c : Nat) : List (Nat × Nat) :=
  (List.range (min 256 (p.stream - 256 * c))).filterMap fun i =>
    (p.place (256 * c + i)).map fun x => (x.1.toNat, x.2)

/-- Finds the pages of a chunk; the first that is not there, or takes no store, stops it (R228). -/
def Eng.pages (e : Eng) (d : DieId) (space : BitVec 16) (wr : Bool) :
    List (Nat × Nat) → List (Nat × Nat × Lease) → Eng × Except Nat (List (Nat × Nat × Lease))
  | [], acc => (e, .ok acc.reverse)
  | (g, o) :: r, acc =>
    match e.xlate d space g with
    | (e, .ok l) => if wr && !l.wr then (e, .error l.base.toNat) else Eng.pages e d space wr r ((g, o, l) :: acc)
    | (e, .error b) => (e, .error b)

/-- Bytes of a remote window that travel in one packet: remote address, local offset, count, peer and page base. -/
structure RemoteRun where
  va : Nat
  ofs : Nat
  n : Nat
  peer : BitVec 12
  page : Nat

/-- The packets of bytes in remote windows: bytes that follow one another on both sides, within 2 KiB of the remote
address space (R386, R394). -/
def remoteRuns : List (Nat × Nat × Lease) → List RemoteRun
  | [] => []
  | (g, o, l) :: r =>
    let x : RemoteRun := { va := l.frame.toNat % 2 ^ 45 + (g - l.base.toNat), ofs := o, n := 1, peer := l.frame.extractLsb' 45 12,
                           page := l.base.toNat }
    match remoteRuns r with
    | y :: t =>
      if y.va = x.va + 1 ∧ y.ofs = o + 1 ∧ y.page = x.page ∧ y.va % 2048 ≠ 0 then { x with n := y.n + 1 } :: t else x :: y :: t
    | [] => [x]

/-- Moves one chunk between global and local memory; bytes on pages of KIND 3 go by packets (R231, R235, R386). Side records move
as they stand, whatever their IGN and SC bits hold (log entry 60). -/
def Eng.copyChunk (e : Eng) (c : CoreId) (q : QueueId) (j : Job) (tile : Option TReg) (out : Bool) (xs : List (Nat × Nat)) :
    Eng × ChunkEnd :=
  match e.pages (dieOf c) j.space out xs [] with
  | (e, .error b) => (e, .halt b)
  | (e, .ok ys) =>
    let near := ys.filter fun y => y.2.2.kind != 3
    let far := remoteRuns (ys.filter fun y => y.2.2.kind == 3)
    let s := e.s.engAccess c j out (near.map fun y => (y.1, y.2.2))
    let s :=
      if out then s.engPut (s.privOn c) (near.map fun y => (y.1, y.2.2, (s.core c).localGet tile y.2.1))
      else near.foldl (fun (s : State) y => s.setCore c ((s.core c).localPut tile y.2.1 [e.s.engRead (e.s.privOn c) y.2.2 y.1])) s
    let s := far.foldl (fun (s : State) r =>
      let data := if out then (s.core c).localBytes tile r.ofs r.n else []
      let p := { emptyPacket (if out then .write else .read) with
        dst := r.peer, space := j.space, va := r.va, len := r.n, data := data }
      s.remoteOp (j.pusher c) (.job q j.id r.page r.ofs r.n) p) s
    ({ e with s := s }, if far.isEmpty then .done else .remote)

/-- The HALT of a chunk that cannot complete (R228, R235). -/
def haltEnd (j : Job) (c page : Nat) : JobEnd :=
  JobEnd.bad j .halt 0x0040 (dw (c % 2 ^ 24 + page / 65536 % 2 ^ 29 * 2 ^ 24))

/-- Runs the chunks of a job in order from its PCHUNK: each by `chunk`, until the last, a halt, or packets on their way;
then `fin` ends the job (R231, R235). -/
def runChunks (c : CoreId) (q : QueueId) (id : Word) (chunk : Nat → Eng → Eng × ChunkEnd) (fin : State → State) (j : Job) :
    Nat → Nat → Eng → Out
  | 0, _, e => e.out (fin (e.keep c q id))
  | left + 1, i, e =>
    match chunk i e with
    | (e, .done) => runChunks c q id chunk fin j left (i + 1) e
    | (e, .halt page) =>
      e.out (((e.keep c q id).updJob c q id fun j => { j with pchunk := BitVec.ofNat 24 i }).endJob c q j (haltEnd j i page))
    | (e, .remote) => e.out ((e.keep c q id).updJob c q id fun j => { j with pchunk := BitVec.ofNat 24 i })

/-- Chunks of a stream. -/
def chunksOf (n : Nat) : Nat := (n + 255) / 256

/-- A copy in either direction (R232): a tile it has written becomes full. -/
def copyJob (c : CoreId) (q : QueueId) (out : Bool) (e : Event) : State → Out :=
  runJob c q e fun j s =>
    let p := j.copyShape
    let tile := j.tileNo
    let n := if p.len = 0 then 0 else chunksOf p.stream
    let fin (s : State) := (if out then s else s.fillTile c tile).endJob c q j JobEnd.ok
    runChunks c q j.id (fun i e => e.copyChunk c q j tile out (p.chunk i)) fin j (n - j.pchunk.toNat) j.pchunk.toNat
      { s := s, ls := j.leases }

/-- COPYIN (R232). -/
def execCopyin (c : CoreId) (q : QueueId) : State → Out := copyJob c q false (.copyin c q)
/-- COPYOUT (R232). -/
def execCopyout (c : CoreId) (q : QueueId) : State → Out := copyJob c q true (.copyout c q)

/-! ### Writing a stream of bytes to global memory -/

/-- Writes one chunk of bytes to global memory from an address on (R231, R235). -/
def Eng.writeChunk (e : Eng) (c : CoreId) (q : QueueId) (j : Job) (va : Nat) (bs : List Byte) : Eng × ChunkEnd :=
  match e.pages (dieOf c) j.space true ((List.range bs.length).map fun i => (va + i, i)) [] with
  | (e, .error b) => (e, .halt b)
  | (e, .ok ys) =>
    let near := ys.filter fun y => y.2.2.kind != 3
    let s := (e.s.engAccess c j true (near.map fun y => (y.1, y.2.2))).engPut (e.s.privOn c)
      (near.map fun y => (y.1, y.2.2, (bs[y.2.1]?).getD 0))
    let far := remoteRuns (ys.filter fun y => y.2.2.kind == 3)
    let s := far.foldl (fun (s : State) r =>
      let p := { emptyPacket .write with
        dst := r.peer, space := j.space, va := r.va, len := r.n, data := (bs.drop r.ofs).take r.n }
      s.remoteOp (j.pusher c) (.job q j.id r.page r.ofs r.n) p) s
    ({ e with s := s }, if far.isEmpty then .done else .remote)

/-! ### FILL (R233) -/

/-- Checks of FILL at the pop (R228, R233). -/
def checkFill (j : Job) : Option (BitVec 16 × Dword) :=
  let tile := j.kflag 0
  let glob := j.kflag 2
  let len := fld j.d2 31 0
  firstBad [dwordBad 0 (tile && glob), dwordBad 1 (fld j.d1 63 45 != 0 || (!glob && fld j.d1 44 32 != 0)),
    dwordBad 1 (glob && decide (2 ^ 45 < fld j.d1 44 0 + len)),
    dwordBad 2 (fld j.d2 63 36 != 0 || (!tile && fld j.d2 35 32 != 0)),
    if glob then none else rangeBad (fld j.d1 31 0) len (localLimit tile)]

/-- Byte `i` of the pattern (R233). -/
def patByte (pat : Dword) (i : Nat) : Byte := pat.extractLsb' (8 * (i % 8)) 8

/-- FILL (R233). -/
def execFill (c : CoreId) (q : QueueId) : State → Out :=
  runJob c q (.fill c q) fun j s =>
    let len := fld j.d2 31 0
    let n := chunksOf len
    let bytes (i : Nat) := (List.range (min 256 (len - 256 * i))).map fun k => patByte j.d3 (256 * i + k)
    if j.kflag 2 then
      runChunks c q j.id (fun i e => e.writeChunk c q j (fld j.d1 44 0 + 256 * i) (bytes i))
        (fun s => s.endJob c q j JobEnd.ok) j (n - j.pchunk.toNat) j.pchunk.toNat { s := s, ls := j.leases }
    else
      let tile := j.tileNo
      let x := (List.range n).foldl (fun (x : Core) i => x.localPut tile (fld j.d1 31 0 + 256 * i) (bytes i)) (s.core c)
      .next (((s.setCore c x).fillTile c tile).endJob c q j JobEnd.ok)

/-! ### KPACK streams (R237 to R240) -/

/-- One step of CRC-32C on a byte, reflected (R237). -/
def crcStep (x : Word) : Nat → Word
  | 0 => x
  | n + 1 => crcStep (if x.getLsbD 0 then (x >>> 1) ^^^ 0x82F63B78#32 else x >>> 1) n

/-- CRC-32C (Castagnoli) of bytes (R237). -/
def crc32c (bs : List Byte) : Word := ~~~(bs.foldl (fun x b => crcStep (x ^^^ b.setWidth 32) 8) (BitVec.allOnes 32))

/-- Expands a chunk body; the flag says that a token reached past its end. The bytes that a literal cut off there has are decoded
bytes (R237, R239; log entry 69). -/
def expand : Nat → List Byte → List Byte × Bool
  | 0, bs => ([], !bs.isEmpty)
  | _ + 1, [] => ([], false)
  | n + 1, b :: r =>
    let k := b.toNat % 128 + 1
    if b.toNat < 128 then
      let (x, past) := expand n r
      (List.replicate k 0 ++ x, past)
    else if r.length < k then (r, true)
    else
      let (x, past) := expand n (r.drop k)
      (r.take k ++ x, past)

/-- A chunk as one fetch finds it (R237, R239). -/
structure KChunk where
  elen : Nat
  clen : Nat
  /-- its CLEN passes its test: it has a body -/
  bodyOk : Bool
  /-- its header passes the ELEN and CLEN tests -/
  headOk : Bool
  out : List Byte
  good : Bool

/-- Judges a chunk from its header and body; a header whose ELEN alone fails its test still has a body to decode (R239). -/
def judge (left : Nat) (hdr : Dword) (body : List Byte) : KChunk :=
  let elen := fld hdr 15 0
  let clen := fld hdr 31 16
  let bodyOk := clen != 0 && decide (clen ≤ 4129)
  let headOk := elen != 0 && decide (elen ≤ 4096) && decide (elen ≤ left) && bodyOk
  let (out, past) := expand (body.length + 1) body
  { elen := elen, clen := clen, bodyOk := bodyOk, headOk := headOk, out := out
    good := headOk && !past && out.length == elen && (crc32c out).toNat == fld hdr 63 32 }

/-- What stops a read of a stream. -/
inductive ReadStop where
  /-- a page that is not there -/
  | page (base : Nat)
  /-- an address beyond 2^45; the dword that names the stream -/
  | past (dword : Nat)
  /-- packets must bring bytes from a peer first (R386) -/
  | away (xs : List RemoteRun)

/-- The pages of bytes of global memory that an engine reads; the base of the first that is not there. -/
def Eng.readPlaces (e : Eng) (d : DieId) (space : BitVec 16) (va : Nat) : Nat → Eng × Except Nat (List (Nat × Lease))
  | 0 => (e, .ok [])
  | n + 1 =>
    match e.xlate d space va with
    | (e, .error b) => (e, .error b)
    | (e, .ok l) =>
      match Eng.readPlaces e d space (va + 1) n with
      | (e, .ok r) => (e, .ok ((va, l) :: r))
      | (e, .error p) => (e, .error p)

/-- A stream as one attempt reads it: the dword that names it, where it begins, and where the bytes that came from a peer for this
attempt are kept. -/
structure Source where
  dword : Nat
  va : Nat
  key : Nat

/-- Reads bytes of a stream by an engine, those in a remote window from what has come of them (R228, R386). -/
def Eng.readBytes (e : Eng) (c : CoreId) (j : Job) (x : Source) (ofs n : Nat) : Eng × Except ReadStop (List Byte) :=
  if 2 ^ 45 < x.va + ofs + n then (e, .error (.past x.dword))
  else
    match e.readPlaces (dieOf c) j.space (x.va + ofs) n with
    | (e, .error b) => (e, .error (.page b))
    | (e, .ok ys) =>
      let lacking := ys.filter fun y => y.2.kind == 3 && (Table.find j.inbuf (x.key + y.1)).isNone
      if !lacking.isEmpty then (e, .error (.away (remoteRuns (lacking.map fun y => (y.1, x.key + y.1, y.2)))))
      else
        let byte (y : Nat × Lease) : Byte :=
          if y.2.kind == 3 then Table.get 0 j.inbuf (x.key + y.1) else e.s.engRead (e.s.privOn c) y.2 y.1
        ({ e with s := e.s.engAccess c j false (ys.filter fun y => y.2.kind != 3) }, .ok (ys.map byte))

/-- Fetches a chunk of a stream (R239). -/
def Eng.fetchChunk (e : Eng) (c : CoreId) (j : Job) (x : Source) (ofs left : Nat) : Eng × Except ReadStop KChunk :=
  match e.readBytes c j x ofs 8 with
  | (e, .error b) => (e, .error b)
  | (e, .ok h) =>
    let hdr := dw (leNat h)
    let k := judge left hdr []
    if !k.bodyOk then (e, .ok k)
    else
      match e.readBytes c j x (ofs + 8) k.clen with
      | (e, .error b) => (e, .error b)
      | (e, .ok body) => (e, .ok (judge left hdr body))

/-- A chunk with its recoveries: again from the stream, then from the replica (R239). Answers whether a recovery came good. Of one
that is reported, the bytes and the next header are those of the second fetch from the stream (log entry 69). -/
def Eng.recoverChunk (e : Eng) (c : CoreId) (j : Job) (ofs left : Nat) : Eng × Except ReadStop (KChunk × Bool) :=
  let sva := fld j.d1 44 0
  let rva := fld j.d3 44 0
  match e.fetchChunk c j { dword := 1, va := sva, key := 0 } ofs left with
  | (e, .error b) => (e, .error b)
  | (e, .ok k) =>
    if k.good then (e, .ok (k, false))
    else
      match e.fetchChunk c j { dword := 1, va := sva, key := 2 ^ 46 } ofs left with
      | (e, .error b) => (e, .error b)
      | (e, .ok k2) =>
        if k2.good then (e, .ok (k2, true))
        else if rva = 0 then (e, .ok (k2, false))
        else
          match e.fetchChunk c j { dword := 3, va := rva, key := 2 ^ 47 } ofs left with
          | (e, .error b) => (e, .error b)
          | (e, .ok k3) => if k3.good then (e, .ok (k3, true)) else (e, .ok (k2, false))

/-- Local place of a byte of expanded output, or of source: flat, or by a record's rows with VROWS 0 (R238, R240). -/
def Job.localPlace (j : Job) (loff o : Nat) : Nat :=
  match j.record with
  | none => loff + o
  | some l => (({ layout := some l, gva := 0, loff := loff, len := 0, rows := l.total } : Shape).place o).elim loff (·.2)

/-- Writes expanded bytes at their places. -/
def Core.putPlaced (x : Core) (j : Job) (tile : Option TReg) (loff o : Nat) : List Byte → Core
  | [] => x
  | b :: r => Core.putPlaced (x.localPut tile (j.localPlace loff o) [b]) j tile loff (o + 1) r

/-- Checks DECODE and ENCODE share: `n` local bytes at LOFF, by a record with COMP = 1; the rows and side records beyond them are
not reached (R228, R238, R240). -/
def checkPack (j : Job) (loff n : Nat) : Option (BitVec 16 × Dword) :=
  let limit := localLimit (j.kflag 0)
  match j.record with
  | none => rangeBad loff n limit
  | some l =>
    let p : Shape := { layout := some l, gva := 0, loff := loff, len := n, rows := l.total }
    let body := min n (l.total * l.rowBytes)
    firstBad [dwordBad 2 (decide (p.stream < n)),
      (l.localBad loff (min limit (loff + n)) (body / l.rowBytes) (body % l.rowBytes) (n - body)).map fun o => (0x0042, dw o)]

/-- Checks of DECODE at the pop (R228, R238). -/
def checkDecode (j : Job) : Option (BitVec 16 × Dword) :=
  let total := fld j.d2 63 32
  firstBad [dwordBad 1 (fld j.d1 63 45 != 0), dwordBad 2 (decide ((if j.kflag 0 then 0x4000 else 0x180000) < total)),
    dwordBad 3 (fld j.d3 63 49 != 0 || (!j.kflag 0 && fld j.d3 48 45 != 0)), layoutBad j true,
    checkPack j (fld j.d2 31 0) total]

/-- What a DECODE has done: bytes produced, offset in the stream, and the DETAIL of the first reported chunk (R239). -/
structure Decoding where
  done : Nat
  ofs : Nat
  short : Option Dword

/-- A DECODE's progress is kept in its job: it goes on there byte for byte (R144, R236). -/
def Decoding.keep (w : Decoding) (inbuf : Table Byte) (j : Job) : Job :=
  { j with pchunk := BitVec.ofNat 24 (w.done / 256), resumeAt := dw w.ofs, made := w.done, short := w.short, inbuf := inbuf }

/-- Sends for the bytes of a stream that lie with a peer (R386). -/
def State.sendFor (s : State) (c : CoreId) (q : QueueId) (j : Job) (xs : List RemoteRun) : State :=
  xs.foldl (fun (s : State) r =>
    s.remoteOp (j.pusher c) (.job q j.id r.page r.ofs r.n)
      { emptyPacket .read with dst := r.peer, space := j.space, va := r.va, len := r.n }) s

/-- Decodes chunks until `total` bytes have been produced (R238, R239). A page that is not there halts the job at the
chunk; a stream that passes 2^45 ends it (R228); bytes that lie with a peer are waited for (R386). -/
def decodeFrom (c : CoreId) (q : QueueId) (tile : Option TReg) (total : Nat) : Nat → Job → Eng → Decoding → Out
  | 0, _, e, _ => e.out e.s
  | fuel + 1, j, e, w =>
    let kept (e : Eng) (b : Table Byte) : State := (e.keep c q j.id).updJob c q j.id (w.keep b)
    if total ≤ w.done then
      let s := (e.keep c q j.id).fillTile c tile
      match w.short with
      | none => e.out (s.endJob c q j JobEnd.ok)
      | some x => e.out (s.endJob c q j { JobEnd.bad j .incomplete 0x0044 x with drop := 0 })
    else
      match e.recoverChunk c j w.ofs (total - w.done) with
      | (e, .error (.page b)) => e.out ((kept e []).endJob c q j (haltEnd j (w.done / 256) b))
      | (e, .error (.past n)) => e.out ((kept e []).endJob c q j (JobEnd.bad j .fault 0x0043 (dw n)))
      | (f, .error (.away xs)) => e.out ((kept { e with ls := f.ls } j.inbuf).sendFor c q j xs)
      | (e, .ok (k, fixed)) =>
        let len := if k.headOk then k.elen else total - w.done
        let out := (k.out ++ List.replicate (len - k.out.length) 0).take len
        let s := if fixed then e.s.corr (j.pusher c) 1 else e.s
        let s := if k.good then s else s.drop (j.pusher c) 1
        let s := s.setCore c ((s.core c).putPlaced j tile (fld j.d2 31 0) w.done out)
        let w : Decoding :=
          { done := w.done + len, ofs := w.ofs + 8 + k.clen
            short := if k.good then w.short else some (w.short.getD (dw (len + k.out.length * 2 ^ 32))) }
        decodeFrom c q tile total fuel { j with inbuf := [] } { e with s := s } w

/-- DECODE (R238, R239); one that stopped goes on where it was (R144, R236, R386). -/
def execDecode (c : CoreId) (q : QueueId) : State → Out :=
  runJob c q (.decode c q) fun j s =>
    let total := fld j.d2 63 32
    decodeFrom c q j.tileNo total (total + 1) j { s := s, ls := j.leases } { done := j.made, ofs := j.resumeAt.toNat, short := j.short }

/-- Runs of a chunk: zero runs of two or more, and literal runs of the other bytes (R240). -/
def packRuns : List Byte → List (Bool × List Byte)
  | [] => []
  | b :: r =>
    match packRuns r with
    | (true, z) :: t => if b = 0 then (true, b :: z) :: t else (false, [b]) :: (true, z) :: t
    | (false, x :: y) :: t =>
      if b = 0 && x = 0 then
        -- a single zero begins the literal run after it: with this one it is a zero run
        match y with
        | [] => (true, [b, x]) :: t
        | _ => (true, [b, x]) :: (false, y) :: t
      else (false, b :: x :: y) :: t
    | (false, []) :: t => (false, [b]) :: t
    | [] => [(false, [b])]

/-- Tokens of 128 bytes of a run (R240). -/
def runTokens (zero : Bool) : Nat → List Byte → List Byte
  | 0, _ => []
  | n + 1, bs =>
    if bs.isEmpty then []
    else
      let x := bs.take 128
      (if zero then [BitVec.ofNat 8 (x.length - 1)] else BitVec.ofNat 8 (127 + x.length) :: x) ++ runTokens zero n (bs.drop 128)

/-- A chunk's header and body (R237, R240). -/
def packChunk (bs : List Byte) : List Byte :=
  let body := (packRuns bs).flatMap fun r => runTokens r.1 (r.2.length + 1) r.2
  leBytes 2 bs.length ++ leBytes 2 body.length ++ leBytes 4 (crc32c bs).toNat ++ body

/-- The stream of a buffer, by chunks of 4096 bytes (R240). -/
def packStream : Nat → List Byte → List Byte
  | 0, _ => []
  | n + 1, bs => if bs.isEmpty then [] else packChunk (bs.take 4096) ++ packStream n (bs.drop 4096)

/-- The most bytes that the stream of a buffer may have (R240). -/
def packBound (len : Nat) : Nat :=
  let chunk (n : Nat) : Nat := if n = 0 then 0 else n + (n + 127) / 128 + 9
  len / 4096 * chunk 4096 + chunk (len % 4096)

/-- Checks of ENCODE at the pop: DVA has room for the bound (R228, R240). -/
def checkEncode (j : Job) : Option (BitVec 16 × Dword) :=
  let len := fld j.d2 63 32
  firstBad [dwordBad 1 (decide (2 ^ 45 < fld j.d1 44 0 + packBound len)), dwordBad 1 (fld j.d1 63 45 != 0), dwordBad 2 (decide ((if j.kflag 0 then 0x4000 else 0x180000) < len)),
    dwordBad 3 (fld j.d3 63 49 != 0 || (!j.kflag 0 && fld j.d3 48 45 != 0) || decide (2 ^ 45 < fld j.d3 44 0 + 8)),
    layoutBad j true, checkPack j (fld j.d2 31 0) len]

/-- Chunks of a stream of bytes written to global memory, then the job's end. -/
def writeStream (c : CoreId) (q : QueueId) (j : Job) (va : Nat) (bs : List Byte) (fin : State → State) (s : State) : Out :=
  runChunks c q j.id (fun i e => e.writeChunk c q j (va + 256 * i) ((bs.drop (256 * i)).take 256)) fin j
    (chunksOf bs.length - j.pchunk.toNat) j.pchunk.toNat { s := s, ls := j.leases }

/-- ENCODE: the stream, and then its length (R240). The dword at CLVA is the chunk after the stream's last. -/
def execEncode (c : CoreId) (q : QueueId) : State → Out :=
  runJob c q (.encode c q) fun j s =>
    let len := fld j.d2 63 32
    let loff := fld j.d2 31 0
    let src := (List.range len).map fun o => (s.core c).localGet j.tileNo (j.localPlace loff o)
    let bs := packStream (len / 4096 + 1) src
    let dva := fld j.d1 44 0
    let clva := fld j.d3 44 0
    let n := chunksOf bs.length
    let chunk (i : Nat) (e : Eng) :=
      if i < n then e.writeChunk c q j (dva + 256 * i) ((bs.drop (256 * i)).take 256)
      else e.writeChunk c q j clva (leBytes 8 bs.length)
    runChunks c q j.id chunk (fun s => s.endJob c q j JobEnd.ok) j ((if clva = 0 then n else n + 1) - j.pchunk.toNat)
      j.pchunk.toNat { s := s, ls := j.leases }

/-! ### COMPACT (R241) -/

/-- Checks of COMPACT at the pop (R228, R241). -/
def checkCompact (j : Job) : Option (BitVec 16 × Dword) :=
  let src := fld j.d1 31 0
  let pitch := fld j.d1 63 32
  firstBad [dwordBad 1 (src % 8 != 0 || pitch % 8 != 0 || decide (pitch < 8)), dwordBad 2 (fld j.d2 63 45 != 0),
    dwordBad 3 (fld j.d3 63 18 != 0 || fld j.d3 15 0 == 0), rangeBad src (fld j.d3 15 0 * pitch) Config.spadBytes]

/-- Elements a slot gives, and whether it is truncated (R241). -/
def slotTake (x : Core) (slot pitch esz : Nat) : Nat × Bool :=
  let cnt := x.spadNat slot 4
  if pitch < 8 + cnt * esz then ((pitch - 8) / esz, true) else (cnt, false)

/-- COMPACT (R241). Its length depends on the counts, so a destination that passes 2^45 is found as it runs, before any byte is
written (log entry 74). -/
def execCompact (c : CoreId) (q : QueueId) : State → Out :=
  runJob c q (.compact c q) fun j s =>
    let x := s.core c
    let src := fld j.d1 31 0
    let pitch := fld j.d1 63 32
    let n := fld j.d3 15 0
    let esz := 2 ^ fld j.d3 17 16
    let slot (i : Nat) := src + i * pitch
    let bs := (List.range n).flatMap fun i => x.spad.bytes (slot i + 8) ((slotTake x (slot i) pitch esz).1 * esz)
    let cut := (List.range n).filter fun i => (slotTake x (slot i) pitch esz).2
    if 2 ^ 45 < fld j.d2 44 0 + bs.length then .next (s.endJob c q j (JobEnd.bad j .fault 0x0043 2))
    else
      let e : JobEnd := match cut with
        | [] => JobEnd.ok
        | i :: _ => { JobEnd.bad j .incomplete 0x0045 (dw i) with drop := cut.length }
      writeStream c q j (fld j.d2 44 0) bs (fun s => s.endJob c q j e) s

/-! ### QFENCE, the layout kinds and RESUME (R230, R234, R236) -/

/-- Checks of QFENCE at the pop (R234). -/
def checkQfence (j : Job) : Option (BitVec 16 × Dword) :=
  firstBad [dwordBad 1 (fld j.d1 63 9 != 0), dwordBad 2 (j.d2 != 0), dwordBad 3 (j.d3 != 0)]

/-- A recorded job has retired (R138, R234). -/
def Core.fenceDone (x : Core) (r : Nat × Word) : Bool :=
  if r.1 < 8 then (x.queue ⟨r.1 % 8, by omega⟩).retired r.2
  else match x.frame.job with
    | some f => f.id != r.2
    | none => true

/-- QFENCE: it waits, queued, for the jobs it recorded (R121, R234). -/
def execQfence (c : CoreId) (q : QueueId) (s : State) : Out :=
  match ((s.core c).queue q).work with
  | none => .next s
  | some j => if j.ending.isSome then .next s else .next (s.endJob c q j JobEnd.ok)

/-- Checks of LAYSET at the pop (R230). -/
def checkLayset (j : Job) : Option (BitVec 16 × Dword) :=
  firstBad [dwordBad 1 (fld j.d1 15 0 == 0 || fld j.d1 31 16 != 0 || fld j.d1 63 48 != 0),
    dwordBad 2 (fld j.d2 31 0 % 64 != 0 || fld j.d2 63 32 != 0), dwordBad 3 (j.d3 != 0), rangeBad (fld j.d2 31 0) 64 Config.spadBytes]

/-- LAYSET: the record goes into its entry; every later pop reads the table itself (R230). -/
def execLayset (c : CoreId) (q : QueueId) : State → Out :=
  runJob c q (.layset c q) fun j s =>
    let a := s.layoutAddr (j.d1.extractLsb' 32 16) (fld j.d1 15 0)
    let s := s.setPhys a 64 (leNat ((s.core c).spad.bytes (fld j.d2 31 0) 64))
    .next (s.endJob c q j JobEnd.ok)

/-- Checks of LAYSYNC at the pop (R230). -/
def checkLaysync (j : Job) : Option (BitVec 16 × Dword) :=
  firstBad [dwordBad 1 (fld j.d1 63 16 != 0), dwordBad 2 (j.d2 != 0), dwordBad 3 (j.d3 != 0)]

/-- LAYSYNC: the model's engines keep no copy of a record beyond a job's own, so none is left to discard (R230). -/
def execLaysync (c : CoreId) (q : QueueId) : State → Out :=
  runJob c q (.laysync c q) fun j s => .next (s.endJob c q j JobEnd.ok)

/-- Checks of RESUME at the pop (R236). -/
def checkResume (x : Core) (q : QueueId) (j : Job) : Option (BitVec 16 × Dword) :=
  firstBad [dwordBad 1 (fld j.d1 63 32 != 0), dwordBad 2 (j.d2 != 0), dwordBad 3 (j.d3 != 0),
    if ((x.queue q).haltedJob.map Job.id) == some (j.d1.setWidth 32) then none
    else some (0x0046, maskTo j.d1 31 0)]

/-- RESUME: the halted job goes on with the command captured at its pop (R236). -/
def execResume (c : CoreId) (q : QueueId) (s : State) : Out :=
  match ((s.core c).queue q).work with
  | none => .next s
  | some j => if j.ending.isSome then .next s else .next (s.due (kindEvent j.kind c q))

/-! ### TCLR (R107) -/

/-- A job of some queue has begun and writes a tile (R107). A halted job writes nothing until its `RESUME` (log entry 61). -/
def Core.tileJob (x : Core) (t : TReg) : Bool :=
  x.queues.toList.any fun q => q.jobs.any fun j => j.state == .running && j.kind != 2 && j.kind != 4 && j.tileNo == some t

/-- TCLR clears a tile's rows and bit, after a drain or a job that is writing it. -/
def execTclr (t : TReg) : State → Out :=
  issue (use0 2) fun s =>
    let x := s.here
    let drained := match x.frame.drain with
      | some d => d.tile == some t
      | none => false
    if drained || x.tileJob t || !x.tileChanges.isEmpty then .wait .interlock s
    else
      let x := { x with tiles := x.tiles.putBytes (tileRow t 0) (List.replicate 16384 0) }
      .next ((s.setHere (x.setTfull t false)).kick s.turn.core)

end Sys2Proof.Machine
end

