-- ==== Sys2Proof/Machine/Control.lean ====
section
/-!
DEFINITION. Branches, calls, the life of the strands, repeat counts and software traps (R96 to R104).
-/

namespace Sys2Proof.Machine

/-- Illegal operand (R110). -/
def illegalOperand : Body := .trap 0x0002 0 0

/-- A branch taken to `off` halfwords from the instruction: illegal operand outside the code space (R96). -/
def takeBranch {n : Nat} (off : BitVec n) (s : State) : Body :=
  let t := branchTarget s.me.pc off
  if t < 0 ∨ (Config.codeLimit : Int) ≤ t then illegalOperand else .jump s (BitVec.ofInt 64 t)

/-- BR (R96). -/
def execBr (n : Bool) (p : PReg) (o : BitVec 17) : State → Out :=
  issue (use0 2) fun s => if s.me.rp p != n then takeBranch o s else .next s

/-- The link of a call: its own byte address + 4 (R97). -/
def linkOf (s : State) : Dword := s.me.pc + 4

/-- CALL writes `g63` and branches (R97). -/
def execCall (o : BitVec 24) : State → Out :=
  issue (useD 2 63) fun s =>
    match takeBranch o s with
    | .jump s t => .jump (s.setMe (s.me.wg 63 (linkOf s))) t
    | r => r

/-- A register jump: the target is checked before any write (R40, R98). -/
def jumpTo (target : Dword) (s : State) : Body := if codeAddr target then .jump s target else illegalOperand

def execJr (a : GReg) (ta : Bool) : State → Out := issue (useS 2 [(a, ta)]) fun s => jumpTo (s.me.rg a) s
/-- JALR reads its target before it writes its link (R98). -/
def execJalr (d a : GReg) (ta : Bool) : State → Out :=
  issue (useR1 d a ta) fun s => jumpTo (s.me.rg a) (s.setMe (s.me.wg d (linkOf s)))
def execRet : State → Out := issue (useS 2 [(63, false)]) fun s => jumpTo (s.me.rg 63) s

/-- A strand as an instance start or a `SPAWN` leaves it (R20, R21, R35, R37, R118). Its SPACE is the instance's, whatever the
strand that spawned it has written to its own (log entry 50). -/
def Strand.start (entry arg : Dword) (i : Inst) (now : Dword) : Strand :=
  let z := Strand.reset
  let z := { z with
    life := .running, cond := .issuing, pc := entry,
    spr := { z.spr with cyc0 := now, space := i.space } }
  ((z.wg 1 arg).wg 2 (i.iid.setWidth 64)).wg 3 (i.count.setWidth 64)

/-- A strand begins to run. -/
def State.startStrand (s : State) (w : Who) (entry arg : Dword) : State :=
  let s := s.setStrand w (Strand.start entry arg (s.instOn w.core) s.now)
  { s with roster := s.roster ++ [w] }

/-- SPAWN (R37, R99). -/
def execSpawn (d a b : GReg) (ta tb : Bool) : State → Out :=
  issue { len := 2, on := [.s], src := [(a, ta), (b, tb), (d, false)], dst := [] } fun s =>
    let sid := s.me.rg d
    let entry := s.me.rg a
    if sid != 1 && sid != 2 then illegalOperand
    else
      let w : Who := ⟨s.turn.core, sidOf sid.toNat⟩
      if (s.strand w).life != .idle then illegalOperand
      else if !codeAddr entry then illegalOperand
      else .next (s.startStrand w entry (s.me.rg b))

/-- What follows when a strand has halted: queues with a halted job may drop theirs, and the instance may retire
(R39, R137). -/
def State.afterHalt (s : State) : State :=
  match s.here.inst with
  | some k =>
    (s.dueAll ((s.getInst k).cores.flatMap (fun c => (List.finRange 8).map fun q => .jobsDropped c q) ++ [.instanceRetire k])).settle k
  | none => s

/-- HALT: the strand issues nothing more in the instance (R39, R100). -/
def haltStrand (len : Nat) : State → Out :=
  issue (use0 len) fun s => .next (s.setMe { s.me with life := .halted, cond := .stopped }).afterHalt

def execHalt : State → Out := haltStrand 2
def execCHalt : State → Out := haltStrand 1

/-- A safe point with a live mask: SPCNT is 0, and the strand stops there when its instance must stop (R106, R120). -/
def safePoint (len : Nat) (mask : Dword) : State → Out :=
  issue { use0 len with safe := true } fun s =>
    let z := s.me
    let z := { z with spr := { z.spr with spcnt := 0 } }
    if s.myInst.stopping then .next (s.setMe { z with held := .atSafe mask, live := mask, cond := .stopped }).settleHere
    else .next (s.setMe z)

def execSafe (mask : Dword) : State → Out := safePoint 6 mask
/-- YIELD is SAFE with every mask bit set (R102). -/
def execYield : State → Out := safePoint 2 (BitVec.allOnes 64)
def execCYield : State → Out := safePoint 1 (BitVec.allOnes 64)

/-- SETRPT (R103). -/
def execSetrpt (a : GReg) (ta : Bool) : State → Out :=
  issue (useS 2 [(a, ta)]) fun s =>
    let z := s.me
    .next (s.setMe { z with spr := { z.spr with rc := (z.rg a).setWidth 32 } })

/-- TRAP raises the software trap after its own issue (R104). -/
def execTrap (n : BitVec 6) : State → Out := issue (use0 2) fun _ => .trapAfter 0x0004 (n.setWidth 8)
/-- BRK raises the breakpoint after its own issue (R104). -/
def execBrk (n : BitVec 6) : State → Out := issue (use0 2) fun _ => .trapAfter 0x0005 (n.setWidth 8)
def execCBrk : State → Out := issue (use0 1) fun _ => .trapAfter 0x0005 0

/-- NOP (R102). -/
def execNop : State → Out := issue (use0 2) .next
def execCNop : State → Out := issue (use0 1) .next

/-- A strand that `WAITSTR` need not wait for: it does not run and all it issued has completed (R38, R101). -/
def State.strandDone (s : State) (w : Who) : Bool := (s.strand w).life != .running && !s.inFlight w

/-- WAITSTR on S: mask bit 0 names V, bit 1 names M (R101). -/
def execWaitstr (m : BitVec 2) : State → Out :=
  issue { use0 2 with on := [.s] } fun s =>
    if (m.getLsbD 0 && !s.strandDone ⟨s.turn.core, .v⟩) || (m.getLsbD 1 && !s.strandDone ⟨s.turn.core, .m⟩)
    then .wait .strandWait s else .next s

/-- `C.BR` is `BR p0` (R51). -/
def execCBr (o : BitVec 12) : State → Out := issue (use0 1) (takeBranch o)

/-- A guard: whether its instruction executes is read now; the instruction follows in the same unit. A guard after a
guard is an illegal instruction (R33, R36). -/
def guardOn (hold : Bool) (s : State) : Out :=
  let z := s.me
  if z.guard.isSome then .next (s.trap 0x0001 0 0)
  else .next (s.setMe { z with guard := some hold, pc := z.pc + 2 })

def execCIf (p : PReg) (s : State) : Out := guardOn (s.me.rp p) s
def execCIfn (p : PReg) (s : State) : Out := guardOn (!s.me.rp p) s

end Sys2Proof.Machine
end

