-- ==== Sys2Proof/Machine/Fabric.lean ====
section
/-!
DEFINITION. The fabric: remote instructions, fabric jobs, packets at their destination and back, held requests, and the
flits of the links (R383 to R404).
-/

namespace Sys2Proof.Machine

/-! ### Completion of a remote operation (R389, R391, R392) -/

/-- A strand's operation was not OK: the first in issue order is kept, and counted (R392). -/
def Strand.remoteFailed (z : Strand) (tag : Word) (status : Nat) : Strand :=
  let p := z.spr
  let first := p.rfail == 0 || !countReached tag p.rtag
  { z with spr := { p with rcode := if first then BitVec.ofNat 8 status else p.rcode, rtag := if first then tag else p.rtag,
                           rfail := BitVec.ofNat 16 (holdAdd 0xFFFF p.rfail.toNat 1) } }

/-- A packet of a job has completed: its bytes, or its failure; after the last the job goes on. `ofs` is the stream offset
of a fabric job's packet, and the page of a copy's (R386, R394, R396). -/
def State.jobAnswer (s : State) (c : CoreId) (q : QueueId) (id : Word) (ofs local_ n status : Nat) (data : List Byte) : State :=
  match ((s.core c).queue q).jobs.find? fun j => j.id == id with
  | none => s
  | some j =>
    let s := if (status = 0 || (status = 6 && !j.copyKind)) && data != [] then
        if j.kind = 3 then s.updJob c q id fun j => { j with inbuf := ((data.take n).zipIdx local_).foldl (fun t x => Table.put t x.2 x.1) j.inbuf }
        else s.setCore c ((s.core c).localPut j.tileNo local_ (data.take n))
      else s
    let s := if status = 0 then s else s.updJob c q id fun j => { j with fails := j.fails ++ [(ofs, status)] }
    if s.jobRemotes c q id then s
    else
      let s := s.updJob c q id fun j => if j.copyKind && j.kind != 3 && j.fails.isEmpty then { j with pchunk := j.pchunk + 1 } else j
      match (((s.core c).queue q).jobs.find? fun j => j.id == id) with
      | some j =>
        if j.copyKind && !j.fails.isEmpty then
          let page := (j.fails.head?.map (·.1)).getD 0
          (s.updJob c q id fun j => { j with fails := [], inbuf := [] }).endJob c q j (haltEnd j j.pchunk.toNat page)
        else s.due (kindEvent j.kind c q)
      | none => s

/-- A remote operation ends with a status: it is forgotten, a failure is counted, and its result arrives (R389, R391). -/
def State.answerRemote (s : State) (r : Remote) (status : Nat) (data : List Byte) (aux : Dword) : State :=
  let s := { s with fab := { s.fab with remotes := s.fab.remotes.filter fun x => x.tag != r.tag } }
  let s := if status = 0 then s else s.drop r.who 1
  let fail (s : State) := if status = 0 then s else s.setStrand r.who ((s.strand r.who).remoteFailed r.tag status)
  match r.use with
  | .store => fail s
  | .load d => (fail s).whenReady (.gregFill r.who d (if status = 0 then dw (leNat data) else 0))
  | .atomic ret fadd =>
    let s := fail s
    let s := match ret with
      | some (off, n) => s.setCore r.who.core ((s.core r.who.core).setSpad off n (if status = 0 then leNat data else 0))
      | none => s
    if fadd && status == 0 then s.raise r.who (aux.setWidth 9) else s
  | .job q id ofs l n => s.jobAnswer r.who.core q id ofs l n status data

/-- A response arrives; the ROFF write of an atomic waits for the ranges that cover it (R141, R391). -/
def answered (x : Packet) (again : Event) (s : State) : Out :=
  match s.fab.remotes.find? fun r => r.tag == x.tag with
  | none => .next s
  | some r =>
    let held := match r.use with
      | .atomic (some (off, n)) _ => (s.core r.who.core).boarded true off n
      | _ => false
    if held then .next (s.timer (s.time.toNat + 1) again) else .next (s.answerRemote r x.status x.data x.aux)

/-- READRESP (R399). -/
def execReadresp (x : Packet) (s : State) : Out := answered x (.readresp x) s
/-- ATOMRESP; the flags of a FADD come in AUX (log entry 20). -/
def execAtomresp (x : Packet) (s : State) : Out := answered x (.atomresp x) s
/-- ACK (R399). -/
def execAck (x : Packet) (s : State) : Out := answered x (.ack x) s

/-- REMOTE_TIMEOUT: no answer 3 ms after issue is UNREACHABLE (R389). -/
def execRemoteTimeout (t : Word) (s : State) : Out :=
  match s.fab.remotes.find? fun r => r.tag == t with
  | none => .next s
  | some _ => answered { emptyPacket .ack with tag := t, status := 3 } (.remoteTimeout t) s

/-! ### Remote instructions (R390 to R392) -/

/-- Fields of the peer word (R390). -/
def pwPeer (pw : Dword) : BitVec 12 := pw.extractLsb' 0 12
def pwBytes (pw : Dword) : Nat := 2 ^ fld pw 13 12
def pwOp (pw : Dword) : Nat := fld pw 17 14
def pwRet (pw : Dword) : Bool := pw.getLsbD 18
def pwRoff (pw : Dword) : Nat := fld pw 63 32

/-- Checks that all three access instructions make (R391). -/
def remoteBad (va pw : Dword) : Bool :=
  decide (2 ^ 45 ≤ va.toNat) || va.toNat % pwBytes pw != 0 || fld pw 31 19 != 0

/-- A packet of a strand's access. -/
def remotePacket (k : PKind) (z : Strand) (va pw : Dword) : Packet :=
  { emptyPacket k with dst := pwPeer pw, space := z.spr.space, va := va.toNat, len := pwBytes pw, size := pw.extractLsb' 12 2 }

/-- Whether a strand may have one more remote operation (R391). -/
def State.remoteFull (s : State) : Bool := decide (64 ≤ s.remoteOut s.turn)

/-- FST (R221, R391). -/
def execFst (d a b : GReg) (ta tb : Bool) : State → Out :=
  issue (useS 2 [(a, ta), (b, tb), (d, false)]) fun s =>
    let va := s.me.rg a
    let pw := s.me.rg b
    if remoteBad va pw || fld pw 18 14 != 0 || pwRoff pw != 0 then .trap 0x0002 0 0
    else if s.remoteFull || s.me.flushing then .wait .interlock s
    else .next (s.remoteOp s.turn .store { remotePacket .write s.me va pw with data := leBytes (pwBytes pw) (s.me.rg d).toNat })

/-- FLD (R391). -/
def execFld (d a b : GReg) (ta tb : Bool) : State → Out :=
  issue (useR d a b ta tb) fun s =>
    let va := s.me.rg a
    let pw := s.me.rg b
    if remoteBad va pw || fld pw 18 14 != 0 || pwRoff pw != 0 then .trap 0x0002 0 0
    else if s.remoteFull then .wait .interlock s
    else .next ((s.setMe (s.me.empty d)).remoteOp s.turn (.load d) (remotePacket .read s.me va pw))

/-- FAMO's own checks of its peer word (R391). -/
def famoBad (d : GReg) (pw : Dword) : Bool :=
  let n := pwBytes pw
  decide (n < 4) || decide (12 < pwOp pw) || (decide (10 ≤ pwOp pw) && n == 8) || (pwOp pw == 9 && d == 63) ||
    (!pwRet pw && pwRoff pw != 0)

/-- FAMO: `g[D+1]` is read by a compare and swap alone, and an empty one blocks (R221, R391). -/
def execFamo (d a b : GReg) (ta tb : Bool) : State → Out :=
  issue (useS 2 [(a, ta), (b, tb), (d, false)]) fun s =>
    let z := s.me
    let va := z.rg a
    let pw := z.rg b
    let n := pwBytes pw
    let cas := pwOp pw == 9
    if remoteBad va pw || famoBad d pw then .trap 0x0002 0 0
    else if pwRet pw && !spadOk (pwRoff pw) n then spadError
    else if cas && !z.isFull (d + 1) then .wait .fullEmpty s
    else if s.remoteFull || s.me.flushing then .wait .interlock s
    else
      let p := { remotePacket .atomic z va pw with
        op := pw.extractLsb' 14 4, aux := lowBytes n (z.rg d), len := if cas then 8 else 0
        data := if cas then leBytes 8 (lowBytes n (z.rg (d + 1))).toNat else [] }
      .next (s.remoteOp s.turn (.atomic (if pwRet pw then some (pwRoff pw, n) else none) (pwOp pw == 10)) p)

/-- What `FFENCE` and `FWAIT` wait for (R392). -/
def State.remoteFenced (s : State) : Bool := s.remoteOut s.turn == 0 && s.fenced s.turn .package

/-- FFENCE (R392). -/
def execFfence : State → Out := issue (use0 2) fun s => if s.remoteFenced then .next s else .wait .fabricWait s

/-- FWAIT: the collected status goes to `g[D]` and FWST, and is cleared (R392). -/
def execFwait (d : GReg) : State → Out :=
  issue (useD 2 d) fun s =>
    if !s.remoteFenced then .wait .fabricWait s
    else
      let z := s.me
      let p := z.spr
      let z := { z with spr := { p with fwst := p.rcode, rcode := 0, rtag := 0, rfail := 0 } }
      .next (s.setMe (z.wg d (packFields [(p.rcode.toNat, 0), (p.rfail.toNat, 16)])))

/-! ### Fabric jobs (R394 to R396) -/

/-- Checks of RSEND and RFETCH at the pop (R396). -/
def checkRmove (j : Job) : Option (BitVec 16 × Dword) :=
  let len := fld j.d2 63 32
  firstBad [dwordBad 1 (fld j.d1 63 57 != 0 || decide (2 ^ 45 < fld j.d1 44 0 + len)), dwordBad 2 (decide (0x180000 < len)),
    dwordBad 2 (len != 0 && decide (len ≤ fld j.d3 31 0)), dwordBad 2 (decide (Config.spadBytes < fld j.d2 31 0 + len) && len != 0),
    dwordBad 3 (fld j.d3 63 32 != 0)]

/-- Checks of RSIGNAL at the pop (R395, R396). -/
def checkRsignal (j : Job) : Option (BitVec 16 × Dword) :=
  firstBad [dwordBad 1 (fld j.d1 63 29 != 0), dwordBad 2 (fld j.d2 63 16 != 0 || fld j.d2 15 0 == 0), dwordBad 3 (j.d3 != 0)]

/-- Packets of a move: stream offset and bytes, cut at every multiple of 2048 of the remote address (R394). -/
def cutPackets (rva len : Nat) : Nat → Nat → List (Nat × Nat)
  | 0, _ => []
  | fuel + 1, ofs =>
    if len ≤ ofs then []
    else
      let n := min (len - ofs) (2048 - (rva + ofs) % 2048)
      (ofs, n) :: cutPackets rva len fuel (ofs + n)

/-- The end of a fabric job (R396). -/
def fabricEnd (j : Job) : JobEnd :=
  match j.fails with
  | [] => JobEnd.ok
  | f :: r =>
    let low := r.foldl (fun (m : Nat × Nat) x => if x.1 < m.1 then x else m) f
    let detail := packFields [(low.1, 0), (low.2, 32)]
    let e := if j.fails.all fun x => x.2 == 6 then JobEnd.bad j .incomplete 0x0075 detail
      else JobEnd.bad j .fault (BitVec.ofNat 16 (0x0070 + low.2 - 1)) detail
    { e with drop := 0 }

/-- Issues the next packets of a move, sixteen at most; with none left, or one that was not performed, the job ends (R394,
R396). An `RSEND` reads no more once its last packet is sent (R141). -/
def moveJob (c : CoreId) (q : QueueId) (send : Bool) (e : Event) : State → Out :=
  runJob c q e fun j s =>
    let rva := fld j.d1 44 0
    let len := fld j.d2 63 32
    let loff := fld j.d2 31 0
    let all := if len = 0 then [] else cutPackets rva len (len / 2048 + 2) (fld j.d3 31 0)
    let next := (all.drop j.pchunk.toNat).take 16
    if next.isEmpty || j.fails.any (fun x => x.2 != 6) then .next (s.endJob c q j (fabricEnd j))
    else
      let s := s.updJob c q j.id fun j => { j with pchunk := j.pchunk + BitVec.ofNat 24 next.length }
      let s := if send && all.length ≤ j.pchunk.toNat + next.length then s.releaseReads c q j.id else s
      .next (next.foldl (fun (s : State) x =>
        let p := { emptyPacket (if send then .write else .read) with
          dst := j.d1.extractLsb' 45 12, space := j.space, va := rva + x.1, len := x.2
          data := if send then (s.core c).localBytes none (loff + x.1) x.2 else [] }
        s.remoteOp (j.pusher c) (.job q j.id x.1 (loff + x.1) x.2) p) s)

/-- RSEND (R394). -/
def execRsend (c : CoreId) (q : QueueId) : State → Out := moveJob c q true (.rsend c q)
/-- RFETCH (R394). -/
def execRfetch (c : CoreId) (q : QueueId) : State → Out := moveJob c q false (.rfetch c q)

/-- RSIGNAL (R395). -/
def execRsignal (c : CoreId) (q : QueueId) : State → Out :=
  runJob c q (.rsignal c q) fun j s =>
    if j.pchunk != 0 then .next (s.endJob c q j (fabricEnd j))
    else
      let p := { emptyPacket .signal with
        dst := j.d1.extractLsb' 0 12, space := j.space
        aux := packFields [(fld j.d1 20 12, 0), (fld j.d1 28 21, 9), (fld j.d2 15 0, 17)] }
      let s := s.updJob c q j.id fun j => { j with pchunk := 1 }
      .next (s.remoteOp (j.pusher c) (.job q j.id 0 0 0) p)

/-! ### Requests at their destination (R387, R388) -/

/-- A destination page fault's record, with the PEER and DIE of the translating die (R388, R407). -/
def State.destRecord (s : State) (d : DieId) (page : Nat) (p : Packet) : Rec :=
  { cause := 0x0076, sid := none, queue := 0, arg := 0, pc := 0, cid := dw (s.peer.toNat * 512 + d.val * 128), addr := dw page,
    detail := packFields [(p.src.toNat, 0), (p.space.toNat % 4096, 16)] }

/-- Held requests of a die on a page of a context. -/
def Die.heldOn (x : Die) (space : BitVec 16) (page : Nat) : List HeldReq :=
  x.heldReqs.filter fun h => h.pkt.space == space && h.page == page

/-- Held requests of every die on a page of a context (R388). -/
def State.heldOn (s : State) (space : BitVec 16) (page : Nat) : List (DieId × HeldReq) :=
  (List.finRange 4).flatMap fun d => ((s.die d).heldOn space page).map fun h => (d, h)

/-- A request has been answered: no step serves it any more. -/
def State.forget (s : State) (d : DieId) (p : Packet) : State :=
  let gone (e : Event) : Bool := (arrivalOf p d).contains e
  { s with agenda := s.agenda.filter fun e => !gone e, timers := s.timers.filter fun t => !gone t.2 }

/-- Answers every request held on a page with a status (R388). -/
def State.answerHeld (s : State) (space : BitVec 16) (page status : Nat) : State :=
  let drop (x : Die) : Die := { x with heldReqs := x.heldReqs.filter fun h => !(h.pkt.space == space && h.page == page) }
  let t : State := { s with dies := s.dies.map drop }
  (s.heldOn space page).foldl (fun (s : State) (h : DieId × HeldReq) => (s.forget h.1 h.2.pkt).respond h.1 h.2.pkt status [] 0) t

/-- A record awaits its handler for a page (R388). -/
def State.pageAwaits (s : State) (space : BitVec 16) (page : Nat) : Bool :=
  s.dist.awaiting.any fun a => a.page == some (space, page)

/-- One request comes before another of its requester, and both name an aligned 8-byte location (R393). -/
def precedes (q p : Packet) : Bool :=
  q.src == p.src && q.space == p.space && q.tag != p.tag && countReached p.tag q.tag &&
    decide (q.va / 8 ≤ (p.va + packetReach p - 1) / 8) && decide (p.va / 8 ≤ (q.va + packetReach q - 1) / 8)

/-- A step is to serve a request of some kind. -/
def Event.requests (f : Packet → Bool) : Event → Bool
  | .write _ q | .read _ q | .atomic _ q => f q
  | _ => false

/-- A request of some kind waits to be served, at any die. -/
def State.requestWaits (s : State) (f : Packet → Bool) : Bool :=
  s.agenda.any (Event.requests f) || s.timers.any fun t => Event.requests f t.2

/-- An earlier request of its requester to one of its locations is held, at any die: R385 may have moved one of them to another
sublink (R393). -/
def State.heldBefore (s : State) (p : Packet) : Bool := s.dies.toList.any fun x => x.heldReqs.any fun h => precedes h.pkt p

/-- Steps that are not due, and not put off, are due. -/
def State.dueNew (s : State) (es : List Event) : State :=
  s.dueAll (es.filter fun e => !s.agenda.contains e && !s.timers.any fun t => t.2 == e)

/-- Keeps a request among the held ones, until its 1 ms ends, within the limits; none beyond them (R388). -/
def State.keepRequest (s : State) (d : DieId) (p : Packet) (page : Nat) : Option State :=
  let x := s.die d
  let all := s.dies.toList.flatMap fun y => y.heldReqs
  let pages := (all.map fun h => (h.pkt.space, h.page)).eraseDups.length
  let til := (((x.arrived.find? fun y => y.1 == p).map (·.2)).getD s.time.toNat) + 1000000
  if x.heldReqs.any fun h => h.pkt == p then some s
  else if 4096 ≤ all.length ∨ (s.heldOn p.space page).isEmpty ∧ 64 ≤ pages then none
  else some ((s.setDie d { x with heldReqs := x.heldReqs ++ [{ id := x.nextReq, pkt := p, page := page, til := til }]
                                  nextReq := x.nextReq + 1, arrived := x.arrived.filter fun y => y.1 != p }).timer (til + 1)
    (.heldRequestTimeout d x.nextReq))

/-- A request is put off to the next cycle: the 1 ms of one that comes to be held counts from its first arrival (R388). -/
def State.putOff (s : State) (d : DieId) (p : Packet) (again : Event) : State :=
  let x := s.die d
  let s := if x.heldReqs.any (fun h => h.pkt == p) || x.arrived.any (fun y => y.1 == p) then s
    else s.setDie d { x with arrived := x.arrived ++ [(p, s.time.toNat)] }
  s.timer (s.time.toNat + 1) again

/-- A request is held no more, or no more put off; those that it held behind it are tried (R393). -/
def State.unhold (s : State) (d : DieId) (p : Packet) : State :=
  let x := s.die d
  let t := s.setDie d { x with heldReqs := x.heldReqs.filter fun h => h.pkt != p, arrived := x.arrived.filter fun y => y.1 != p }
  if x.heldReqs.any fun h => h.pkt == p then
    t.dueNew ((List.finRange 4).flatMap fun e =>
      ((s.die e).heldReqs.filter fun h => precedes p h.pkt).flatMap fun h => arrivalOf h.pkt e)
  else t

/-- A request is answered without being performed. -/
def State.turnAway (s : State) (d : DieId) (p : Packet) (status : Nat) : State := (s.unhold d p).respond d p status [] 0

/-- Holds a request on a page that is not there, within the limits, and posts a record for the page unless one is
awaiting its handler. One that is held again in the cycle in which its 1 ms ends is answered at once (R388, R405). -/
def State.holdRequest (s : State) (d : DieId) (p : Packet) (page : Nat) : State :=
  if (s.die d).heldReqs.any fun h => h.pkt == p && decide (h.til ≤ s.time.toNat) then s.turnAway d p 1
  else
    match s.keepRequest d p page with
    | none => s.turnAway d p 4
    | some s =>
      if s.pageAwaits p.space page then s
      else
        let s := s.keepPath s.rfreg
        let i := { Inst.none with leaf := BitVec.ofNat 32 s.rfreg, space := p.space }
        match s.postTo s.rfreg (s.destRecord d page p) i with
        | (s, some va, n) =>
          s.await { inst := none, region := n, addr := va, who := none, cause := 0x0076, page := some (p.space, page) }
        | (s, none, _) => s.answerHeld p.space page 1

/-- Holds a request behind an earlier one to the same location, until that has been answered (R393). -/
def State.holdBehind (s : State) (d : DieId) (p : Packet) : State :=
  match s.keepRequest d p (p.va / 65536 * 65536) with
  | none => s.turnAway d p 4
  | some t => t

/-- The translation of a request at its destination, kept in the die's destination cache (R387, R294). -/
def State.portXlate (s : State) (d : DieId) (space : BitVec 16) (va : Nat) : State × Except Nat Lease :=
  match s.portCached d space va with
  | some l => (s, .ok l)
  | none =>
    match s.walk d space va with
    | (s, { found := some (l, c), .. }) =>
      let x := s.die d
      let t : CachedTrans := { space := space, lease := l, cls := c }
      (s.setDie d { x with portTrans := t :: x.portTrans.filter fun y => !(y.space == space && y.lease.base == l.base) }, .ok l)
    | (s, { found := none, base := b }) => (s, .error b)

/-- A request reaches a home after its lease has ended (R289). -/
def State.requestLate (s : State) (l : Lease) (as : List Nat) : Bool :=
  as.any fun a => decide (l.expiry.toNat ≤ (s.dieTime (homeDie a)).toNat)

/-- A die's destination cache loses a translation. -/
def State.dropPortTrans (s : State) (d : DieId) (l : Lease) : State :=
  s.setDie d { s.die d with portTrans := (s.die d).portTrans.filter fun y => y.lease != l }

/-- Serves a request at die `d`: behind an earlier one of its requester to the same location (R393); translated there, held on a page
that is not there, denied where its page does not take it, and otherwise performed at its home, which takes it as any access and
returns one that comes too late to be translated again; a write for a home of another die goes once every write that its die has sent
or seen is known to be applied (R267, R272, R289, R387, R388, R393, R405). -/
def serveRequest (d : DieId) (p : Packet) (again : Event) (wr : Bool) (run : State → Lease → State) (s : State) : Out :=
  let later (s : State) : Out := .next (s.putOff d p again)
  if !s.fabricOn then .next (s.turnAway d p 3)
  else if s.heldBefore p then .next (s.holdBehind d p)
  else if s.requestWaits (fun q => precedes q p) || ((s.portCached d p.space p.va).isNone && s.walkStalls d p.space p.va) then later s
  else
    match s.portXlate d p.space p.va with
    | (s, .error page) => .next (s.holdRequest d p page)
    | (s, .ok l) =>
      let locs := s.requestLocs l p
      if l.kind == 3 || (wr && (!l.wr || l.kind == 2)) then .next (s.turnAway d p 2)
      else if !s.assigned (s.homeOf (l.at p.va)) then .fault .unassignedAddress
      else if s.dieWaits d locs || (wr && s.sending d && locs.any fun a => homeDie a != d) then later s
      else if locs.any s.taken || (locs.length == 1 && locs.any (s.passedBy (fabricPort d))) then later s
      else if s.requestLate l locs then later (s.dropPortTrans d l)
      else .next (run ((s.unhold d p).takeAll (fabricPort d) locs) l)

/-- What a request meets of errors at its destination, with whether a word had two wrong bits: counted in ERRSUM, and a record
for each such word under the policy of RFREG. The requester counts the drop (R280, R358, R389). -/
def State.requestErrors (s : State) (wr : Bool) (l : Lease) (va n : Nat) : State × Bool :=
  let xs := s.engBytes ((addrs va n).map fun a => (a, l))
  let lost := (s.meets wr xs).filter fun e => e.2.1
  let s := s.ownErrors wr (xs.map (·.1))
  (lost.foldl (fun (s : State) e => s.regionFault s.rfreg 0x005C (dw e.2.2)) s, !lost.isEmpty)

/-- Status of a request that was performed: OK, or DATAERR (R389). -/
def dataStatus (bad : Bool) : Nat := if bad then 6 else 0

/-- WRITE (R387). -/
def execWrite (d : DieId) (x : Packet) : State → Out :=
  serveRequest d x (.write d x) true fun s l =>
    let (s, bad) := s.requestErrors true l x.va x.data.length
    ((s.engWrite false l x.va x.data).ordered d true (s.requestLocs l x)).respond d x (dataStatus bad) [] 0

/-- READ (R387). -/
def execRead (d : DieId) (x : Packet) : State → Out :=
  serveRequest d x (.read d x) false fun s l =>
    let data := (List.range x.len).map fun i => s.engRead false l (x.va + i)
    let (s, bad) := s.requestErrors false l x.va x.len
    (s.ordered d false (s.requestLocs l x)).respond d x (dataStatus bad) data 0

/-- ATOMIC, with the table of R275 (R387, R391). -/
def execAtomic (d : DieId) (x : Packet) : State → Out :=
  serveRequest d x (.atomic d x) true fun s l =>
    match AmoOp.ofBits x.op with
    | none => s.respond d x 2 [] 0
    | some op =>
      let n := 2 ^ x.size.toNat
      let pa := s.homeOf (l.at x.va)
      if mgmtAddr pa then s.respond d x 0 (leBytes n 0) 0
      else
        let (s, bad) := s.requestErrors false l x.va n
        if bad then s.respond d x 6 (leBytes n 0) 0
        else
        let o := s.sound.nat pa n
        let (new, f) := amoNew op n o (lowBytes n x.aux).toNat (leNat (x.data.take n))
        let s := s.ordered d false [pa]
        let s := match new with
          | some z => (s.writeHome pa n z).ordered d true [pa]
          | none => s
        s.respond d x 0 (leBytes n o) (f.setWidth 64)

/-- SIGNAL: applied at a core that holds an instance of the packet's SPACE, not saved (R395). -/
def execSignal (d : DieId) (x : Packet) (s : State) : Out :=
  let c : CoreId := ⟨fld x.aux 8 0 % 512, by omega⟩
  let i := s.instOn c
  if !s.fabricOn then .next (s.respond d x 3 [] 0)
  else if (s.core c).inst.isSome && (i.status == .running || i.status == .suspended) && i.space == x.space then
    let sig : Signal := { set := false, k := x.aux.extractLsb' 9 8, n := fld x.aux 32 17, src := .fabric }
    .next ((s.signal c sig).respond d x 0 [] 0)
  else .next (s.respond d x 5 [] 0)

/-- HELD_REQUEST_TIMEOUT: a held request is answered REMOTEFAULT once the cycle has passed in which its 1 ms ends, as a retry in
that cycle is made (R388, R405; log entry 65). -/
def execHeldRequestTimeout (d : DieId) (n : Nat) (s : State) : Out :=
  match (s.die d).heldReqs.find? fun h => h.id == n with
  | none => .next s
  | some h =>
    .next (((s.forget d h.pkt).unhold d h.pkt).respond d h.pkt 1 [] 0)

/-! ### The links (R398 to R403) -/

/-- A link id (R400). -/
def linkId (peer : BitVec 12) (p : Port) (d : DieId) : Nat := peer.toNat * 2 ^ 20 + p.val * 2 ^ 17 + d.val * 2 ^ 15

/-- The IV of an invocation: link id and counter, most significant byte first (R400). -/
def linkIv (id counter : Nat) : List Byte := (leBytes 4 id).reverse ++ (leBytes 8 counter).reverse

/-- The header of a flit (R398). -/
def flitHeader (type : Nat) (slot first last nak : Bool) (seq ack : BitVec 12) (ctr : Nat) : Dword :=
  packFields [(type, 0), (bit01 slot, 4), (bit01 first, 5), (bit01 last, 6), (bit01 nak, 7), (seq.toNat, 8), (ack.toNat, 20),
    (ctr % 65536, 32)]

/-- Sends one flit under the active slot's key: it goes on the fibres, and the counter rises (R398, R400). -/
def State.sendFlit (s : State) (p : Port) (d : DieId) (key : BitVec 256) (type : Nat) (first last : Bool) (seq : BitVec 12)
    (plain : List Byte) : State :=
  let l := s.link p d
  let h := flitHeader type l.slot first last l.nak seq l.expect l.counter.toNat
  let out := Config.gcmSeal key (linkIv (linkId s.peer p d) l.counter.toNat) (dwordBytes [h]) plain
  let f : Flit := { header := h, cipher := (List.range 232).map out, tag := (List.range 16).map fun i => out (232 + i) }
  s.setLink p d { l with counter := l.counter + 1, nak := false, wire := some f }

/-- A DATA flit may be sent: the retry buffer has room, and the receiver's buffer, whose credit returns in ACK (R398; log entry
65). -/
def Link.credit (l : Link) : Bool := decide (l.retry.length < 512) && decide (l.retry.length ≤ Config.flitBuffer)

/-- A sublink has its port's other slot to switch to: it holds a key, which is not the one the sublink has left (R401). -/
def State.mayTurn (s : State) (p : Port) (d : DieId) : Bool :=
  let l := s.link p d
  (s.key p false (!l.slot)).isSome && !l.txOld

/-- Changes a port's counters. -/
def State.setPort (s : State) (p : Port) (f : PortStat → PortStat) : State :=
  { s with fab := { s.fab with ports := s.fab.ports.set p.val (f s.fab.ports[p]) p.isLt } }

/-- FLIT_SEND: one flit of a sublink: the marker at SWPT, a flit to be sent again, the next DATA flit while there is credit, or an
idle flit (R398, R401, R402, R406). -/
def execFlitSend (p : Port) (d : DieId) (s : State) : Out :=
  let l := s.link p d
  match s.key p false l.slot with
  | none => .next s
  | some k =>
    let idle (s : State) : State := s.sendFlit p d k.key 0 false false 0 (leBytes 2 l.figure ++ List.replicate 230 0)
    if !l.up || l.training then .next s
    else if l.counter = k.swpt then
      if !s.mayTurn p d then .next (s.setLink p d { l with swpend := true })
      else
        let s := (s.sendFlit p d k.key 2 false false 0 (List.replicate 232 0)).setPort p fun x => { x with slot := !l.slot }
        let l := s.link p d
        .next ((s.setLink p d { l with slot := !l.slot, swpend := false, txOld := true, farOld := false }).due (.flitSend p d))
    else
      let s := match l.again, l.outq with
        | (q, a, b, x) :: r, _ => (s.setLink p d { l with again := r }).sendFlit p d k.key 1 a b q x
        | [], (a, b, x) :: r =>
          if l.credit then
            let l := { l with outq := r, nextSeq := l.nextSeq + 1, retry := l.retry ++ [(l.nextSeq, a, b, x)] }
            (s.setLink p d l).sendFlit p d k.key 1 a b (l.nextSeq - 1) x
          else idle s
        | [], [] => idle s
      let l := s.link p d
      let more := !l.again.isEmpty || (!l.outq.isEmpty && l.credit) || l.nak
      .next (if more then s.due (.flitSend p d) else s)

/-- The far receiver of a sublink has switched to the sender's slot: the left slot may now be free (R401; log entry 66). -/
def execFarSwitch (p : Port) (d : DieId) (s : State) : Out :=
  let l := s.link p d
  .next (if l.txOld then (s.setLink p d { l with farOld := true }).vacate p false else s)

/-- The port at the other end. -/
def farPort (p : Port) : Port := portOf (if p.val % 2 = 0 then p.val + 1 else p.val - 1)

/-- The counter a receiver takes a flit to carry: the smallest above its last whose low bits match (R400). -/
def takeCounter (last : Option Nat) (low : Nat) : Nat :=
  let from_ := (last.map (· + 1)).getD 0
  from_ + (low + 65536 - from_ % 65536) % 65536

/-- A sublink retrains (R402). -/
def State.retrain (s : State) (p : Port) (d : DieId) : State :=
  let til := s.time.toNat + 100000
  let s := s.setPort p fun x => { x with retrains := BitVec.ofNat 16 (holdAdd 0xFFFF x.retrains.toNat 1) }
  (s.setLink p d { s.link p d with training := true, fails := 0 }).timer til (.retrainTimeout p d til)

/-- A flit that fails authentication is dropped; eight in a row retrain the sublink (R402). -/
def State.badFlit (s : State) (p : Port) (d : DieId) : State :=
  let s := s.setPort p fun x => { x with authfail := BitVec.ofNat 16 (holdAdd 0xFFFF x.authfail.toNat 1) }
  let l := s.link p d
  let s := s.setLink p d { l with fails := l.fails + 1, nak := true }
  if 8 ≤ l.fails + 1 then s.retrain p d else s.due (.flitSend p d)

/-- A packet from the bytes of its flits; none where its header holds a reserved value (a kind, a status of a response, an `OP`
of R275 that does not exist; a request has STATUS 0), or its flits are not as many as its length asks (R389, R399). -/
def parsePacket (bs : List Byte) (flits : Nat) : Option Packet :=
  let d (i : Nat) := bytesDword bs i
  match pkindOf (fld (d 0) 3 0) with
  | none => none
  | some k =>
    let len := fld (d 2) 11 0
    let data := if k == .read then 0 else len
    let request := k == .write || k == .read || k == .atomic || k == .signal || k == .steal
    if fld (d 0) 63 48 != 0 || fld (d 1) 63 45 != 0 || fld (d 2) 31 18 != 0 || decide (2048 < len) ||
        (request && fld (d 0) 7 4 != 0) || decide (6 < fld (d 0) 7 4) || (k == .atomic && decide (12 < fld (d 2) 17 14)) ||
        flits != max 1 ((32 + data + 231) / 232) then none
    else
      some { kind := k, status := fld (d 0) 7 4, src := (d 0).extractLsb' 8 12, dst := (d 0).extractLsb' 20 12,
             space := (d 0).extractLsb' 32 16, va := fld (d 1) 44 0, len := len, size := (d 2).extractLsb' 12 2,
             op := (d 2).extractLsb' 14 4, tag := (d 2).extractLsb' 32 32, aux := d 3, data := (bs.drop 32).take data }

/-- A whole packet goes to its step, or on towards its destination on the same sublink. While the fabric is not enabled no response is
served: its operation ends UNREACHABLE as its time is up (R383, R385, R389). -/
def State.deliver (s : State) (p : Port) (d : DieId) (flits : List (List Byte)) : State :=
  match parsePacket flits.flatten flits.length with
  | none => s.setPort p fun x => { x with badpkt := BitVec.ofNat 8 (holdAdd 0xFF x.badpkt.toNat 1) }
  | some k =>
    if k.dst != s.peer then s.emit d k
    else if k.kind == .steal then s.stealArrives p k
    else if !s.fabricOn && (responseOf k.kind).isNone then s
    else s.dueAll (arrivalOf k d)

/-- An authenticated flit. A DATA flit is answered by a flit that carries ACK and with it credit: an idle one where nothing else is
ready (R398, R402). -/
def State.goodFlit (s : State) (p : Port) (d : DieId) (h : Dword) (ctr : Nat) (plain : List Byte) : State :=
  let l := s.link p d
  let slot := h.getLsbD 4
  let l := { l with fails := 0, lastCounter := some ctr }
  let l := if slot != l.rxSlot then { l with rxSlot := slot, rxOld := true } else l
  let ack : BitVec 12 := h.extractLsb' 20 12
  let l := if h.getLsbD 7 then l
    else { l with retry := l.retry.filter fun x => (x.1 - ack).toNat < 2048 }
  let s := (s.setLink p d l).vacate p true
  let s := if h.getLsbD 7 then s.due (.nakReceive p d ack) else if l.outq.isEmpty then s else s.due (.flitSend p d)
  match fld h 3 0 with
  | 0 =>
    let s : State := { s with dist := { s.dist with figures := s.dist.figures.set p.val (some (leNat (plain.take 2))) p.isLt } }
    if s.plat.stealctl.getLsbD 0 then s.due .stealRequest else s
  | 1 =>
    let s := s.due (.flitSend p d)
    let l := s.link p d
    if h.extractLsb' 8 12 != l.expect then s
    else
      let parts := (if h.getLsbD 5 then [] else l.parts) ++ [plain]
      let s := s.setLink p d { l with expect := l.expect + 1, parts := if h.getLsbD 6 then [] else parts }
      if h.getLsbD 6 then s.deliver p d parts else s
  | 2 => let l := s.link p d; (s.setLink p d { l with rxSlot := !l.rxSlot, rxOld := true }).vacate p true
  | _ => s

/-- FLIT_RECEIVE: a flit is authenticated, and accepted or dropped (R400 to R402). -/
def execFlitReceive (p : Port) (d : DieId) (f : Flit) (s : State) : Out :=
  let l := s.link p d
  let slot := f.header.getLsbD 4
  if !l.up || l.training then .next s
  else
    let ctr := takeCounter l.lastCounter (fld f.header 47 32)
    let iv := linkIv (linkId (s.neighbour p) (farPort p) d) ctr
    let plain := if slot != l.rxSlot && l.rxOld then none
      else (s.key p true slot).bind fun k => Config.gcmOpen k.key iv (dwordBytes [f.header]) f.cipher f.tag
    match plain with
    | none => .next (s.badFlit p d)
    | some x => .next (s.goodFlit p d f.header ctr x)

/-- NAK_RECEIVE: the sender sends again from the flit that is expected (R402). -/
def execNakReceive (p : Port) (d : DieId) (ack : BitVec 12) (s : State) : Out :=
  let l := s.link p d
  let left := l.retry.filter fun x => (x.1 - ack).toNat < 2048
  .next ((s.setLink p d { l with retry := left, again := left }).due (.flitSend p d))

/-- RETRAIN_DONE: the sublink goes on, and sends again what was not acknowledged (R402). -/
def execRetrainDone (p : Port) (d : DieId) (s : State) : Out :=
  let l := s.link p d
  if l.training then
    let mine : Event → Bool
      | .retrainTimeout a b _ => a == p && b == d
      | _ => false
    let s := { s with timers := s.timers.filter fun t => !mine t.2 }
    .next ((s.setLink p d { l with training := false, again := l.retry }).due (.flitSend p d))
  else .next s

/-- A sublink has gone down: instances that its port's neighbour was granted may be lost (R341), and a request to a neighbour that
no sublink reaches any more is no longer outstanding (log entry 64). -/
def State.linkDown (s : State) (p : Port) : State :=
  let s := s.dueAll ((s.dist.given.filter fun x => x.2 == p).map fun x => .instanceRetire x.1)
  if s.dist.asked == some p && !(List.finRange 4).any (fun d => (s.link p d).up) then { s with dist := { s.dist with asked := none } } else s

/-- RETRAIN_TIMEOUT: a retrain that has not succeeded within 100 µs leaves the sublink down (R402). -/
def execRetrainTimeout (p : Port) (d : DieId) (til : Nat) (s : State) : Out :=
  let l := s.link p d
  if l.training && decide (til ≤ s.time.toNat) then
    .next ((s.setLink p d { l with training := false, up := false, retry := [], again := [], outq := [] }).linkDown p)
  else .next s

/-- The widest of 80, 60, 40 and 20 lanes that healthy lanes support; 0 below 20 (R384, R403). -/
def widthFor (lanes : Nat) : Nat := if lanes < 20 then 0 else min 80 (lanes / 20 * 20)

/-- LANE_REPAIR: a spare fibre replaces a lane's, while the pool has one; otherwise the direction has a healthy lane less and steps
to the widest width that those left support, and below 20 lanes it is down (R384, R403). -/
def execLaneRepair (p : Port) (tx : Bool) (d : DieId) (s : State) : Out :=
  let l := s.link p d
  if 0 < s.fab.spares then
    let l := if tx then { l with txSpares := l.txSpares + 1 } else { l with rxSpares := l.rxSpares + 1 }
    .next (({ s with fab := { s.fab with spares := s.fab.spares - 1 } } : State).setLink p d l)
  else
    let l := if tx then { l with txLanes := l.txLanes - 1, txWidth := widthFor (l.txLanes - 1) }
      else { l with rxLanes := l.rxLanes - 1, rxWidth := widthFor (l.rxLanes - 1) }
    .next ((s.setLink p d { l with up := l.up && l.txWidth != 0 && l.rxWidth != 0 }).linkDown p)

end Sys2Proof.Machine
end

