-- ==== Sys2Proof/Machine/Gather.lean ====
section
/-!
DEFINITION. The gather engine's kinds (R315 to R322).
-/

namespace Sys2Proof.Machine

/-- The payload of a gather kind (R316). -/
structure GPay where
  tva : Nat
  /-- bytes of a row -/
  row : Nat
  ioff : Nat
  nidx : Nat
  first : Nat
  loff : Nat
  ntab : Nat

def Job.gpay (j : Job) : GPay :=
  { tva := fld j.d1 44 0, row := 8 * fld j.d1 63 54, ioff := fld j.d2 31 0, nidx := fld j.d2 47 32, first := fld j.d2 63 48
    loff := fld j.d3 31 0, ntab := fld j.d3 63 32 }

/-- Checks of the gather kinds at the pop (R228, R316). -/
def checkGather (j : Job) : Option (BitVec 16 × Dword) :=
  let p := j.gpay
  firstBad [dwordBad 0 (j.kind == 0x12 && fld j.d0 13 12 == 3),
    dwordBad 1 (fld j.d1 53 45 != 0 || p.row == 0 || decide (4096 < p.row) || p.tva % 8 != 0),
    dwordBad 1 (decide (2 ^ 45 < p.tva + p.row * p.ntab)),
    dwordBad 2 (p.ioff % 4 != 0 || p.nidx == 0 || decide (p.nidx ≤ p.first)), dwordBad 3 (p.loff % 8 != 0 || p.ntab == 0),
    rangeBad p.ioff (4 * p.nidx) Config.spadBytes, rangeBad p.loff (p.row * p.nidx) Config.spadBytes]

/-- The index word of a position (R316). -/
def GPay.index (p : GPay) (x : Core) (i : Nat) : Nat := x.spadNat (p.ioff + 4 * i) 4

/-- A valid index (R317). -/
def GPay.valid (p : GPay) (x : Nat) : Bool := decide (x < p.ntab) && x != 0xFFFFFFFF
/-- An index out of range (R317). -/
def GPay.beyond (p : GPay) (x : Nat) : Bool := decide (p.ntab ≤ x) && x != 0xFFFFFFFF

/-- Positions examined with their index words, rising (R317). -/
def GPay.positions (p : GPay) (x : Core) : List (Nat × Nat) :=
  (List.range (p.nidx - p.first)).map fun i => (p.first + i, p.index x (p.first + i))

/-- Positions that order a job's rows: the first of each valid index, or for SCATTER the last (R317 to R320). -/
def orderPositions (last : Bool) (p : GPay) (xs : List (Nat × Nat)) : List (Nat × Nat) :=
  let ys := xs.filter fun x => p.valid x.2
  let keep (l : List (Nat × Nat)) := l.foldl (fun (acc : List (Nat × Nat)) x => if acc.any (fun y => y.2 == x.2) then acc else x :: acc) []
  if last then keep ys.reverse else (keep ys).reverse

/-- Byte address of a local row (R316). -/
def GPay.localRow (p : GPay) (i : Nat) : Nat := p.loff + p.row * i

/-- What stops a row: a page, that it takes no store, that it is a remote window (R321, R322). -/
structure RowStop where
  page : Nat
  nowr : Bool
  rwin : Bool

/-- The pages of a table row (R321). -/
def Eng.rowPages (e : Eng) (d : DieId) (space : BitVec 16) (wr : Bool) : List Nat → List (Nat × Lease) →
    Eng × Except RowStop (List (Nat × Lease))
  | [], acc => (e, .ok acc.reverse)
  | va :: r, acc =>
    match e.xlate d space va with
    | (e, .error b) => (e, .error { page := b, nowr := false, rwin := false })
    | (e, .ok l) =>
      if l.kind == 3 then (e, .error { page := l.base.toNat, nowr := false, rwin := true })
      else if wr && !l.wr then (e, .error { page := l.base.toNat, nowr := true, rwin := false })
      else Eng.rowPages e d space wr r ((va, l) :: acc)

/-- The addresses of a row's 8-byte locations. -/
def GPay.cells (p : GPay) (x : Nat) : List Nat := (List.range (p.row / 8)).map fun i => p.tva + p.row * x + 8 * i

/-- The end of a job that stopped at a position (R321, R322). -/
def gatherStop (j : Job) (pos lost : Nat) (r : RowStop) : JobEnd :=
  { JobEnd.bad j .fault 0x0061
      (packFields [(pos % 65536, 0), (r.page / 65536 % 2 ^ 29, 16), (bit01 r.nowr, 45), (bit01 r.rwin, 46)]) with drop := lost }

/-- The end of a job that went through its positions (R317, R322). -/
def gatherEnd (j : Job) (p : GPay) (xs : List (Nat × Nat)) (flags : Flags) : JobEnd :=
  let out := xs.filter fun x => p.beyond x.2
  match out with
  | [] => { JobEnd.ok with flags := flags }
  | x :: _ => { JobEnd.bad j .incomplete 0x0060 (packFields [(x.1 % 65536, 0), (x.2, 16)]) with drop := out.length, flags := flags }

/-- Out-of-range positions below a position. -/
def GPay.lostBefore (p : GPay) (xs : List (Nat × Nat)) (pos : Nat) : Nat :=
  (xs.filter fun x => decide (x.1 < pos) && p.beyond x.2).length

/-- The bytes of 8-byte cells on their pages. -/
def cellBytes (ls : List (Nat × Lease)) : List (Nat × Lease) := ls.flatMap fun y => (List.range 8).map fun k => (y.1 + k, y.2)

/-- Local rows of a GATHER in rising position: zeros, a row fetched once, or a copy of the first (R318). -/
def gatherRows (c : CoreId) (q : QueueId) (j : Job) (p : GPay) (all : List (Nat × Nat)) :
    List (Nat × Nat) → List (Nat × Nat) → Eng → Out
  | [], _, e => e.out ((e.keep c q j.id).endJob c q j (gatherEnd j p all 0))
  | (i, x) :: r, seen, e =>
    let put (e : Eng) (bs : List Byte) : Eng := { e with s := e.s.setCore c ((e.s.core c).localPut none (p.localRow i) bs) }
    if !p.valid x then gatherRows c q j p all r seen (put e (List.replicate p.row 0))
    else
      match seen.find? fun y => y.2 == x with
      | some y => gatherRows c q j p all r seen (put e ((e.s.core c).localBytes none (p.localRow y.1) p.row))
      | none =>
        match e.rowPages (dieOf c) j.space false (p.cells x) [] with
        | (e, .error b) => e.out ((e.keep c q j.id).endJob c q j (gatherStop j i (p.lostBefore all i) b))
        | (e, .ok ls) =>
          let bs := ls.flatMap fun y => (List.range 8).map fun k => e.s.engRead (e.s.privOn c) y.2 (y.1 + k)
          gatherRows c q j p all r ((i, x) :: seen) (put { e with s := e.s.engAccess c j false (cellBytes ls) } bs)

/-- GATHER (R318). -/
def execGather (c : CoreId) (q : QueueId) : State → Out :=
  runJob c q (.gather c q) fun j s =>
    let xs := j.gpay.positions (s.core c)
    gatherRows c q j j.gpay xs xs [] { s := s, ls := j.leases }

/-- Rows of a SCATTER or SCATADD in their order: each whole, or the job stops at its position (R319 to R321). -/
def scatterRows (c : CoreId) (q : QueueId) (j : Job) (p : GPay) (all : List (Nat × Nat))
    (row : Nat → Nat → List (Nat × Lease) → State → State × Flags) : List (Nat × Nat) → Flags → Eng → Out
  | [], f, e => e.out ((e.keep c q j.id).endJob c q j (gatherEnd j p all f))
  | (i, x) :: r, f, e =>
    match e.rowPages (dieOf c) j.space true (p.cells x) [] with
    | (e, .error b) => e.out ((e.keep c q j.id).endJob c q j { gatherStop j i (p.lostBefore all i) b with flags := f })
    | (e, .ok ls) =>
      let (s, g) := row i x ls e.s
      scatterRows c q j p all row r (f ||| g) { e with s := s }

/-- SCATTER: one 8-byte store for each location of a row (R319). -/
def execScatter (c : CoreId) (q : QueueId) : State → Out :=
  runJob c q (.scatter c q) fun j s =>
    let p := j.gpay
    let xs := p.positions (s.core c)
    let row (i _x : Nat) (ls : List (Nat × Lease)) (s : State) : State × Flags :=
      (ls.zipIdx.foldl (fun (s : State) y => (s.engAccess c j true (cellBytes [y.1])).engWrite (s.privOn c) y.1.2 y.1.1 ((s.core c).localBytes none (p.localRow i + 8 * y.2) 8)) s, 0)
    scatterRows c q j p xs row (orderPositions true p xs) 0 { s := s, ls := j.leases }

/-- Sum of an element over the positions of an index, from the first position's element (R320). -/
def sumElems (vt : Nat) : List Nat → Nat × Flags
  | [] => (0, 0)
  | a :: r => r.foldl (fun (acc : Nat × Flags) b =>
      match vt with
      | 0 => let (x, f) := fAdd FFmt.fp32 acc.1 b; (x, acc.2 ||| f)
      | 1 => ((acc.1 + b) % 2 ^ 32, acc.2)
      | _ => ((acc.1 + b) % 2 ^ 64, acc.2)) (a, 0)

/-- An engine's atomic of PACKAGE scope on a cell of a page (R275, R320). On a word with two wrong bits it is not performed
(R280). -/
def State.engAtomic (s : State) (c : CoreId) (j : Job) (op : AmoOp) (l : Lease) (va n v : Nat) : State × Flags :=
  let pa := s.homeOf (l.at va)
  let bad := s.badWord pa
  let s := s.engAccess c j false ((addrs va n).map fun a => (a, l))
  if mgmtAddr pa || bad then (s, 0)
  else
    let (new, f) := amoNew op n (s.sound.nat pa n) v 0
    match new with
    | some z => ((s.ordered (dieOf c) true [pa]).writeHome pa n z, f)
    | none => (s, f)

/-- SCATADD: the sums of each index's local rows, each element by one atomic (R320). -/
def execScatadd (c : CoreId) (q : QueueId) : State → Out :=
  runJob c q (.scatadd c q) fun j s =>
    let p := j.gpay
    let vt := fld j.d0 13 12
    let n := if vt = 2 then 8 else 4
    let op : AmoOp := if vt = 0 then .fadd else .add
    let x0 := s.core c
    let xs := p.positions x0
    let row (_i x : Nat) (ls : List (Nat × Lease)) (s : State) : State × Flags :=
      let rows := (xs.filter fun y => y.2 == x).map (·.1)
      ls.zipIdx.foldl (fun (acc : State × Flags) y =>
        (List.range (8 / n)).foldl (fun (acc : State × Flags) k =>
          let ofs := 8 * y.2 + n * k
          let (v, f) := sumElems vt (rows.map fun i => x0.spadNat (p.localRow i + ofs) n)
          let (s, g) := acc.1.engAtomic c j op y.1.2 (y.1.1 + n * k) n v
          (s, acc.2 ||| f ||| g)) acc) (s, 0)
    scatterRows c q j p xs row (orderPositions false p xs) 0 { s := s, ls := j.leases }

end Sys2Proof.Machine
end

