-- ==== Sys2Proof/Machine/Merge.lean ====
section
/-!
DEFINITION. The merge engine's kinds (R256 to R262).
-/

namespace Sys2Proof.Machine

/-- What a merge job works with: its command and its parameter block (R257, R258). -/
structure Merge where
  rpa : Nat
  ia : Nat
  va : Nat
  rpb : Nat
  ib : Nat
  vb : Nat
  ncols : Nat
  nrows : Nat
  oidx : Nat
  ipitch : Nat
  oval : Nat
  vpitch : Nat
  madd : Bool
  /-- MADD: integers; KEEPZ; NEGB. MUNION: ISECT -/
  int : Bool
  keepz : Bool
  negb : Bool
  isect : Bool

/-- The parameter block of a merge job, read as the job is popped (R257). -/
def mergeBlock (x : Core) (j : Job) : List Byte := x.spad.bytes (fld j.d1 31 0) 32

def Job.merge (j : Job) : Merge :=
  let b (i : Nat) := bytesDword j.params i
  { rpa := fld (b 0) 31 0, ia := fld (b 0) 63 32, va := fld (b 1) 31 0, rpb := fld (b 1) 63 32, ib := fld (b 2) 31 0
    vb := fld (b 2) 63 32, ncols := fld (b 3) 31 0, nrows := fld j.d1 47 32, oidx := fld j.d2 31 0, ipitch := fld j.d2 63 32
    oval := fld j.d3 31 0, vpitch := fld j.d3 63 32, madd := j.kind == 0x20, int := fld j.d0 13 12 == 1, keepz := j.kflag 2
    negb := j.kflag 3, isect := j.kflag 0 }

/-- Checks of MADD and MUNION at the pop (R228, R257, R258, R261). NROWS of dword 1 takes part in the ends of the write ranges. -/
def checkMerge (j : Job) : Option (BitVec 16 × Dword) :=
  let m := j.merge
  let pitch (p : Nat) := p % 8 != 0 || decide (p < 8)
  let pblk := fld j.d1 31 0
  firstBad [dwordBad 0 (m.madd && decide (2 ≤ fld j.d0 13 12)),
    dwordBad 1 (pblk % 32 != 0 || m.nrows == 0 || fld j.d1 63 48 != 0 || decide (Config.spadBytes < pblk + 32) ||
      decide (Config.spadBytes < m.oidx + m.nrows * m.ipitch) || (m.madd && decide (Config.spadBytes < m.oval + m.nrows * m.vpitch))),
    dwordBad 2 (m.oidx % 8 != 0 || pitch m.ipitch),
    dwordBad 3 (if m.madd then m.oval % 8 != 0 || pitch m.vpitch else j.d3 != 0)]

/-- Checks of a parameter block as it is read (R228, R257). -/
def checkBlock (j : Job) : Option (BitVec 16 × Dword) :=
  let m := j.merge
  dwordBad 1 (fld (bytesDword j.params 3) 63 32 != 0 || m.ncols == 0 ||
    ([m.rpa, m.ia, m.rpb, m.ib] ++ (if m.madd then [m.va, m.vb] else [])).any fun a => a % 4 != 0)

/-- A fault of one operand's entry (R261). -/
structure MFault where
  b : Bool
  kind : Nat

/-- Reads a word of scratchpad; none beyond it (R261). -/
def Core.word? (x : Core) (a : Nat) : Option Nat := if a + 4 ≤ Config.spadBytes then some (x.spadNat a 4) else none

/-- What stands at a row's place in one operand: its index, and its value. Both are read and checked as the entry is compared, whether
or not the row comes to use the value (log entry 73). -/
def mergeEntry (x : Core) (m : Merge) (b : Bool) (e : Nat) (prev : Option Nat) : Except MFault (Nat × Nat) :=
  match x.word? ((if b then m.ib else m.ia) + 4 * e) with
  | none => .error { b := b, kind := 3 }
  | some i =>
    if prev.any fun p => decide (i ≤ p) then .error { b := b, kind := 0 }
    else if m.ncols ≤ i then .error { b := b, kind := 1 }
    else if !m.madd then .ok (i, 0)
    else
      match x.word? ((if b then m.vb else m.va) + 4 * e) with
      | none => .error { b := b, kind := 3 }
      | some v => .ok (i, v)

/-- NEGB's change of a value of B; a NaN becomes the canonical NaN (R63, R259). -/
def Merge.nb (m : Merge) (v : Nat) : Nat :=
  if !m.negb then v
  else if m.int then (2 ^ 32 - v) % 2 ^ 32
  else if FFmt.decode FFmt.fp32 v == FVal.nan then packNan FFmt.fp32
  else if 2 ^ 31 ≤ v then v - 2 ^ 31 else v + 2 ^ 31

/-- Sum of two values (R259). -/
def Merge.add (m : Merge) (a b : Nat) : Nat × Flags :=
  if m.int then ((a + b) % 2 ^ 32, 0) else fAdd FFmt.fp32 a b

/-- A value that KEEPZ = 0 drops (R259). -/
def Merge.zero (m : Merge) (v : Nat) : Bool := v == 0 || (!m.int && v == 2 ^ 31)

/-- What a row has come to. -/
structure MRow where
  x : Core
  cnt : Nat := 0
  flags : Flags := 0
  cut : Bool := false
  fault : Option MFault := none

/-- Emits an entry into its row's slots, while they have room (R260). -/
def MRow.emit (w : MRow) (m : Merge) (r c v : Nat) : MRow :=
  let cap := ((if m.madd then min m.ipitch m.vpitch else m.ipitch) - 8) / 4
  if cap ≤ w.cnt then { w with cut := true }
  else
    let x := w.x.setSpad (m.oidx + r * m.ipitch + 8 + 4 * w.cnt) 4 c
    let x := if m.madd then x.setSpad (m.oval + r * m.vpitch + 8 + 4 * w.cnt) 4 v else x
    { w with x := x, cnt := w.cnt + 1 }

/-- Merges the entries of a row (R259, R261). The fault of A is the one reported where both operands have one. -/
def mergeRow (m : Merge) (r ie je : Nat) : Nat → Nat → Nat → Option Nat → Option Nat → MRow → MRow
  | 0, _, _, _, _, w => w
  | fuel + 1, i, j, pa, pb, w =>
    if ie ≤ i ∧ je ≤ j then w
    else
      let a := if i < ie then some (mergeEntry w.x m false i pa) else none
      let b := if j < je then some (mergeEntry w.x m true j pb) else none
      match a, b with
      | some (.error f), _ => { w with fault := some f }
      | _, some (.error f) => { w with fault := some f }
      | some (.ok (ca, va)), some (.ok (cb, vb)) =>
        if ca < cb then
          mergeRow m r ie je fuel (i + 1) j (some ca) pb (if !m.madd && m.isect || m.madd && !m.keepz && m.zero va then w else w.emit m r ca va)
        else if cb < ca then
          let v := m.nb vb
          mergeRow m r ie je fuel i (j + 1) pa (some cb) (if !m.madd && m.isect || m.madd && !m.keepz && m.zero v then w else w.emit m r cb v)
        else
          let (v, f) := if m.madd then m.add va (m.nb vb) else (0, 0)
          let w := { w with flags := w.flags ||| f }
          mergeRow m r ie je fuel (i + 1) (j + 1) (some ca) (some cb) (if m.madd && !m.keepz && m.zero v then w else w.emit m r ca v)
      | some (.ok (ca, va)), none =>
        mergeRow m r ie je fuel (i + 1) j (some ca) pb (if !m.madd && m.isect || m.madd && !m.keepz && m.zero va then w else w.emit m r ca va)
      | none, some (.ok (cb, vb)) =>
        let v := m.nb vb
        mergeRow m r ie je fuel i (j + 1) pa (some cb) (if !m.madd && m.isect || m.madd && !m.keepz && m.zero v then w else w.emit m r cb v)
      | none, none => w

/-- One row: its pointers, its entries and its counts (R259, R261). -/
def mergeOne (m : Merge) (r : Nat) (w : MRow) : MRow :=
  let w := { w with cnt := 0, cut := false, fault := none }
  let ptr (base : Nat) (b : Bool) : Except MFault (Nat × Nat) :=
    match w.x.word? (base + 4 * r), w.x.word? (base + 4 * (r + 1)) with
    | some lo, some hi => if hi < lo then .error { b := b, kind := 2 } else .ok (lo, hi)
    | _, _ => .error { b := b, kind := 3 }
  let w := match ptr m.rpa false, ptr m.rpb true with
    | .ok (i, ie), .ok (j, je) => mergeRow m r ie je (ie - i + (je - j) + 1) i j none none w
    | .error f, _ => { w with fault := some f }
    | _, .error f => { w with fault := some f }
  let x := w.x.setSpad (m.oidx + r * m.ipitch) 8 w.cnt
  { w with x := if m.madd then x.setSpad (m.oval + r * m.vpitch) 8 w.cnt else x }

/-- The first row truncated or faulted, and how many items were lost (R260, R261). -/
structure MLoss where
  first : Option (Nat × Option MFault) := none
  drop : Nat := 0

/-- The rows in rising order; a row that both truncates and faults counts as faulted (R259, R261). -/
def mergeRows (m : Merge) : List Nat → MRow → MLoss → MRow × MLoss
  | [], w, l => (w, l)
  | r :: rs, w, l =>
    let w := mergeOne m r w
    let hit := w.cut || w.fault.isSome
    mergeRows m rs w
      { first := if hit then some (l.first.getD (r, w.fault)) else l.first
        drop := l.drop + (if hit then 1 else 0) }

/-- A merge job: every row, and one record for the first that was truncated or faulted (R261). -/
def mergeJob (c : CoreId) (q : QueueId) (e : Event) : State → Out :=
  runJob c q e fun j s =>
    let m := j.merge
    let (w, l) := mergeRows m (List.range m.nrows) { x := s.core c } {}
    let k := clusterOf c
    let s := s.setCore c w.x
    let s := { s with clusters := s.clusters.set k.val { s.clusters[k] with mergeLast := coreInCluster c } k.isLt }
    let fin : JobEnd := match l.first with
      | none => JobEnd.ok
      | some (r, none) => JobEnd.bad j .incomplete 0x0058 (dw r)
      | some (r, some f) => JobEnd.bad j .incomplete 0x0059 (packFields [(r, 0), (bit01 f.b, 32), (f.kind, 33)])
    .next (s.endJob c q j { fin with flags := w.flags, drop := l.drop })

/-- MADD (R259). -/
def execMadd (c : CoreId) (q : QueueId) : State → Out := mergeJob c q (.madd c q)
/-- MUNION (R259). -/
def execMunion (c : CoreId) (q : QueueId) : State → Out := mergeJob c q (.munion c q)

/-- Checks of MPFX at the pop (R228, R262). -/
def checkMpfx (j : Job) : Option (BitVec 16 × Dword) :=
  let src := fld j.d1 31 0
  let stride := fld j.d1 63 32
  let dst := fld j.d2 31 0
  let n := fld j.d2 47 32
  let span := (n - 1) * stride + 4
  firstBad [dwordBad 1 (src % 4 != 0 || stride % 4 != 0 || decide (stride < 4)),
    dwordBad 2 (dst % 4 != 0 || n == 0 || fld j.d2 63 48 != 0), dwordBad 3 (fld j.d3 63 32 != 0),
    dwordBad 1 (decide (Config.spadBytes < src + span) || overlap src span dst (4 * n + 4)),
    dwordBad 2 (decide (Config.spadBytes < dst + 4 * n + 4))]

/-- The output words of MPFX (R262). -/
def prefixSums (x : Core) (src stride dst : Nat) : Nat → Nat → Nat → Core → Core
  | 0, k, sum, y => y.setSpad (dst + 4 * k) 4 sum
  | n + 1, k, sum, y =>
    prefixSums x src stride dst n (k + 1) ((sum + x.spadNat (src + k * stride) 4) % 2 ^ 32) (y.setSpad (dst + 4 * k) 4 sum)

/-- MPFX (R262). -/
def execMpfx (c : CoreId) (q : QueueId) : State → Out :=
  runJob c q (.mpfx c q) fun j s =>
    let x := s.core c
    let y := prefixSums x (fld j.d1 31 0) (fld j.d1 63 32) (fld j.d2 31 0) (fld j.d2 47 32) 0 (fld j.d3 31 0) x
    let k := clusterOf c
    let s := s.setCore c y
    .next (({ s with clusters := s.clusters.set k.val { s.clusters[k] with mergeLast := coreInCluster c } k.isLt } : State).endJob c q j JobEnd.ok)

end Sys2Proof.Machine
end

