-- ==== Sys2Proof/Machine/Names.lean ====
section
/-!
DEFINITION. Content-named memory: regions, names and holds, the content-named instructions and their engine, reclaim, and
the bulk commands (R360 to R382).
-/

namespace Sys2Proof.Machine

/-! ### Regions and their tables (R360, R361) -/

/-- A region whose descriptor is well formed (R360). -/
structure NameRegion where
  frame : Nat
  kslot : Nat
  ntlog : Nat
  table : Nat
  store : Nat
  lines : Nat
deriving DecidableEq, Repr, Inhabited

/-- A physical range lies within the HBM and vault ranges, in no excluded stack and at no fenced die (R343, R360, R382). -/
def State.rangeHome (s : State) (base n : Nat) : Bool :=
  decide (base + n ≤ 0xC0C0000000) &&
    (List.range 16).all (fun k => !overlap base n (k * 0xC00000000) 0xC00000000 ||
      (!s.plat.excluded.getLsbD k && !(s.die ⟨k / 4 % 4, by omega⟩).fenced)) &&
    (List.range 4).all (fun k => !overlap base n (0xC000000000 + k * 0x30000000) 0x30000000 || !(s.die ⟨k % 4, by omega⟩).fenced)

/-- The region at a page frame; none where its descriptor is malformed (R360). -/
def State.nameRegion (s : State) (frame : Nat) : Option NameRegion :=
  let d (i : Nat) := s.physDword (frame + 8 * i)
  let r : NameRegion := { frame := frame, kslot := fld (d 0) 15 8, ntlog := fld (d 0) 20 16, table := fld (d 1) 47 12 * 4096,
                          store := fld (d 2) 47 7 * 128, lines := fld (d 3) 31 0 }
  if (d 0).getLsbD 0 && fld (d 0) 7 1 == 0 && fld (d 0) 63 21 == 0 && fld (d 1) 11 0 == 0 && fld (d 1) 63 48 == 0 &&
      fld (d 2) 6 0 == 0 && fld (d 2) 63 48 == 0 && fld (d 3) 63 32 == 0 && fld (d 5) 63 32 == 0 &&
      (List.range 24).all (fun i => d (8 + i) == 0) && decide (8 ≤ r.ntlog) && decide (r.ntlog ≤ 30) &&
      s.rangeHome r.table (32 * 2 ^ r.ntlog) && s.rangeHome r.store (128 * r.lines)
  then some r else none

/-- An entry of the name table, with its place (R361). -/
structure NameEntry where
  idx : Nat
  name : Nat
  count : Nat
  live : Bool
  vacant : Bool
  int : Bool
  line : Nat
deriving DecidableEq, Repr, Inhabited

/-- Address of an entry (R361). -/
def NameRegion.entryAddr (r : NameRegion) (i : Nat) : Nat := r.table + 32 * (i % 2 ^ r.ntlog)
/-- Address of a line of the store (R361). -/
def NameRegion.lineAddr (r : NameRegion) (i : Nat) : Nat := r.store + 128 * i

def State.nameEntry (s : State) (r : NameRegion) (i : Nat) : NameEntry :=
  let a := r.entryAddr i
  let w := s.physDword (a + 16)
  { idx := i % 2 ^ r.ntlog, name := s.physNat a 16, count := fld w 31 0, live := w.getLsbD 32, vacant := w.getLsbD 33,
    int := w.getLsbD 34, line := s.physNat (a + 24) 4 }

/-- An empty entry ends a probe (R361). -/
def NameEntry.empty (e : NameEntry) : Bool := !e.live && !e.vacant

/-- Writes an entry at its place. -/
def State.putEntry (s : State) (r : NameRegion) (e : NameEntry) : State :=
  let a := r.entryAddr e.idx
  ((s.setPhys a 16 e.name).setPhys (a + 16) 8
    (packFields [(e.count, 0), (bit01 e.live, 32), (bit01 e.vacant, 33), (bit01 e.int, 34)]).toNat).setPhys (a + 24) 8 e.line

/-- The entries a probe visits before the first that is empty, and that one (R361). -/
def State.probeFrom (s : State) (r : NameRegion) : Nat → Nat → List NameEntry × Option NameEntry
  | 0, _ => ([], none)
  | n + 1, i =>
    let e := s.nameEntry r i
    if e.empty then ([], some e)
    else
      let (es, z) := State.probeFrom s r n (i + 1)
      (e :: es, z)

/-- The probe of a hash (R361). -/
def State.nameProbe (s : State) (r : NameRegion) (hash : Nat) : List NameEntry × Option NameEntry :=
  s.probeFrom r 64 (hash % 2 ^ 32 % 2 ^ r.ntlog)

/-- The LIVE entry of a name (R362). -/
def State.findName (s : State) (r : NameRegion) (name : Nat) : Option NameEntry :=
  (s.nameProbe r (name / 256)).1.find? fun e => e.live && e.name == name

/-- What a strand, or a job for its pusher, meets of errors as it reads a region's tables and lines: a record gives the base of the
region's page, as they have no virtual address (R264, R280; log entry 26). -/
def State.tableErrors (s : State) (w : Who) (va : Dword) (as : List Nat) : State :=
  if s.flaws.isEmpty then s else s.errors w false (as.map fun a => (s.homeOf a, va.toNat))

/-- Bytes of the entries that a probe reads. -/
def State.probeBytes (s : State) (r : NameRegion) (hash : Nat) : List Nat :=
  let (es, z) := s.nameProbe r hash
  (es ++ z.toList).flatMap fun e => addrs (r.entryAddr e.idx) 32

/-- Bytes that a name's line is found and read by: its probe, and the line of its LIVE entry. -/
def State.lineBytes (s : State) (r : NameRegion) (name : Nat) : List Nat :=
  s.probeBytes r (name / 256) ++
    match s.findName r name with
    | some e => addrs (r.lineAddr e.line) 128
    | none => []

/-- Adds to a field of the descriptor. -/
def State.bump (s : State) (r : NameRegion) (off n : Nat) (by_ : Int) : State :=
  s.setPhys (r.frame + off) n (((s.physNat (r.frame + off) n : Int) + by_) % (256 ^ n : Nat)).toNat

/-- INUSE, HWM, FREEHEAD, LOOKUPS and COLL of the descriptor (R360). -/
def State.freeHead (s : State) (r : NameRegion) : Nat := s.physNat (r.frame + 0x28) 4
def State.highWater (s : State) (r : NameRegion) : Nat := s.physNat (r.frame + 0x24) 4

/-- The store is full (R361). -/
def State.storeFull (s : State) (r : NameRegion) : Bool := s.freeHead r == 0 && decide (r.lines ≤ s.highWater r)

/-- Takes a free line: the top of the stack, or the next untouched one (R361). -/
def State.takeLine (s : State) (r : NameRegion) : State × Nat :=
  let f := s.freeHead r
  if f ≠ 0 then (s.setPhys (r.frame + 0x28) 4 (s.physNat (r.lineAddr (f - 1)) 4), f - 1)
  else (s.bump r 0x24 4 1, s.highWater r)

/-- Pushes a line on the free stack (R361). -/
def State.freeLine (s : State) (r : NameRegion) (line : Nat) : State :=
  (s.setPhys (r.lineAddr line) 4 (s.freeHead r)).setPhys (r.frame + 0x28) 4 (line + 1)

/-- The eight child names of a line (R363). -/
def childNames (line : Nat) : List Nat := (List.range 8).map fun i => line / 2 ^ (128 * i) % 2 ^ 128

/-! ### Holds (R365, R370 to R372) -/

/-- A count no operation changes again (R365). -/
def NameEntry.saturated (e : NameEntry) : Bool := e.count == 0xFFFFFFFF

/-- How a lookup, a hold or a drop came out. -/
inductive NameEnd where
  /-- completed with a CNST code and a name -/
  | done (code name : Nat)
  | failed (code : Nat)
  /-- a name with no LIVE entry -/
  | dangling
deriving DecidableEq, Repr, Inhabited

/-- Adds a hold on each child of a new interior line; the flag says that a saturated count was met (R370). -/
def State.holdChildren (s : State) (r : NameRegion) : List Nat → Bool → State × Bool
  | [], b => (s, b)
  | c :: cs, b =>
    match s.findName r c with
    | some e =>
      if e.saturated then State.holdChildren s r cs true
      else State.holdChildren (s.putEntry r { e with count := e.count + 1 }) r cs b
    | none => State.holdChildren s r cs b

/-- The BLAKE3 keyed hash of a line, 15 bytes as a number (R362). -/
def lineHash (key : BitVec 256) (bs : List Byte) : Nat :=
  leNat ((List.range 15).map (Config.blake3 key bs))

/-- Looks a line up; an allocation stores it where it is new (R370). -/
def State.nameLine (s : State) (r : NameRegion) (w : Who) (va : Dword) (alloc int : Bool) (bs : List Byte) : State × NameEnd :=
  let line := leNat bs
  if line = 0 then (s, .done 4 0)
  else
    match Table.find s.plat.cnKeys r.kslot with
    | none => (s, .failed 0x10)
    | some key =>
      let h := lineHash key bs
      let (p, last) := s.nameProbe r h
      let es := p.filter fun e => e.live && e.name / 256 == h
      let s := s.tableErrors w va (s.probeBytes r h ++ es.flatMap fun e => addrs (r.lineAddr e.line) 128)
      let s := if alloc then s.bump r 0x30 8 1 else s
      match es.find? fun e => e.int == int && s.physNat (r.lineAddr e.line) 128 == line with
      | some e =>
        if !alloc then (s, .done 1 e.name)
        else if e.saturated then (s.drop w 1, .done 9 e.name)
        else (s.putEntry r { e with count := e.count + 1 }, .done 1 e.name)
      | none =>
        match (List.range 256).find? fun o => (o != 0 || h != 0) && !es.any fun e => e.name % 256 == o with
        | none => (s, .failed 0x11)
        | some o =>
          let name := o + 256 * h
          if !alloc then (s, .done 3 name)
          else
            match (p.find? fun e => e.vacant).or last with
            | none => (s, .failed 0x13)
            | some e =>
              if s.storeFull r then (s, .failed 0x12)
              else
                let kids := if int then (childNames line).filter (· != 0) else []
                let s := s.tableErrors w va (kids.flatMap fun c => s.probeBytes r (c / 256))
                if kids.any fun c => (s.findName r c).isNone then (s, .dangling)
                else
                  let (s, sat) := s.holdChildren r kids false
                  let (s, f) := s.takeLine r
                  let s := (s.setPhys (r.lineAddr f) 128 line).bump r 0x20 4 1
                  let s := s.putEntry r { e with name := name, count := 1, live := true, vacant := false, int := int, line := f }
                  let s := if 0 < o then s.bump r 0x38 8 1 else s
                  (if sat then s.drop w 1 else s, .done 2 name)

/-- The VACANT entries from one backward become empty (R372). -/
def State.clearVacant (s : State) (r : NameRegion) : Nat → Nat → State
  | 0, _ => s
  | n + 1, i =>
    let e := s.nameEntry r i
    if e.vacant && !e.live then
      State.clearVacant (s.putEntry r { e with name := 0, count := 0, vacant := false, int := false, line := 0 }) r n
        (i + 2 ^ r.ntlog - 1)
    else s

/-- Takes a hold off an entry; at 0 it is removed, its leaf line freed, or its interior line left to reclaim (R372). The
flag says that it was removed. -/
def State.dropEntry (s : State) (r : NameRegion) (w : Who) (e : NameEntry) : State × Bool :=
  if 1 < e.count then (s.putEntry r { e with count := e.count - 1 }, false)
  else
    let s := s.putEntry r { e with name := 0, count := 0, live := false, vacant := true, int := false, line := 0 }
    let s := if (s.nameEntry r (e.idx + 1)).empty then s.clearVacant r (2 ^ r.ntlog) e.idx else s
    let s := s.bump r 0x20 4 (-1)
    if e.int then
      (({ s with reclaim := s.reclaim ++ [{ frame := r.frame, line := e.line, who := w }] } : State).due .reclaimLine, true)
    else (s.freeLine r e.line, true)

/-- Adds a hold on a name (R372). -/
def State.holdName (s : State) (r : NameRegion) (w : Who) (va : Dword) (name : Nat) : State × NameEnd :=
  if name = 0 then (s, .done 4 0)
  else
    let s := s.tableErrors w va (s.probeBytes r (name / 256))
    match s.findName r name with
    | none => (s, .dangling)
    | some e =>
      if e.saturated then (s.drop w 1, .done 9 name) else (s.putEntry r { e with count := e.count + 1 }, .done 5 name)

/-- Drops a hold on a name (R372). -/
def State.dropName (s : State) (r : NameRegion) (w : Who) (va : Dword) (name : Nat) : State × NameEnd :=
  if name = 0 then (s, .done 4 0)
  else
    let s := s.tableErrors w va (s.probeBytes r (name / 256))
    match s.findName r name with
    | none => (s, .dangling)
    | some e =>
      if e.saturated then (s.drop w 1, .done 9 name)
      else
        let (s, freed) := s.dropEntry r w e
        (s, .done (if freed then 6 else 5) name)

/-- RECLAIM_LINE: the first freed interior line: its children are dropped in slot order, and it is pushed on the free
stack. A name found absent is charged to who freed it; a saturated count stays (R373). -/
def execReclaimLine (s : State) : Out :=
  match s.reclaim with
  | [] => .next s
  | x :: rest =>
    let s : State := { s with reclaim := rest }
    let s := s.met x.frame 256
    match s.nameRegion x.frame with
    | none => .next s
    | some r =>
      let s := s.met (r.lineAddr x.line) 128
      let kids := (childNames (s.physNat (r.lineAddr x.line) 128)).filter (· != 0)
      let s := kids.foldl (fun (s : State) c =>
        let s := s.metAt (s.probeBytes r (c / 256))
        match s.findName r c with
        | none => s.drop x.who 1
        | some e => if e.saturated then s else (s.dropEntry r x.who e).1) s
      .next (s.freeLine r x.line)

/-! ### The engine's operations (R366, R369) -/

/-- An operation of a strand, issued at a time, must wait: for an earlier access or operation of its strand or core, for writes of its
die that have not reached the other dies, or for a die in a clock-skew fault (R270, R272, R274, R292, R366, R369). -/
def State.namesWait (s : State) (w : Who) (t : Nat) : Bool :=
  s.memoryWaits w || s.coreWaits w.core t || s.timers.any (fun e => Event.names w e.2) || s.crossing (fun x => x.core == w.core) ||
    s.held.any (fun x => x.point == pointOf w.core x.scope) ||
    s.unreported (dieOf w.core) || (List.finRange 4).any fun h => !(s.die h).fenced && (s.die h).inFault

/-- CNST of a strand (R369). -/
def Strand.setCnst (z : Strand) (code : Nat) : Strand := { z with spr := { z.spr with cnst := BitVec.ofNat 8 code } }

/-- The results of a producer arrive in the registers from `d` on (R25). -/
def State.fillFrom (s : State) (w : Who) (d : GReg) (xs : List Dword) : State :=
  xs.zipIdx.foldl (fun (s : State) (x : Dword × Nat) => s.whenReady (.gregFill w (d + BitVec.ofNat 6 x.2) x.1)) s

/-- A name pair arrives (R362, R367). -/
def State.fillPair (s : State) (w : Who) (d : GReg) (name : Nat) : State :=
  s.fillFrom w d [dw (name % 2 ^ 64), dw (name / 2 ^ 64)]

/-- Completes an allocation that failed: the null name, an item dropped and a record (R369). -/
def State.allocFailed (s : State) (x : CnReq) (code : Nat) : State :=
  let s := (s.setStrand x.who ((s.strand x.who).setCnst code)).fillPair x.who x.d 0
  (s.drop x.who 1).jobFault x.who.core 7 (BitVec.ofNat 16 (0x68 + code - 0x10)) x.page
    (packFields [(code, 0), (x.minor, 8)])

/-- What an operation leaves at its strand (R369 to R372). -/
def State.nameAnswer (s : State) (x : CnReq) (r : Option NameRegion) : NameEnd → State
  | .dangling => s.fatal x.who 0x0023 x.page 0
  | .failed code =>
    match x.kind with
    | .alloc _ => s.allocFailed x code
    | _ => s.setStrand x.who ((s.strand x.who).setCnst code)
  | .done code name =>
    let z := (s.strand x.who).setCnst code
    match x.kind with
    | .alloc _ => (s.setStrand x.who z).fillPair x.who x.d name
    | .hash =>
      let s := s.setStrand x.who z
      s.setCore x.who.core ((s.core x.who.core).setSpad x.off 16 name)
    | .load =>
      let line := match r with
        | some r => match s.findName r x.name with
          | some e => s.physNat (r.lineAddr e.line) 128
          | none => 0
        | none => 0
      let s := s.setStrand x.who z
      let s := s.setCore x.who.core ((s.core x.who.core).setSpad x.off 128 line)
      s.errors x.who false (match r.bind fun r => (s.findName r x.name).map fun e => r.lineAddr e.line with
        | some a => (List.range 128).map fun i => (s.homeOf (a + i), x.page.toNat)
        | none => [])
    | .hold | .drop => s.setStrand x.who z

/-- A translation serves an access at a home only before its lease ends by that home's clock (R289). -/
def State.lateAt (s : State) (frame : Nat) (expiry : Dword) : Bool :=
  decide (expiry.toNat ≤ (s.dieTime (homeDie (s.homeOf frame))).toNat)

/-- An operation that reached its region after the lease had ended: the handle is walked for again, and the operation keeps its
place; a page that is no region any more is a lost translation (R289, R381). -/
def State.nameAgain (s : State) (x : CnReq) : State :=
  let d := dieOf x.who.core
  let again (s : State) (x : CnReq) : State := { s with timers := (s.time.toNat + 1, .contentNamedOperation x) :: s.timers }
  if s.walkStalls d x.space x.page.toNat then again s x
  else
    match s.walk d x.space x.page.toNat with
    | (s, { found := some (l, c), base := b }) =>
      if l.kind != 2 then s.fatal x.who 0x0022 x.page 0
      else
        let z := s.strand x.who
        let h := z.rh x.h
        let s := if h.state == .valid && h.base == x.page && z.spr.space == x.space
          then s.setStrand x.who (z.wh x.h (Handle.ofLease l c)) else s
        again (s.keepTrans d x.space { found := some (l, c), base := b }) { x with frame := l.at x.page.toNat, expiry := l.expiry }
    | (s, _) => s.fatal x.who 0x0022 x.page 0

/-- CONTENT_NAMED_OPERATION: one step of the serial order (R366, R369 to R372). -/
def execContentNamedOperation (x : CnReq) (s : State) : Out :=
  if s.namesWait x.who x.at_ then .next (s.timer (s.time.toNat + 1) (.contentNamedOperation x))
  else if s.lateAt x.frame x.expiry then .next (s.nameAgain x)
  else
    let s := s.tableErrors x.who x.page (addrs x.frame 256)
    match s.nameRegion x.frame with
    | none => .next (s.nameAnswer x none (.failed 0x14))
    | some r =>
      let (t, e) := match x.kind with
        | .alloc int => s.nameLine r x.who x.page true int x.line
        | .hash => s.nameLine r x.who x.page false false x.line
        | .hold => s.holdName r x.who x.page x.name
        | .drop => s.dropName r x.who x.page x.name
        | .load => (s.tableErrors x.who x.page (s.probeBytes r (x.name / 256)), if x.name = 0 then .done 4 0 else if (s.findName r x.name).isSome then .done 5 0 else .dangling)
      .next (t.nameAnswer x (some r) e)

/-! ### Issue (R367, R368) -/

/-- A handle that an instruction names: a region's, or a cell's page with the cell's offset. -/
structure NameUse where
  h : HReg
  region : Bool
  off : Nat
  wr : Bool

/-- Bytes that a use covers. -/
def NameUse.bytes (u : NameUse) : Nat := if u.region then 1 else 32

/-- Step 3 of R368: a handle that cannot be used yet, or never. -/
def Handle.unusable (h : Handle) (u : NameUse) (s : State) : Option Body :=
  match h.state with
  | .resolving => some (.wait .interlock s)
  | .invalid => some (.fatal s 0x0020 (dw u.off) 0)
  | .absent => some (.fatal s 0x0020 (h.base + dw u.off) 0)
  | .valid => Option.none

/-- Step 4 of R368. -/
def Handle.wrongKind (h : Handle) (u : NameUse) : Option Body :=
  if (if u.region then h.kind != 2 else h.kind == 2 || h.kind == 3) then some (.trap 0x0007 h.base 0) else Option.none

/-- Step 5 of R368. -/
def Handle.outside (h : Handle) (u : NameUse) (s : State) : Option Body :=
  if pageBytes h.psz < u.off + u.bytes || (u.wr && !h.wr) then some (.fatal s 0x0021 (h.base + dw u.off) 0) else Option.none

/-- Steps 3 to 5 of R368 over the handles of an instruction, each step for every handle before the next; then the
instruction goes on with them. -/
def withHandles (us : List NameUse) (s : State) (k : State → List Handle → Body) : Body :=
  let h (u : NameUse) := s.me.rh u.h
  match (us.findSome? fun u => (h u).unusable u s).or
      ((us.findSome? fun u => (h u).wrongKind u).or (us.findSome? fun u => (h u).outside u s)) with
  | some b => b
  | none =>
    let rec go (us : List NameUse) (s : State) (hs : List Handle) : Body :=
      match us with
      | [] => k s hs.reverse
      | u :: r =>
        match refresh s u.h u.off u.bytes u.wr with
        | .stop b => b
        | .go s h =>
          match h.wrongKind u with
          | some b => b
          | none => go r s (h :: hs)
    go us s []

/-- A region operand. -/
def regionUse (h : HReg) : NameUse := { h := h, region := true, off := 0, wr := false }

/-- The scratchpad offset of a register (R368). -/
def spadOff (x : Dword) : Nat := fld x 31 0

/-- A scratchpad range of R368: a multiple of `al`, within the scratchpad. -/
def spadFits (off n al : Nat) : Bool := off % al == 0 && decide (off + n ≤ Config.spadBytes)

/-- The name in a register pair (R362). -/
def Strand.pair (z : Strand) (d : GReg) : Nat := (z.rg d).toNat + (z.rg (d + 1)).toNat * 2 ^ 64

/-- A request of the strand whose turn it is. -/
def State.nameReq (s : State) (k : CnKind) (minor : Nat) (hr : HReg) (h : Handle) : CnReq :=
  { who := s.turn, kind := k, h := hr, space := s.me.spr.space, frame := h.frame.toNat, expiry := h.expiry, page := h.base, d := 0,
    name := 0, off := 0, line := [], minor := minor, at_ := s.time.toNat }

/-- CNLA (R370). -/
def cnla (int : Bool) (d a : GReg) (hr : HReg) (ta : Bool) : State → Out :=
  legal (.cnlaL d a hr ta) <|
  issue { len := 2, on := anyStrand, src := [(a, ta)], dst := [d, d + 1] } fun s =>
    let off := spadOff (s.me.rg a)
    if !spadFits off 128 128 then spadError
    else if s.here.boarded false off 128 then .wait .rangeBoard s
    else withHandles [regionUse hr] s fun s hs =>
      let x := { s.nameReq (.alloc int) 2 hr (hs.getD 0 Handle.none) with d := d, line := s.here.spad.bytes off 128 }
      .next ((s.setMe ((s.me.empty d).empty (d + 1))).due (.contentNamedOperation x))

/-- CNLA.L (R370). -/
def execCnlaL (d a : GReg) (hr : HReg) (ta : Bool) : State → Out := cnla false d a hr ta
/-- CNLA.I (R370). -/
def execCnlaI (d a : GReg) (hr : HReg) (ta : Bool) : State → Out := cnla true d a hr ta

/-- CNLD (R371). -/
def execCnld (d a : GReg) (hr : HReg) (ta : Bool) : State → Out :=
  legal (.cnld d a hr ta) <|
  issue (useS 2 [(a, ta), (d, false), (d + 1, false)]) fun s =>
    let off := spadOff (s.me.rg a)
    if !spadFits off 128 128 then spadError
    else if s.here.boarded true off 128 then .wait .rangeBoard s
    else withHandles [regionUse hr] s fun s hs =>
      let x := { s.nameReq .load 3 hr (hs.getD 0 Handle.none) with name := s.me.pair d, off := off }
      .next (s.due (.contentNamedOperation x))

/-- CNHOLD and CNDROP (R372). -/
def cnCount (k : CnKind) (minor : Nat) (d : GReg) (hr : HReg) : State → Out :=
  legal (.cnhold d hr) <|
  issue (useS 2 [(d, false), (d + 1, false)]) fun s =>
    withHandles [regionUse hr] s fun s hs =>
      .next (s.due (.contentNamedOperation { s.nameReq k minor hr (hs.getD 0 Handle.none) with name := s.me.pair d }))

/-- CNHOLD (R372). -/
def execCnhold (d : GReg) (hr : HReg) : State → Out := cnCount .hold 4 d hr
/-- CNDROP (R372). -/
def execCndrop (d : GReg) (hr : HReg) : State → Out := cnCount .drop 5 d hr

/-- CNHASH (R370). -/
def execCnhash (d a : GReg) (hr : HReg) (ta : Bool) : State → Out :=
  issue (useS 2 [(a, ta), (d, false)]) fun s =>
    let off := spadOff (s.me.rg a)
    let dst := spadOff (s.me.rg d)
    if !spadFits off 128 128 || !spadFits dst 16 16 then spadError
    else if s.here.boarded false off 128 || s.here.boarded true dst 16 then .wait .rangeBoard s
    else withHandles [regionUse hr] s fun s hs =>
      let x := { s.nameReq .hash 8 hr (hs.getD 0 Handle.none) with off := dst, line := s.here.spad.bytes off 128 }
      .next (s.due (.contentNamedOperation x))

/-! ### Root cells (R364, R374, R375) -/

/-- A DL word that R363 and R364 allow. -/
def dlOk (x : Dword) : Bool := fld x 63 52 == 0 && decide (fld x 51 48 ≤ 12) && decide (fld x 47 0 ≤ 128 * 8 ^ fld x 51 48)

/-- The handles of an instruction reach their homes too late: each is walked for again before the instruction goes on (R289). -/
def State.anewWhere (s : State) (late : HReg → Bool) : State :=
  let ended (i : Fin 16) : Handle := if late (BitVec.ofNat 4 i.val) then { s.me.h[i] with expiry := 0 } else s.me.h[i]
  s.setMe { s.me with h := Vector.ofFn ended }

/-- A cell may not be reached at its home yet: something earlier of the strand, of its core or of its die is on its way, or the home
has taken an access of it in this cycle, which a strand's turn ends (R267, R268, R270, R274, R277). -/
def State.cellWait (s : State) (pa : Nat) : Bool :=
  s.namesOut s.turn || s.namesWait s.turn s.time.toNat ||
    (List.range 4).any fun i => s.crossingAt (dieOf s.turn.core) (pa + 8 * i) || (s.heldOnWay s.turn.core (pa + 8 * i)).isSome ||
      s.taken (s.homeOf (pa + 8 * i))

/-- The dwords of a cell at its home. -/
def State.cell (s : State) (pa i : Nat) : Dword := s.sound.dword (s.homeOf (pa + 8 * i))

/-- The bytes of a cell: where they lie at their homes, and their virtual addresses. -/
def State.cellBytes (s : State) (pa va : Nat) : List (Nat × Nat) := (List.range 32).map fun i => (s.homeOf (pa + i), va + i)

/-- RGET: the cell is read and its root held in one step (R374). -/
def execRget (d : GReg) (hr hc : HReg) : State → Out :=
  legal (.rget d hr hc) <|
  issue { len := 2, on := anyStrand, src := [(d, false)], dst := [d + 1, d + 2, d + 3] } fun s =>
    let off := (s.me.rg d).toNat
    if off % 32 != 0 then .trap 0x0002 0 0
    else withHandles [regionUse hr, { h := hc, region := false, off := off, wr := false }] s fun s hs =>
      let region := hs.getD 0 Handle.none
      let cell := hs.getD 1 Handle.none
      let pa := cell.frame.toNat + off
      let late (h : HReg) : Bool := h == hr && s.lateAt region.frame.toNat region.expiry || h == hc && s.lateAt pa cell.expiry
      if s.cellWait pa then .wait .interlock s
      else if late hr || late hc then .wait .interlock (s.anewWhere late)
      else
        let put (s : State) (f : Nat → Dword) (code : Nat) : Body :=
          let z := (((s.me.empty d).empty (d + 1)).empty (d + 2)).empty (d + 3)
          .next ((s.setMe (z.setCnst code)).fillFrom s.turn d ((List.range 4).map f))
        let s := s.tableErrors s.turn region.base (addrs region.frame.toNat 256)
        match s.nameRegion region.frame.toNat with
        | none => put s (fun _ => 0) 0x14
        | some r =>
          let f := s.cell pa
          let s := s.errors s.turn false (s.cellBytes pa (cell.base.toNat + off))
          match s.holdName r s.turn region.base ((f 0).toNat + (f 1).toNat * 2 ^ 64) with
          | (t, .done code _) => put ((List.range 4).foldl (fun t i => t.learn t.myDie (t.homeOf (pa + 8 * i))) t) f code
          | _ => .fatal s 0x0023 region.base 0

/-- RSWAP (R375). It is not performed on a word with two wrong bits (R280). -/
def execRswap (d a : GReg) (hr : HReg) (ta : Bool) : State → Out :=
  issue (useS 2 [(a, ta), (d, false)]) fun s =>
    let blk := spadOff (s.me.rg a)
    let off := (s.me.rg d).toNat
    let w (i : Nat) : Dword := s.here.spad.dword (blk + 8 * i)
    if !spadFits blk 64 32 then spadError
    else if off % 32 != 0 then .trap 0x0002 0 0
    else if s.here.boarded false blk 64 then .wait .rangeBoard s
    else if !dlOk (w 6) then .trap 0x0002 0 0
    else withHandles [{ h := hr, region := false, off := off, wr := true }] s fun s hs =>
      let cell := hs.getD 0 Handle.none
      let pa := cell.frame.toNat + off
      let late (h : HReg) : Bool := h == hr && s.lateAt pa cell.expiry
      if s.cellWait pa || s.me.flushing then .wait .interlock s
      else if late hr then .wait .interlock (s.anewWhere late)
      else
        let bad := (List.range 4).any fun i => s.badWord (s.homeOf (pa + 8 * i))
        let s := s.errors s.turn false (s.cellBytes pa (cell.base.toNat + off))
        let s := (List.range 4).foldl (fun t i => t.learn t.myDie (t.homeOf (pa + 8 * i))) s
        if bad then .next (s.setMe (s.me.setCnst 8))
        else if s.cell pa 0 == w 0 && s.cell pa 1 == w 1 && s.cell pa 3 == w 3 then
          let v := (s.die s.myDie).clock
          let s := (List.range 4).foldl (fun (t : State) i =>
            (t.writeHome (t.homeOf (pa + 8 * i)) 8 (w (4 + i)).toNat).stamp (t.homeOf (pa + 8 * i)) v) s
          .next (s.setMe (s.me.setCnst 7))
        else .next (s.setMe (s.me.setCnst 8))

/-! ### Bulk commands (R376 to R379) -/

/-- A root image (R364). -/
structure RootImage where
  name : Nat
  length : Nat
  depth : Nat
  ok : Bool

/-- Reads a root image of a job's parameters (R364, R376). -/
def rootImage (bs : List Byte) (i : Nat) : RootImage :=
  let dl := bytesDword bs (4 * i + 2)
  { name := leNat ((bs.drop (32 * i)).take 16), length := fld dl 47 0, depth := fld dl 51 48, ok := dlOk dl }

/-- The root images that a command reads (R376). -/
def rootBlock (x : Core) (j : Job) : List Byte :=
  match j.kind with
  | 0x40 => x.spad.bytes (fld j.d3 31 0) 32
  | 0x42 => x.spad.bytes (fld j.d3 31 0) 64
  | _ => []

/-- Checks of the content-named kinds at the pop (R228, R376 to R379). -/
def checkNames (j : Job) : Option (BitVec 16 × Dword) :=
  firstBad [dwordBad 1 (fld j.d1 63 45 != 0),
    dwordBad 2 (fld j.d2 63 45 != 0 || (j.kind == 0x41 && decide (2 ^ 45 < fld j.d2 44 0 + fld j.d3 63 32))),
    dwordBad 3 (!spadFits (fld j.d3 31 0) (if j.kind = 0x42 then 72 else 32) (if j.kind = 0x42 then 64 else 32))]

/-- Checks of the root images as they are read (R363, R376). -/
def checkRoots (j : Job) : Option (BitVec 16 × Dword) :=
  let a := rootImage j.params 0
  let b := rootImage j.params 1
  if !a.ok || (j.kind == 0x42 && (!b.ok || a.depth != b.depth)) then some (0x006C, 0)
  else dwordBad 2 (j.kind == 0x40 && decide (2 ^ 45 < fld j.d2 44 0 + a.length))

/-- What stops a walk of a tree (R376). -/
inductive TreeStop where
  /-- an interior line where a leaf belongs, or the reverse -/
  | kind
  /-- a name with no LIVE entry: leaf index of the first byte it covers -/
  | absent (leaf : Nat)

/-- The end of a job that a tree stops (R376). -/
def TreeStop.ending (j : Job) : TreeStop → JobEnd
  | .kind => JobEnd.bad j .fault 0x006C 0
  | .absent k => JobEnd.bad j .fault 0x006E (dw (k % 2 ^ 32))

/-- The end of a job that a page stops (R376). -/
def pageStop (j : Job) (chunk : Nat) (r : RowStop) : JobEnd :=
  JobEnd.bad j .fault 0x006F
    (packFields [(chunk % 2 ^ 32, 0), (r.page / 65536 % 2 ^ 29, 32), (bit01 r.nowr, 61), (bit01 r.rwin, 62)])

/-- The line of a name at a level: 0 for the null name (R363). -/
def State.treeLine (s : State) (r : NameRegion) (level leaf name : Nat) : Except TreeStop Nat :=
  if name = 0 then .ok 0
  else
    match s.findName r name with
    | none => .error (.absent leaf)
    | some e => if e.int != (level != 0) then .error .kind else .ok (s.physNat (r.lineAddr e.line) 128)

/-- Leaf `k` of a tree (R363), with the bytes that are read on the way to it. -/
def State.leafAt (s : State) (r : NameRegion) (k : Nat) : Nat → Nat → Except TreeStop Nat × List Nat
  | 0, name => (s.treeLine r 0 k name, s.lineBytes r name)
  | l + 1, name =>
    match s.treeLine r (l + 1) (k / 8 ^ (l + 1) * 8 ^ (l + 1)) name with
    | .error e => (.error e, s.lineBytes r name)
    | .ok line =>
      let (x, as) := State.leafAt s r k l ((childNames line).getD (k / 8 ^ l % 8) 0)
      (x, s.lineBytes r name ++ as)

/-- The errors that a job meets in the tables and lines of its region (R280). -/
def Eng.tableErrors (e : Eng) (c : CoreId) (j : Job) (as : List Nat) : Eng :=
  { e with s := e.s.tableErrors (j.pusher c) (maskTo j.d1 44 0) as }

/-- The region a job names: the page at RVA must be of KIND 2 (R376). -/
def Eng.region (e : Eng) (c : CoreId) (j : Job) : Eng × Except JobEnd NameRegion :=
  match e.xlate (dieOf c) j.space (fld j.d1 44 0) with
  | (e, .error b) => (e, .error (pageStop j 0 { page := b, nowr := false, rwin := false }))
  | (e, .ok l) =>
    if l.kind == 3 then (e, .error (pageStop j 0 { page := l.base.toNat, nowr := false, rwin := true }))
    else if l.kind != 2 then (e, .error (JobEnd.bad j .fault 0x0043 1))
    else
      let e := e.tableErrors c j (addrs l.frame.toNat 256)
      match e.s.nameRegion l.frame.toNat with
      | some r => (e, .ok r)
      | none => (e, .error (JobEnd.bad j .fault 0x006C 0))

/-- Writes bytes at a virtual address, all of them or none (R377, R379). -/
def Eng.putBytes (e : Eng) (c : CoreId) (j : Job) (va : Nat) (bs : List Byte) : Eng × Option RowStop :=
  if 2 ^ 45 < va + bs.length then (e, some { page := va % 2 ^ 45 / 0x10000 * 0x10000, nowr := false, rwin := false })
  else
    match e.rowPages (dieOf c) j.space true ((List.range bs.length).map (va + ·)) [] with
    | (e, .error r) => (e, some r)
    | (e, .ok ls) => ({ e with s := (e.s.engAccess c j true ls).engPut (e.s.privOn c) ((ls.zip bs).map fun y => (y.1.1, y.1.2, y.2)) }, none)

/-- The chunks of a CNOUT, rising (R377). -/
def outChunks (c : CoreId) (j : Job) (r : NameRegion) (t : RootImage) : Nat → Nat → Eng → Eng × JobEnd
  | 0, _, e => (e, JobEnd.ok)
  | n + 1, i, e =>
    let (a, as) := e.s.leafAt r (2 * i) t.depth t.name
    let e := e.tableErrors c j as
    match a with
    | .error x => (e, x.ending j)
    | .ok a =>
      let two := decide (256 * i + 128 < t.length)
      let (b, as) : Except TreeStop Nat × List Nat := if two then e.s.leafAt r (2 * i + 1) t.depth t.name else (.ok 0, [])
      let e := e.tableErrors c j as
      match b with
      | .error x => (e, x.ending j)
      | .ok b =>
        let bs := (leBytes 128 a ++ leBytes 128 b).take (min 256 (t.length - 256 * i))
        match e.putBytes c j (fld j.d2 44 0 + 256 * i) bs with
        | (e, some p) => (e, pageStop j i p)
        | (e, none) => outChunks c j r t n (i + 1) e

/-- CNOUT (R377). -/
def execCnout (c : CoreId) (q : QueueId) : State → Out :=
  runJob c q (.cnout c q) fun j s =>
    let t := rootImage j.params 0
    match ({ s := s, ls := j.leases } : Eng).region c j with
    | (e, .error x) => e.out ((e.keep c q j.id).endJob c q j x)
    | (e, .ok r) =>
      let first := fld j.d3 63 32
      let (e, x) := outChunks c j r t (chunksOf t.length - first) first e
      e.out ((e.keep c q j.id).endJob c q j x)

/-- A tree under construction: the engine, and the holds taken, newest first. -/
structure Build where
  e : Eng
  holds : List Nat

/-- Stores one line and takes its hold (R378). -/
def Build.name (b : Build) (c : CoreId) (j : Job) (r : NameRegion) (int : Bool) (leaf : Nat) (bs : List Byte) :
    Build × Except JobEnd Nat :=
  let (s, x) := b.e.s.nameLine r (j.pusher c) (maskTo j.d1 44 0) true int bs
  let b := { b with e := { b.e with s := s } }
  match x with
  | .done _ name => ({ b with holds := if name = 0 then b.holds else name :: b.holds }, .ok name)
  | .failed code => (b, .error (JobEnd.bad j .fault (BitVec.ofNat 16 (0x68 + code - 0x10)) (dw code)))
  | .dangling => (b, .error (JobEnd.bad j .fault 0x006E (dw (leaf % 2 ^ 32))))

/-- The leaves of a CNIN, rising (R378). -/
def inLeaves (c : CoreId) (j : Job) (r : NameRegion) (sva len : Nat) : Nat → Nat → List Nat → Build → Build × Except JobEnd (List Nat)
  | 0, _, acc, b => (b, .ok acc.reverse)
  | n + 1, i, acc, b =>
    let m := min 128 (len - 128 * i)
    match b.e.rowPages (dieOf c) j.space false ((List.range m).map (sva + 128 * i + ·)) [] with
    | (e, .error p) => ({ b with e := e }, .error (pageStop j (i / 2) p))
    | (e, .ok ls) =>
      let bs := ls.map fun y => e.s.engRead (e.s.privOn c) y.2 y.1
      match Build.name { b with e := { e with s := e.s.engAccess c j false ls } } c j r false i (bs ++ List.replicate (128 - m) 0) with
      | (b, .error x) => (b, .error x)
      | (b, .ok name) => inLeaves c j r sva len n (i + 1) (name :: acc) b

/-- Names in groups of eight. -/
def groups8 : Nat → List Nat → List (List Nat)
  | 0, _ => []
  | _ + 1, [] => []
  | n + 1, xs => xs.take 8 :: groups8 n (xs.drop 8)

/-- The interior lines of a level, rising (R378). -/
def inGroups (c : CoreId) (j : Job) (r : NameRegion) (span : Nat) : List (List Nat) → Nat → List Nat → Build →
    Build × Except JobEnd (List Nat)
  | [], _, acc, b => (b, .ok acc.reverse)
  | g :: gs, i, acc, b =>
    match b.name c j r true (i * span) (leBytes 128 (leNat (g.flatMap (leBytes 16)))) with
    | (b, .error x) => (b, .error x)
    | (b, .ok name) => inGroups c j r span gs (i + 1) (name :: acc) b

/-- Drops holds in order (R372). -/
def Build.drops (b : Build) (w : Who) (va : Dword) (r : NameRegion) (ns : List Nat) : Build :=
  { b with e := { b.e with s := ns.foldl (fun (s : State) n => (s.dropName r w va n).1) b.e.s } }

/-- The interior levels of a CNIN: after each, the holds on the level below are dropped (R378). -/
def inLevels (c : CoreId) (j : Job) (r : NameRegion) : Nat → Nat → List Nat → Build → Build × Except JobEnd Nat
  | 0, _, names, b => (b, .ok (names.headD 0))
  | d + 1, l, names, b =>
    let below := b.holds
    match inGroups c j r (8 ^ (l + 1)) (groups8 (names.length + 1) names) 0 [] b with
    | (b, .error x) => (b, .error x)
    | (b, .ok up) =>
      let b := b.drops (j.pusher c) (maskTo j.d1 44 0) r below.reverse
      inLevels c j r d (l + 1) up { b with holds := b.holds.take (b.holds.length - below.length) }

/-- The least depth that holds a length (R378). -/
def depthFor (len : Nat) : Nat := ((List.range 13).find? fun d => decide (len ≤ 128 * 8 ^ d)).getD 12

/-- CNIN (R378): on a fault it drops its holds, newest first, and leaves zeros at ROFF. -/
def execCnin (c : CoreId) (q : QueueId) : State → Out :=
  runJob c q (.cnin c q) fun j s =>
    let roff := fld j.d3 31 0
    let len := fld j.d3 63 32
    let d := depthFor len
    let stop (e : Eng) (x : JobEnd) : Out :=
      let s := e.keep c q j.id
      e.out ((s.setCore c ((s.core c).setSpad roff 32 0)).endJob c q j x)
    match ({ s := s, ls := j.leases } : Eng).region c j with
    | (e, .error x) => stop e x
    | (e, .ok r) =>
      let (b, out) : Build × Except JobEnd Nat := match inLeaves c j r (fld j.d2 44 0) len ((len + 127) / 128) 0 [] { e := e, holds := [] } with
        | (b, .error x) => (b, .error x)
        | (b, .ok leaves) => inLevels c j r d 0 leaves b
      match out with
      | .error x => stop (b.drops (j.pusher c) (maskTo j.d1 44 0) r b.holds).e x
      | .ok root =>
        let s := b.e.keep c q j.id
        let s := s.setCore c ((s.core c).setSpad roff 32 (root + (len + d * 2 ^ 48) * 2 ^ 128))
        b.e.out (s.endJob c q j JobEnd.ok)

/-- A walk of two trees: the leaves that differ, rising, with their names; what stopped it; and the bytes that it read. -/
structure TreeDiff where
  leaves : List (Nat × Nat)
  stop : Option TreeStop
  read : List Nat

/-- The leaves that differ between two trees (R379). -/
def State.treeDiff (s : State) (r : NameRegion) : Nat → Nat → Nat → Nat → TreeDiff
  | 0, k, a, b => { leaves := if a = b then [] else [(k, b)], stop := none, read := [] }
  | l + 1, k, a, b =>
    if a = b then { leaves := [], stop := none, read := [] }
    else
      let read := s.lineBytes r a ++ s.lineBytes r b
      match s.treeLine r (l + 1) k a, s.treeLine r (l + 1) k b with
      | .error x, _ => { leaves := [], stop := some x, read := read }
      | _, .error x => { leaves := [], stop := some x, read := read }
      | .ok la, .ok lb =>
        (((childNames la).zip (childNames lb)).zipIdx).foldl (fun acc y =>
          match acc.stop with
          | some _ => acc
          | none =>
            let t := State.treeDiff s r l (k + y.2 * 8 ^ l) y.1.1 y.1.2
            { leaves := acc.leaves ++ t.leaves, stop := t.stop, read := acc.read ++ t.read })
          { leaves := [], stop := none, read := read }

/-- The records of a CNDIFF, rising (R379). -/
def diffRecords (c : CoreId) (j : Job) (r : NameRegion) (dva : Nat) : List (Nat × Nat) → Nat → Eng → Eng × Option JobEnd
  | [], _, e => (e, none)
  | (k, b) :: ds, i, e =>
    let e := e.tableErrors c j (e.s.lineBytes r b)
    match e.s.treeLine r 0 k b with
    | .error x => (e, some (x.ending j))
    | .ok line =>
      match e.putBytes c j (dva + 144 * i) (leBytes 8 k ++ leBytes 8 0 ++ leBytes 128 line) with
      | (e, some p) => (e, some (pageStop j (144 * i / 256) p))
      | (e, none) => diffRecords c j r dva ds (i + 1) e

/-- CNDIFF (R379). -/
def execCndiff (c : CoreId) (q : QueueId) : State → Out :=
  runJob c q (.cndiff c q) fun j s =>
    let a := rootImage j.params 0
    let b := rootImage j.params 1
    let roff := fld j.d3 31 0
    let cap := fld j.d3 63 32
    match ({ s := s, ls := j.leases } : Eng).region c j with
    | (e, .error x) => e.out ((e.keep c q j.id).endJob c q j x)
    | (e, .ok r) =>
      let walked := e.s.treeDiff r a.depth 0 a.name b.name
      let e := e.tableErrors c j walked.read
      let ds := walked.leaves.filter fun x => decide (128 * x.1 < max a.length b.length)
      match diffRecords c j r (fld j.d2 44 0) (ds.take cap) 0 e with
      | (e, some x) => e.out ((e.keep c q j.id).endJob c q j x)
      | (e, none) =>
        match walked.stop with
        | some x => e.out ((e.keep c q j.id).endJob c q j (x.ending j))
        | none =>
          let s := e.keep c q j.id
          let s := s.setCore c ((s.core c).setSpad (roff + 0x40) 8 (min cap ds.length))
          let x := if cap < ds.length then JobEnd.bad j .incomplete 0x006D (dw ((ds.length - cap) % 2 ^ 32)) else JobEnd.ok
          e.out (s.endJob c q j x)

end Sys2Proof.Machine
end

