-- ==== Sys2Proof/Machine/Jobs.lean ====
section
/-!
DEFINITION. The life of a job: its pop and its waits, power leave, its end, and jobs that are dropped (R135 to R143, R315,
R256, R350).
-/

namespace Sys2Proof.Machine

/-! ### The pop (R135, R228) -/

/-- The job with the record it captures as it leaves QUEUED (R135, R230). -/
def State.captured (s : State) (j : Job) : Job := { j with layout := s.capture j }

/-- The job with the parameters it reads once, when it is popped (R257, R376). -/
def Job.readParams (j : Job) (x : Core) : Job :=
  { j with params := if j.kind = 0x20 ∨ j.kind = 0x22 then mergeBlock x j else rootBlock x j }

/-- The check of those parameters. -/
def paramCheck (j : Job) : Option (BitVec 16 × Dword) :=
  match j.kind with
  | 0x20 | 0x22 => checkBlock j
  | 0x40 | 0x42 => checkRoots j
  | _ => none

/-- The check of dwords 1 to 3 and of the captured record (R228). -/
def popCheck (x : Core) (q : QueueId) (j : Job) : Option (BitVec 16 × Dword) :=
  match j.kind with
  | 0x01 | 0x02 => checkCopy j
  | 0x03 => checkDecode j
  | 0x04 => checkEncode j
  | 0x05 => checkFill j
  | 0x06 => checkCompact j
  | 0x07 => checkQfence j
  | 0x08 => checkLayset j
  | 0x09 => checkLaysync j
  | 0x0A => checkResume x q j
  | 0x10 | 0x11 | 0x12 => checkGather j
  | 0x20 | 0x22 => checkMerge j
  | 0x21 => checkMpfx j
  | 0x30 | 0x31 => checkRmove j
  | 0x32 => checkRsignal j
  | _ => checkNames j

/-- Tiles are as a job needs them: full for one it reads, empty for one it writes (R26). -/
def Core.tileReady (x : Core) (j : Job) : Bool :=
  match j.tileNo with
  | none => true
  | some t => if j.kind = 0x02 ∨ j.kind = 0x04 then x.tfull t else !x.tfull t

/-- Units of power leave a command needs (R143). -/
def Job.leaveUnits (j : Job) : Nat :=
  let n := match j.kind with
    | 0x01 | 0x02 | 0x03 | 0x04 => fld j.d2 63 32
    | 0x05 => fld j.d2 31 0
    | 0x06 => fld j.d3 15 0 * fld j.d1 63 32
    | _ => 0
  if 0x100000 < n then 2 else 0

/-- The next job a queue may work on: a `RESUME` while it is halted, else the first; none while one runs (R135, R136). -/
def Queue.head (q : Queue) : Option Job :=
  if q.running.isSome then none
  else if q.haltedJob.isSome then q.jobs.find? fun j => j.unstarted && j.kind == 0x0A
  else q.jobs.find? Job.unstarted

/-- Units the head of a queue needs; a `RESUME` needs those of the job it continues (R143, R236). -/
def Queue.unitsFor (q : Queue) (j : Job) : Nat :=
  if j.kind = 0x0A then (q.haltedJob.map Job.leaveUnits).getD 0 else j.leaveUnits

/-- Jobs of a core may not start: its instance has stopped (R115, R121). -/
def State.jobsHeld (s : State) (c : CoreId) : Bool :=
  match (s.core c).inst with
  | none => true
  | some k => let i := s.getInst k; i.status != .running || (i.stopping && s.allStopped i)

/-! ### Power leave (R143, R325, R350) -/

/-- POWER of a region (R325). -/
def State.power (s : State) (n : Nat) : Nat := fld (s.region (s.owner 1 n))[1] 31 16

/-- Units that the jobs of a core hold. -/
def Core.unitsHeld (x : Core) : Nat :=
  (x.queues.toList.flatMap fun q => q.jobs.map Job.units).sum + (x.frame.job.map FrameJob.units).getD 0

/-- Units held within a region's subtree. -/
def State.unitsIn (s : State) (n : Nat) : Nat :=
  ((List.finRange 512).map fun c =>
    let u := (s.core c).unitsHeld
    if u != 0 && (s.regionPath (s.instOn c).leaf.toNat).contains n then u else 0).sum

/-- A request can never be granted (R350). -/
def State.leaveRefused (s : State) (c : CoreId) (u : Nat) : Bool :=
  decide ((s.die (dieOf c)).cap.toNat < u) || (s.regionPath (s.instOn c).leaf.toNat).any fun n => decide (s.power n < u)

/-- A request may be granted now (R350). -/
def State.leaveFits (s : State) (c : CoreId) (u : Nat) : Bool :=
  let d := s.die (dieOf c)
  decide (d.granted + u ≤ (if d.throt then d.cap.toNat / 2 else d.cap.toNat)) &&
    (s.regionPath (s.instOn c).leaf.toNat).all fun n => decide (s.unitsIn n + u ≤ s.power n)

/-- Every die's head of line is looked at again. -/
def State.leaveAgain (s : State) : State := s.dueAll ((List.finRange 4).map .leaveGrant)

/-- Units come back to the die of a core (R143). -/
def State.returnUnits (s : State) (c : CoreId) (u : Nat) : State :=
  if u = 0 then s
  else
    let d := dieOf c
    (s.setDie d { s.die d with granted := (s.die d).granted - u }).leaveAgain

/-- Takes requests out of a die's line. -/
def State.withdrawLeave (s : State) (c : CoreId) (q : Option QueueId) : State :=
  let d := dieOf c
  let x := s.die d
  if x.leave.any fun r => r.core == c && r.queue == q then
    (s.setDie d { x with leave := x.leave.filter fun r => !(r.core == c && r.queue == q) }).due (.leaveGrant d)
  else s

/-- The frame job has finished and completes next (R159). -/
def State.endFrame (s : State) (c : CoreId) (e : JobEnd) : State :=
  let x := s.core c
  (s.setCore c { x with frame := { x.frame with job := x.frame.job.map fun j => { j with ending := some e } } }).due (.frameJobComplete c)

/-- A job is refused its leave: it ends FAULT (R143, R228, R350). -/
def State.refuse (s : State) (r : LeaveReq) : State :=
  match r.queue with
  | some q =>
    match ((s.core r.core).queue q).head with
    | some j => (s.updJob r.core q j.id fun j => { j with state := .running }).endJob r.core q j (JobEnd.bad j .fault 0x0047 (dw r.units))
    | none => s
  | none =>
    match (s.core r.core).frame.job with
    | some j => s.endFrame r.core { status := .fault, cause := 0x0047, addr := j.id.setWidth 64, detail := dw r.units, flags := 0, drop := 1 }
    | none => s

/-- Asks for leave, or is refused at once (R350). -/
def State.askLeave (s : State) (r : LeaveReq) : State :=
  let d := dieOf r.core
  if s.leaveRefused r.core r.units then s.refuse r
  else (s.setDie d { s.die d with leave := (s.die d).leave ++ [r] }).due (.leaveGrant d)

/-- Requests that wait and can no longer be granted are refused (R350). -/
def State.refuseWaiting (s : State) : State :=
  ((List.finRange 4).foldl (fun (s : State) d =>
    let bad := (s.die d).leave.filter fun r => s.leaveRefused r.core r.units
    bad.foldl State.refuse (s.setDie d { s.die d with leave := (s.die d).leave.filter fun r => !bad.contains r })) s).leaveAgain

/-- LEAVE_GRANT: the head of a die's line is granted, when the die and every region allow it (R350). -/
def execLeaveGrant (d : DieId) (s : State) : Out :=
  match (s.die d).leave with
  | [] => .next s
  | r :: rest =>
    if s.leaveFits r.core r.units then
      let s := (s.setDie d { s.die d with leave := rest, granted := (s.die d).granted + r.units }).due (.leaveGrant d)
      match r.queue with
      | some q =>
        match ((s.core r.core).queue q).head with
        | some j => .next ((s.updJob r.core q j.id fun j => { j with units := r.units }).due (.jobPop r.core q))
        | none => .next (s.returnUnits r.core r.units)
      | none =>
        let x := s.core r.core
        .next ((s.setCore r.core { x with frame := { x.frame with job := x.frame.job.map fun j => { j with units := r.units } } }).due
          (.stepBegin r.core))
    else .next s

/-- PWRCAP_WRITE (R350). -/
def execPwrcapWrite (d : DieId) (x : Dword) (s : State) : Out :=
  .next (s.setDie d { s.die d with cap := x.setWidth 16 }).refuseWaiting

/-- COOLANT_THROTTLE (R350). -/
def execCoolantThrottle (d : DieId) (s : State) : Out := .next (s.setDie d { s.die d with throt := true })
/-- COOLANT_BELOW_LIMIT (R350). -/
def execCoolantBelowLimit (d : DieId) (s : State) : Out :=
  .next (({ s with dies := s.dies.set d.val { s.die d with throt := false } d.isLt } : State).due (.leaveGrant d))

/-! ### From the pop to the work (R135) -/

/-- A job that has not started goes back to QUEUED: it leaves the waiters, and what it took from its semaphore and the
units it holds come back; what it has read of its parameters it keeps, whose range it has let go (R121, R141; log entry 21). -/
def State.revert (s : State) (c : CoreId) (q : QueueId) : State :=
  match ((s.core c).queue q).head with
  | none => s
  | some j =>
    if j.state == .queued then s
    else
      let x := s.core c
      let s := s.setCore c { x with semWait := x.semWait.filter fun w => w.party != .job q }
      let s := (s.withdrawLeave c (some q)).returnUnits c j.units
      let s := s.updJob c q j.id fun j => { j with state := .queued, units := 0, layout := none }
      if j.state == .awaitSem || !j.wen then s
      else s.signal c { set := false, k := j.wsem, n := j.wamt, src := .job q j.sid }

/-- A job begins its work. -/
def State.startJob (s : State) (c : CoreId) (q : QueueId) (j : Job) : State :=
  (s.updJob c q j.id fun y => { y with state := .running }).whenReady (kindEvent j.kind c q)

/-- A job fails a check of its pop (R135, R228). A `CNIN` leaves zeros at ROFF on any fault, where ROFF names scratchpad (R378). -/
def State.failedPop (s : State) (c : CoreId) (q : QueueId) (j : Job) (cause : BitVec 16) (detail : Dword) : State :=
  let roff := fld j.d3 31 0
  let s := if j.kind = 0x41 && spadFits roff 32 32 then s.setCore c ((s.core c).setSpad roff 32 0) else s
  (s.updJob c q j.id fun j => { j with state := .running }).endJob c q j (JobEnd.bad j .fault cause detail)

/-- The head of a queue has everything but its engine (R135). -/
def State.engineHead (s : State) (c : CoreId) (q : QueueId) : Option Job :=
  if s.jobsHeld c then none else ((s.core c).queue q).head.filter fun j => j.state == .awaitLeave && j.kind != 7

/-- An engine shared by cores takes a job: the first of them, in their rotation, whose head is ready (R256, R315). -/
def State.takeFor (s : State) (q : QueueId) (order : List CoreId) (took : State → CoreId → State) : State :=
  match order.findSome? fun c => (s.engineHead c q).map fun j => (c, j) with
  | some (c, j) => took (s.startJob c q j) c
  | none => s

/-- Jobs of a shared engine that run among some cores. -/
def State.engineBusy (s : State) (q : QueueId) (cs : List CoreId) : Nat :=
  (cs.filter fun c => ((s.core c).queue q).running.any fun j => j.kind != 7).length

/-- A die's cores from the one after that last served (R315). -/
def State.gatherOrder (s : State) (d : DieId) : List CoreId :=
  (List.finRange 128).map fun i => ⟨128 * d.val + ((s.die d).gatherLast + 1 + i.val) % 128, by omega⟩

/-- A cluster's cores from the one after that last served (R256). -/
def State.mergeOrder (s : State) (k : ClusterId) : List CoreId :=
  (List.finRange 4).map fun i => coreOf k ((s.clusters[k]).mergeLast + 1 + i.val)

/-- A job with nothing left to wait for goes to its engine: `q4` to its die's, `q5` to its cluster's, the others to their
own (R256, R315). A `QFENCE` starts once the jobs it recorded have retired (R234). -/
def State.toEngine (s : State) (c : CoreId) (q : QueueId) (j : Job) : State :=
  if j.kind = 7 then (if j.fence.all (s.core c).fenceDone then s.startJob c q j else s)
  else if q.val = 4 then
    let d := dieOf c
    let order := s.gatherOrder d
    if 16 ≤ s.engineBusy q order then s
    else s.takeFor q order fun s x => (s.setDie d { s.die d with gatherLast := x.val % 128 }).due (.jobPop c q)
  else if q.val = 5 then
    let k := clusterOf c
    let order := s.mergeOrder k
    if 1 ≤ s.engineBusy q order then s
    else s.takeFor q order fun s x =>
      { s with clusters := s.clusters.set k.val { s.clusters[k] with mergeLast := coreInCluster x } k.isLt }
  else s.startJob c q j

/-- JOB_POP: the job at the front of a queue goes one state further, as far as it may (R135). Its parameters are read at the pop, which
is its last access to their range (R141, R257, R376; log entry 22). -/
def execJobPop (c : CoreId) (q : QueueId) (s : State) : Out :=
  if s.jobsHeld c then .next (s.revert c q)
  else
    let x := s.core c
    match (x.queue q).head with
    | none => .next s
    | some j =>
      let go (s : State) (f : Job → Job) : State := (s.updJob c q j.id f).due (.jobPop c q)
      match j.state with
      | .queued =>
        let s := if j.layoutNo = 0 then s else s.met (s.layoutAddr j.space j.layoutNo) 64
        let j := if j.params.isEmpty then (s.captured j).readParams x else s.captured j
        let s := s.updJob c q j.id fun y => { y with layout := j.layout, params := j.params }
        let s := if j.params.isEmpty then s else s.releaseReads c q j.id
        match (popCheck x q j).or (paramCheck j) with
        | some (cause, detail) => .next (s.failedPop c q j cause detail)
        | none =>
          if !j.wen || j.wamt = 0 then .next (go s fun j => { j with state := .awaitTile })
          else if s.canAcquire c j.wsem j.wamt then
            .next (go (s.setCore c ((s.core c).setSem j.wsem (x.semCount j.wsem - j.wamt))) fun j => { j with state := .awaitTile })
          else
            let s := s.updJob c q j.id fun j => { j with state := .awaitSem }
            let y := s.core c
            .next ((s.setCore c { y with semWait := y.semWait ++ [{ k := j.wsem, n := j.wamt, party := .job q }] }).due
              (.semaphoreCycle c))
      | .awaitTile => if x.tileReady j then .next (go s fun j => { j with state := .awaitLeave }) else .next s
      | .awaitLeave =>
        let u := (x.queue q).unitsFor j
        if u = 0 || j.units != 0 then .next (s.toEngine c q j)
        else if (s.die (dieOf c)).leave.any fun r => r.core == c && r.queue == some q then .next s
        else .next (s.askLeave { core := c, queue := some q, units := u })
      | _ => .next s

/-! ### The end of a job (R136, R137) -/

/-- Queues whose heads may go on once a job has ended: the core's own, and those that share an engine. -/
def State.jobEnded (s : State) (c : CoreId) (q : QueueId) : State :=
  let s := (s.due (.jobPop c q)).kick c
  let waits (x : CoreId) : Bool := (s.engineHead x q).isSome
  let s := if q.val = 4 then s.dueAll (((s.gatherOrder (dieOf c)).filter waits).map fun x => .jobPop x q)
    else if q.val = 5 then s.dueAll (((s.mergeOrder (clusterOf c)).filter waits).map fun x => .jobPop x q) else s
  match (s.core c).inst with
  | some k => s.due (.instanceRetire k)
  | none => s

/-- A job leaves its queue: its ranges, its units and its waits go with it (R141, R143). -/
def State.removeJob (s : State) (c : CoreId) (q : QueueId) (j : Job) : State :=
  let x := s.core c
  let qu := x.queue q
  let x := { x.setQueue q { qu with jobs := qu.jobs.filter fun y => y.id != j.id } with
             board := x.board.filter fun r => !(r.queue == q && r.job == j.id)
             semWait := if j.state == .awaitSem then x.semWait.filter fun w => w.party != .job q else x.semWait }
  let s := s.setCore c x
  let s := if j.state == .awaitLeave then s.withdrawLeave c (some q) else s
  s.returnUnits c j.units

/-- What a job's end reports: flags and dropped items at its pusher, and a record (R22, R136, R228). -/
def State.reportJob (s : State) (c : CoreId) (q : QueueId) (j : Job) (e : JobEnd) : State :=
  let w := j.pusher c
  let s := s.raise w e.flags
  let s := if e.drop = 0 then s else s.drop w e.drop
  if e.cause = 0 then s else s.jobFault c (BitVec.ofNat 4 q.val) e.cause e.addr e.detail

/-- The signal of a job that ended OK or INCOMPLETE (R136). -/
def State.signalJob (s : State) (c : CoreId) (q : QueueId) (j : Job) (e : JobEnd) : State :=
  if j.sen && (e.status == .ok || e.status == .incomplete) then
    s.signal c { set := false, k := j.ssem, n := j.samt, src := .job q j.sid }
  else s

/-- A job retires with an end (R136). -/
def State.retireJob (s : State) (c : CoreId) (q : QueueId) (j : Job) (e : JobEnd) : State :=
  ((s.removeJob c q j).reportJob c q j e).signalJob c q j e

/-- A job of an earlier queue of the core ends in this cycle, or may: its record comes first (R114). -/
def State.endsBefore (s : State) (c : CoreId) (q : QueueId) : Bool :=
  (List.finRange 8).any fun p => decide (p < q) && (s.agenda.contains (.jobComplete c p) ||
    ((s.core c).queue p).work.any fun j => s.agenda.contains (kindEvent j.kind c p))

/-- JOB_COMPLETE: a job ends with its status (R136); records of one cycle are written in queue order (R114). A HALT keeps it at the head of its queue, its ranges claimed and its
units returned; the end of a job that a `RESUME` continued ends the `RESUME` with it (R236). -/
def execJobComplete (c : CoreId) (q : QueueId) (s : State) : Out :=
  match ((s.core c).queue q).jobs.find? fun j => j.ending.isSome with
  | none => .next s
  | some j =>
    match j.ending with
    | none => .next s
    | some e =>
      if e.cause != 0 && s.endsBefore c q then .next (s.due (.jobComplete c q))
      else
      let carrier := if j.state == .halted then ((s.core c).queue q).running else none
      let s : State := match e.status with
        | JobStatus.halt =>
          let s := s.returnUnits c j.units
          (s.updJob c q j.id fun j => { j with state := .halted, ending := none, units := 0, leases := [] }).reportJob c q j e
        | _ => s.retireJob c q j e
      let s := match carrier with
        | some r => if e.status == JobStatus.halt then s.removeJob c q r else s.retireJob c q r JobEnd.ok
        | none => s
      let s := if ((s.core c).queue q).haltedJob.isSome then s.due (.jobsDropped c q) else s
      .next (s.jobEnded c q)

/-- JOBS_DROPPED: when the instance has ended, or its strands have and the queue is halted with no `RESUME` in it, the
unstarted jobs of a queue are dropped in order and a halted job retires (R112, R137). -/
def execJobsDropped (c : CoreId) (q : QueueId) (s : State) : Out :=
  match (s.core c).inst with
  | none => .next s
  | some k =>
    let i := s.getInst k
    let qu := (s.core c).queue q
    let ended := i.strands.all fun w => (s.strand w).life != .running
    let gone := i.status == .terminated || (ended && qu.haltedJob.isSome && !qu.jobs.any fun j => j.kind == 0x0A)
    if !gone then .next s
    else
      let out := qu.jobs.filter fun j => j.unstarted || (j.state == .halted && qu.running.isNone)
      .next ((out.foldl (fun (s : State) j => s.removeJob c q j) s).jobEnded c q)

end Sys2Proof.Machine
end

