-- ==== Sys2Proof/Machine/Nest.lean ====
section
/-!
DEFINITION. Nest tables, operand records and elements of the matrix strand and the frame (R145 to R153, R174).
-/

namespace Sys2Proof.Machine

/-- A nest table: its dwords (R147). -/
abbrev Nest := Vector Dword 48

/-- Dword `i` of a nest table. -/
def Nest.dword (t : Nest) (i : Nat) : Dword := (t[i]?).getD 0
/-- A nest table with a dword replaced. -/
def Nest.put (t : Nest) (i : Nat) (x : Dword) : Nest := t.setIfInBounds i x

/-- COUNT of a level. -/
def Nest.count (t : Nest) (l : Nat) : Nat := fld (t.dword (4 * l)) 15 0
/-- Steps of the nest: none when a COUNT is 0 (R146). -/
def Nest.steps (t : Nest) : Nat := ((List.range 6).map t.count).prod
/-- Index of a level at a step, level 0 varying fastest (R146). -/
def Nest.index (t : Nest) (st l : Nat) : Nat := st / ((List.range l).map t.count).prod % t.count l
/-- A sum over the levels of index times stride. -/
def Nest.sum (t : Nest) (st : Nat) (stride : Nat → Nat) : Nat := ((List.range 6).map fun l => t.index st l * stride l).sum

/-- Mode fields (R147). -/
def Nest.mode (t : Nest) : Dword := t.dword 32
def Nest.window (t : Nest) : Nat := 2 ^ fld t.mode 5 4
def Nest.ordered (t : Nest) : Bool := t.mode.getLsbD 6
def Nest.home (t : Nest) : Bool := t.mode.getLsbD 7
/-- Semaphore fields (R147). -/
def Nest.wsem (t : Nest) : BitVec 8 := (t.dword 34).extractLsb' 0 8
def Nest.wamt (t : Nest) : Nat := fld (t.dword 34) 15 8
def Nest.wen (t : Nest) : Bool := (t.dword 34).getLsbD 16
def Nest.ssem (t : Nest) : BitVec 8 := (t.dword 34).extractLsb' 24 8
def Nest.samt (t : Nest) : Nat := fld (t.dword 34) 39 32
def Nest.sen (t : Nest) : Bool := (t.dword 34).getLsbD 40

/-- An operand descriptor (R147). -/
structure Operand where
  base : Nat
  /-- REC: 0 DENSE, 1 BITMAP, 2 COORD, 3 NM -/
  form : Nat
  /-- M of NM -/
  m : Nat
  n : Nat
  /-- scale block size -/
  block : Nat
  scaled : Bool
  kext : Nat
  sbase : Nat
  rstr : Nat
  loc : Nat
  src : Nat
  mcast : Nat
  tile : TReg
deriving DecidableEq, Repr, Inhabited

/-- Operand A, or B, of a nest table. -/
def Nest.operand (t : Nest) (b : Bool) : Operand :=
  let i := if b then 28 else 24
  let d := t.dword i
  let e := t.dword (i + 1)
  let f := t.dword (i + 2)
  { base := fld d 31 0, form := fld d 33 32, m := 4 * 2 ^ fld d 35 34, n := fld d 41 36, block := 16 * 2 ^ fld d 43 42
    scaled := d.getLsbD 45, kext := fld d 63 48, sbase := fld e 31 0, rstr := fld e 63 32, loc := fld f 1 0
    src := fld f 3 2, mcast := fld f 7 4, tile := f.extractLsb' 8 4 }

/-- A scaled job (R151). -/
def Nest.scaled (t : Nest) : Bool := (t.operand false).scaled || (t.operand true).scaled
/-- Positions of a chunk (R151, R154). -/
def Nest.chunk (t : Nest) : Nat :=
  if t.scaled then min (t.operand false).block (t.operand true).block else 4 * 2 ^ fld t.mode 2 0
/-- K extent of a step. -/
def Nest.kext (t : Nest) : Nat := (t.operand false).kext
/-- Chunks of a step (R154). -/
def Nest.chunks (t : Nest) : Nat := (t.kext + t.chunk - 1) / t.chunk

/-- The bases of a step (R146). -/
def Nest.abase (t : Nest) (st : Nat) : Nat :=
  ((t.operand false).base + t.sum st fun l => fld (t.dword (4 * l + 1)) 31 0) % 2 ^ 32
def Nest.bbase (t : Nest) (st : Nat) : Nat :=
  ((t.operand true).base + t.sum st fun l => fld (t.dword (4 * l + 1)) 63 32) % 2 ^ 32
def Nest.asbas (t : Nest) (st : Nat) : Nat :=
  ((t.operand false).sbase + t.sum st fun l => fld (t.dword (4 * l + 2)) 31 0) % 2 ^ 32
def Nest.bsbas (t : Nest) (st : Nat) : Nat :=
  ((t.operand true).sbase + t.sum st fun l => fld (t.dword (4 * l + 2)) 63 32) % 2 ^ 32
/-- Deck tile of a step: strides and tile count modulo 4 (R146). -/
def Nest.ctile (t : Nest) (st : Nat) : Nat :=
  (fld (t.dword 33) 1 0 + t.sum st fun l => fld (t.dword (4 * l + 3)) 7 0) % 4

/-- Deck tiles that the table can address, for any index vector: an index and its remainder modulo 4 name the same tile
(R163). -/
def Nest.addresses (t : Nest) (tile : Nat) : Bool :=
  let level (l : Nat) (ts : List Nat) : List Nat :=
    ((List.range (min 4 (t.count l))).flatMap fun i => ts.map fun x => (x + i * fld (t.dword (4 * l + 3)) 7 0) % 4).eraseDups
  ((List.range 6).foldl (fun ts l => level l ts) [fld (t.dword 33) 1 0]).contains tile

/-! ### Formats (R150, R174) -/

/-- Bits of an element (R150). -/
def elemBits (f : Fmt) : Nat := fmtBits f.toBits.toNat
/-- Lane group of a format (R10). -/
def laneGroup : Fmt → Nat
  | .e4m3 | .e5m2 | .int8 | .uint8 => 4
  | .e2m1s | .int4 => 8
  | .int2t => 16
  | _ => 2
/-- Formats that may carry side records (R174). -/
def scalable : Fmt → Bool
  | .e4m3 | .e5m2 | .e2m1s => true
  | _ => false

/-- Value of a floating element; an E2M1S one may carry its block's special code (R69, `BRow`). -/
def elemVal (f : Fmt) (x : Nat) : FVal :=
  match f with
  | .fp16 => FFmt.fp16.decode x
  | .bf16 => FFmt.bf16.decode x
  | .e4m3 => decodeE4m3 x
  | .e5m2 => FFmt.e5m2.decode x
  | .e2m1s => decodeE2m1s (x % 256) (if x < 256 then none else some (x / 256 - 1))
  | _ => FFmt.fp32.decode x

/-- Value of an integer element; the illegal code of INT2T reads as 0 (R71, R83). -/
def elemInt (f : Fmt) (x : Nat) : Int :=
  match f with
  | .int8 => (BitVec.ofNat 8 x).toInt
  | .int4 => (BitVec.ofNat 4 x).toInt
  | .int2t => if x = 1 then 1 else if x = 3 then -1 else 0
  | _ => x

/-- The illegal code of INT2T (R71). -/
def elemIllegal (f : Fmt) (x : Nat) : Bool := f == .int2t && x == 2

/-- A DENSE element that is not matched: zero of either sign (R80). -/
def elemZero (f : Fmt) (acc : Acc) (x : Nat) : Bool :=
  if acc == .int then elemInt f x == 0
  else match elemVal f x with
    | .zero _ => true
    | _ => false

/-- Length of a fixed record: a DENSE or NM row of A, a DENSE K-row of B (R150, R151). -/
def Operand.fixedLen (o : Operand) (b : Bool) (e : Nat) : Nat :=
  if b then 8 * e
  else if o.form = 3 then (o.kext + o.m - 1) / o.m * (max 1 (o.m / 8) + (o.n * e + 7) / 8)
  else (o.kext * e + 7) / 8

/-- Bytes of a record that a step may read (R153). -/
def Operand.recLen (o : Operand) (b : Bool) (e : Nat) : Nat := if o.rstr = 0 then o.fixedLen b e else o.rstr

/-! ### The checks of MGO (R148, R174) -/

/-- Dwords of the table with nonzero RESERVED fields, outside the EPI area (R147, R148). -/
def Nest.reservedZero (t : Nest) : Bool :=
  ((List.range 6).all fun l => fld (t.dword (4 * l)) 63 16 == 0 && fld (t.dword (4 * l + 3)) 63 8 == 0) &&
    ([24, 28].all fun i => fld (t.dword i) 47 46 == 0 && fld (t.dword (i + 2)) 63 12 == 0 && t.dword (i + 3) == 0) &&
    !t.mode.getLsbD 3 && fld t.mode 63 8 == 0 && fld (t.dword 33) 63 2 == 0 && fld (t.dword 34) 23 17 == 0 &&
    fld (t.dword 34) 63 41 == 0

/-- Checks of one operand. -/
def Operand.ok (o : Operand) (b : Bool) (f : Fmt) : Bool :=
  !(b && decide (2 ≤ o.form)) && decide (1 ≤ o.n ∧ o.n ≤ o.m) && o.kext != 0 && o.loc != 3 && (b || o.mcast == 0) &&
    o.base % 8 == 0 && o.rstr % 8 == 0 && o.sbase % 2 == 0 &&
    (o.rstr != 0 || o.form == 0 || o.form == 3) &&
    !((o.form == 0 || o.form == 3) && o.rstr != 0 && decide (o.rstr < o.fixedLen b (elemBits f))) &&
    (!o.scaled || scalable f)

/-- The table may start a job of these formats (R148, R174). -/
def Nest.ok (t : Nest) (fa fb : Fmt) (acc : Acc) : Bool :=
  t.reservedZero && (t.operand false).ok false fa && (t.operand true).ok true fb &&
    (t.operand false).kext == (t.operand true).kext && decide (fld t.mode 2 0 ≤ 4) && fld t.mode 5 4 != 3 &&
    !(t.scaled && (decide (1 < t.steps) || decide (t.chunk < t.kext))) &&
    (t.scaled == (acc == .fps))

/-! ### Where operands lie (R152) -/

/-- The core whose memory holds an operand. -/
def Operand.holder (o : Operand) (c : CoreId) : CoreId := if o.loc = 2 then coreOf (clusterOf c) o.src else c

/-- `n` bytes of an operand as a number. -/
def State.opNat (s : State) (c : CoreId) (o : Operand) (off n : Nat) : Nat :=
  if o.loc = 1 then (s.core c).tiles.nat (tileRow o.tile 0 + off) n else (s.core (o.holder c)).spad.nat off n

/-- Element `k` of those packed from an offset (R61). -/
def State.opElem (s : State) (c : CoreId) (o : Operand) (off e k : Nat) : Nat :=
  s.opNat c o (off + k * e / 8) (if e = 16 then 2 else 1) / 2 ^ (k * e % 8) % 2 ^ e

/-- Bytes a location holds (R153). -/
def Operand.limit (o : Operand) : Nat := if o.loc = 1 then 0x4000 else Config.spadBytes

/-- A read over the cluster network waits at the source core's scoreboard (R141, R152). -/
def State.opWaits (s : State) (c : CoreId) (o : Operand) (off n : Nat) : Bool :=
  o.loc == 2 && (s.core (o.holder c)).boarded false off n

/-- Side records of a line of an operand. -/
def Operand.blocks (o : Operand) : Nat := (o.kext + o.block - 1) / o.block

/-- So does the read of the side records of some lines of an operand, which E2M1S elements take (R76, R152). -/
def State.sideWaits (s : State) (c : CoreId) (o : Operand) (f : Fmt) (base line n : Nat) : Bool :=
  o.scaled && f == .e2m1s && s.opWaits c o (base + 2 * line * o.blocks) (2 * n * o.blocks)

/-! ### The range of a step (R153) -/

/-- The first byte beyond a limit among `n` records of length `len`, `stride` apart. -/
def beyondRecords (base stride n len limit : Nat) : Option Nat :=
  if n = 0 || len = 0 then none
  else
    let i := if limit < base + len then some 0
      else if stride = 0 then none else some ((limit - base - len) / stride + 1)
    i.bind fun i => if i < n then some (max (base + i * stride) limit) else none

/-- The first offending offset of a step: rows of A, K-rows of B, side records of A and of B (R153). -/
def Nest.rangeFault (t : Nest) (fa fb : Fmt) (vc st : Nat) : Option Nat :=
  let a := t.operand false
  let b := t.operand true
  let side (o : Operand) (base rows : Nat) := if o.scaled then beyondRecords base 2 (rows * o.blocks) 2 o.limit else none
  (beyondRecords (t.abase st) a.rstr vc (a.recLen false (elemBits fa)) a.limit).or <|
  (beyondRecords (t.bbase st) b.rstr b.kext (b.recLen true (elemBits fb)) b.limit).or <|
  (side a (t.asbas st) vc).or (side b (t.bsbas st) 64)

/-! ### Records (R150, R151, R160) -/

/-- The special code of a side record, as it is kept with an E2M1S element (R69, R76, `BRow`). -/
def State.special (s : State) (c : CoreId) (o : Operand) (f : Fmt) (base line k : Nat) : Nat :=
  if o.scaled && f == .e2m1s then
    256 * (s.opNat c o (base + 2 * (line * o.blocks + k / o.block)) 2 / 256 % 16 + 1)
  else 0

/-- Where a lane stands in its record (R160): entries consumed, the last position among them, whether padding followed it. -/
structure RowAt where
  slot : Nat
  prev : Option Nat
  pad : Bool
deriving DecidableEq, Repr, Inhabited

/-- Entries of a BITMAP or COORD record that one chunk examines, from the first not consumed through the first at or beyond the
chunk's end: those it consumes, as position and slot, the fault of the first at fault as KIND and POS, and where the lane
stands then (R160). -/
def scanEntries (coord : Bool) (kext stop : Nat) :
    List Nat → RowAt → List (Nat × Nat) → List (Nat × Nat) × Option (Nat × Nat) × RowAt
  | [], at_, ok => (ok.reverse, none, at_)
  | k :: r, at_, ok =>
    if coord && k == 0xFFFF then scanEntries coord kext stop r { at_ with slot := at_.slot + 1, pad := true } ok
    else if coord && (at_.pad || at_.prev.any fun p => decide (k ≤ p)) then (ok.reverse, some (0, k), at_)
    else if kext ≤ k then (ok.reverse, some (1, k), at_)
    else if stop ≤ k then (ok.reverse, none, at_)
    else scanEntries coord kext stop r { at_ with slot := at_.slot + 1, prev := some k } ((k, at_.slot) :: ok)

/-- Bits set in a number, rising, among its low `n`. -/
def bitsOf (x n : Nat) : List Nat := (List.range n).filter fun i => x.testBit i

/-- A row of A as one chunk sees it: its stored elements by position, its fault if it has one, as KIND and POS, and where the
lane stands then (R150, R160). -/
structure ARow where
  elems : List (Nat × Nat)
  fault : Option (Nat × Nat)
  at_ : RowAt
deriving DecidableEq, Repr, Inhabited

/-- Bytes of a group's mask and of a whole group of an NM record (R150). -/
def Operand.maskBytes (o : Operand) : Nat := max 1 (o.m / 8)
def Operand.groupBytes (o : Operand) (e : Nat) : Nat := o.maskBytes + (o.n * e + 7) / 8

/-- Mask bits of a group of an NM record (R150). -/
def State.groupBits (s : State) (c : CoreId) (o : Operand) (base e g : Nat) : List Nat :=
  bitsOf (s.opNat c o (base + g * o.groupBytes e) o.maskBytes) (8 * o.maskBytes)

/-- Elements of a group of an NM record, by position; never more than it stores (R150). -/
def State.groupElems (s : State) (c : CoreId) (o : Operand) (base e g : Nat) : List (Nat × Nat) :=
  ((s.groupBits c o base e g).take o.n).zipIdx.map fun x => (g * o.m + x.1, s.opElem c o (base + g * o.groupBytes e + o.maskBytes) e x.2)

/-- The fault of a group, as KIND and POS (R160). -/
def State.groupFault (s : State) (c : CoreId) (o : Operand) (base e g : Nat) : Option (Nat × Nat) :=
  let bits := s.groupBits c o base e g
  match bits.find? fun x => decide (o.m ≤ x) || decide (o.kext ≤ g * o.m + x) with
  | some x => some (1, g * o.m + x)
  | none => if o.n < bits.length then some (2, g * o.m) else none

/-- Length of the positions of a BITMAP or COORD record, and the number of its elements (R150). -/
def State.rowShape (s : State) (c : CoreId) (o : Operand) (base : Nat) : Nat × Nat :=
  if o.form = 1 then
    let nd := (o.kext + 63) / 64
    (8 * nd, (bitsOf (s.opNat c o base (8 * nd)) (64 * nd)).length)
  else let n := s.opNat c o base 2; (2 + 2 * n, n)

/-- A row of A in chunk `ck` of a step (R150). A row longer than RSTR is found at its first chunk, before its entries; an NM
group is examined at the chunk of its first position (R160). -/
def State.aRow (s : State) (c : CoreId) (t : Nest) (f : Fmt) (acc : Acc) (st i ck : Nat) (at_ : RowAt) : ARow :=
  let o := t.operand false
  let e := elemBits f
  let base := t.abase st + i * o.rstr
  let lo := ck * t.chunk
  let hi := lo + t.chunk
  let kept (xs : List (Nat × Nat)) := xs.map fun x => (x.1, x.2 + s.special c o f (t.asbas st) i x.1)
  if o.form = 0 then
    let xs := kept (((List.range t.chunk).map (lo + ·)).filter (· < o.kext) |>.map fun k => (k, s.opElem c o base e k))
    { elems := xs.filter fun x => elemIllegal f x.2 || !elemZero f acc x.2, fault := none, at_ := at_ }
  else if o.form = 3 then
    let gs := (List.range ((o.kext + o.m - 1) / o.m)).filter fun g => decide (lo < (g + 1) * o.m) && decide (g * o.m < hi)
    { elems := kept ((gs.flatMap (s.groupElems c o base e)).filter fun x => decide (lo ≤ x.1) && decide (x.1 < hi))
      fault := (gs.filter fun g => decide (lo ≤ g * o.m)).findSome? (s.groupFault c o base e), at_ := at_ }
  else
    let (vo, n) := s.rowShape c o base
    if ck = 0 ∧ o.rstr < vo + (n * e + 7) / 8 then { elems := [], fault := some (3, 0), at_ := at_ }
    else
      let ps : List Nat :=
        if o.form = 1 then (bitsOf (s.opNat c o base vo) (8 * vo)).filter fun k => decide (lo ≤ k)
        else ((List.range (min n (o.rstr / 2))).drop at_.slot).map fun j => s.opNat c o (base + 2 + 2 * j) 2
      let (ok, bad, at_) := scanEntries (o.form == 2) o.kext hi ps at_ []
      { elems := kept (ok.map fun x => (x.1, s.opElem c o (base + vo) e x.2)), fault := bad, at_ := at_ }

/-- Elements of a row record of A that lie in its location, whatever of it is at fault (R71, R150, R153). -/
def State.aStored (s : State) (c : CoreId) (t : Nest) (f : Fmt) (st i : Nat) : List Nat :=
  let o := t.operand false
  let e := elemBits f
  let base := t.abase st + i * o.rstr
  let values (vo : Nat) (ks : List Nat) := (ks.filter fun k => decide (base + vo + (k + 1) * e / 8 ≤ o.limit)).map (s.opElem c o (base + vo) e)
  if o.form = 0 then values 0 (List.range o.kext)
  else if o.form = 3 then (List.range ((o.kext + o.m - 1) / o.m)).flatMap fun g => (s.groupElems c o base e g).map (·.2)
  else
    let (vo, n) := s.rowShape c o base
    if o.form = 1 then values vo (List.range n)
    else values vo ((List.range n).filter fun j => s.opNat c o (base + 2 + 2 * j) 2 != 0xFFFF)

/-- Illegal elements of a row record of A (R71). -/
def State.aIllegal (s : State) (c : CoreId) (t : Nest) (f : Fmt) (st i : Nat) : Nat :=
  if f == .int2t then ((s.aStored c t f st i).filter (elemIllegal f)).length else 0

/-- A K-row of B (R151). The illegal elements of INT2T are absent (R71). -/
def State.bRow (s : State) (c : CoreId) (t : Nest) (f : Fmt) (acc : Acc) (st k : Nat) : BRow :=
  let o := t.operand true
  let e := elemBits f
  let base := t.bbase st + k * o.rstr
  let cols := if o.form = 1 then bitsOf (s.opNat c o base 8) 64 else List.range 64
  let vo := if o.form = 1 then 8 else 0
  let xs := cols.zipIdx.map fun x => (x.1, s.opElem c o (base + vo) e x.2 + s.special c o f (t.bsbas st) x.1 k)
  let bad := (xs.filter fun x => elemIllegal f x.2).length
  if o.form = 1 ∧ o.rstr < 8 + (cols.length * e + 7) / 8 then { mask := 0, vals := [], bad := bad, long := true }
  else
    let here := xs.filter fun x => !elemIllegal f x.2 && (o.form == 1 || !elemZero f acc x.2)
    { mask := here.foldl (fun m x => setBit m x.1 true) 0
      vals := (List.range 64).map fun j => ((here.find? fun x => x.1 == j).map (·.2)).getD 0
      bad := bad, long := false }

end Sys2Proof.Machine
end

