-- ==== Sys2Proof/Machine/Frame.lean ====
section
/-!
DEFINITION. The elastic frame at work: steps, the window, lanes, rods, the deck, multicast, and the end and the pause of a
frame job (R145 to R163).
-/

namespace Sys2Proof.Machine

def State.frame (s : State) (c : CoreId) : Frame := (s.core c).frame
/-- The active nest table of a core. -/
def State.nest (s : State) (c : CoreId) : Nest := (s.frame c).active
def State.setFrame (s : State) (c : CoreId) (f : Frame) : State := s.setCore c { s.core c with frame := f }
def State.setFrameJob (s : State) (c : CoreId) (j : FrameJob) : State := s.setFrame c { s.frame c with job := some j }
/-- The frame job of a core with what runs of it. -/
def State.frameRun (s : State) (c : CoreId) : Option (FrameJob × FrameRun) :=
  (s.frame c).job.bind fun j => if j.ending.isSome then none else j.run.map fun r => (j, r)
def State.setRun (s : State) (c : CoreId) (j : FrameJob) (r : FrameRun) : State := s.setFrameJob c { j with run := some r }
/-- The M strand of a core. -/
def mOf (c : CoreId) : Who := ⟨c, .m⟩

/-- Adds a step to those due unless it is put off already. -/
def State.dueOnce (s : State) (e : Event) : State :=
  if s.agenda.contains e || s.timers.any (fun t => t.2 == e) then s else s.due e

/-! ### Beginning (R145, R146, R153, R180) -/

/-- A frame job has begun its first step (R112, R121). -/
def FrameJob.started (j : FrameJob) : Bool := j.run.isSome || j.step != 0

/-- A frame job may not go on: its instance has stopped; one that has started goes on after a fatal error (R112, R121). -/
def State.frameHeld (s : State) (c : CoreId) (j : FrameJob) : Bool :=
  s.jobsHeld c && !(j.started && (s.instOn c).status == .terminated)

/-- Clears the P and I planes of a deck tile (R180). -/
def clearPartials (d : Table DeckEntry) (tile : Nat) : Table DeckEntry :=
  d.map fun x => if x.1 / 4096 = tile then (x.1, { x.2 with p := 0, i := 0 }) else x

/-- A frame job that has its leave begins at its next step (R145, R155, R162). -/
def State.startFrame (s : State) (c : CoreId) (j : FrameJob) : State :=
  let t := s.nest c
  let at_ := j.step * t.chunks
  let lanes : Vector Lane 64 := Vector.ofFn fun i => { next := at_, count := 0, dead := j.faulted.getLsbD i.val, item := none, slot := 0, prev := none, pad := false }
  let run : FrameRun :=
    { lanes := lanes, oldest := at_, loaded := at_, window := [], rods := Vector.replicate 64 [], net := [], buffer := []
      added := Vector.replicate 64 0, busyTil := Vector.replicate 64 0, limit := t.steps, first := j.step, fault := none, mcTil := none }
  let x := s.core c
  let x := if j.acc == .fps then { x with deck := clearPartials x.deck (t.ctile j.step) } else x
  (s.setCore c x).setRun c { j with state := .running } run

/-- Tiles that a job's operands lie in are full (R145). -/
def Core.frameTiles (x : Core) (t : Nest) : Bool :=
  ([t.operand false, t.operand true] : List Operand).all fun o => o.loc != 1 || x.tfull o.tile

/-- A frame job that has not started goes one state further (R145, R146). -/
def State.frameWaits (s : State) (c : CoreId) (j : FrameJob) : State :=
  let t := s.nest c
  let x := s.core c
  match j.state with
  | .queued =>
    if !t.wen || t.wamt = 0 then (s.setFrameJob c { j with state := .awaitTile }).due (.stepBegin c)
    else if s.canAcquire c t.wsem t.wamt then
      ((s.setCore c (x.setSem t.wsem (x.semCount t.wsem - t.wamt))).setFrameJob c { j with state := .awaitTile }).due (.stepBegin c)
    else
      let s := s.setFrameJob c { j with state := .awaitSem }
      let y := s.core c
      (s.setCore c { y with semWait := y.semWait ++ [{ k := t.wsem, n := t.wamt, party := .frame }] }).due (.semaphoreCycle c)
  | .awaitTile =>
    if t.steps = 0 then s.endFrame c JobEnd.ok
    else if x.frameTiles t then (s.setFrameJob c { j with state := .awaitLeave }).due (.stepBegin c)
    else s
  | .halted => (s.setFrameJob c { j with state := .awaitLeave }).due (.stepBegin c)
  | .awaitLeave =>
    if j.units != 0 then (s.startFrame c j).due (.stepBegin c)
    else if (s.die (dieOf c)).leave.any fun r => r.core == c && r.queue.isNone then s
    else s.askLeave { core := c, queue := none, units := 8 }
  | _ => s

/-! ### What can go on -/

/-- The window has room for the next chunk (R155). -/
def FrameRun.room (r : FrameRun) (t : Nest) : Bool := decide (r.loaded < r.oldest + t.window)
/-- The next chunk may be loaded: its step has begun and it has a slot (R155). -/
def FrameJob.wantsLoad (j : FrameJob) (r : FrameRun) (t : Nest) : Bool := r.room t && decide (r.loaded < min j.step r.limit * t.chunks)
/-- The next step may begin. -/
def FrameJob.wantsStep (j : FrameJob) (r : FrameRun) (t : Nest) : Bool :=
  r.room t && decide (j.step < r.limit) && r.loaded == j.step * t.chunks
/-- A lane may evaluate its next chunk, or place its item (R155, R156). -/
def FrameRun.laneReady (r : FrameRun) (t : Nest) (l : Lane) : Bool :=
  l.item.isSome || (decide (l.next < r.loaded) && decide (l.next < r.oldest + t.window) && decide (l.next < r.limit * t.chunks))

/-- Puts off what the frame can do next. -/
def State.frameGo (s : State) (c : CoreId) : State :=
  match s.frameRun c with
  | none => s
  | some (j, r) =>
    let t := s.nest c
    let s := if j.wantsStep r t then s.dueOnce (.stepBegin c) else s
    let s := if j.wantsLoad r t then s.dueOnce (.windowLoad c) else s
    (List.finRange 64).foldl (fun (s : State) i => if r.laneReady t r.lanes[i] then s.dueOnce (.laneEvaluate c i) else s) s

/-! ### Multicast groups (R152) -/

/-- The cores that a job's multicast loads go to: those it names and that have not left. -/
def State.group (s : State) (c : CoreId) (j : FrameJob) : List CoreId :=
  let m := ((s.nest c).operand true).mcast
  ((List.range 4).filter fun i => (m.testBit i || i == coreInCluster c) && !j.left.getLsbD i).map (coreOf (clusterOf c))

/-- A job takes part in multicast loads. -/
def State.inGroup (s : State) (c : CoreId) (j : FrameJob) : Bool :=
  ((s.nest c).operand true).mcast != 0 && !j.left.getLsbD (coreInCluster c)

/-- The others of a group stop waiting for a core (R152). -/
def State.leaveGroup (s : State) (c : CoreId) : State :=
  match (s.frame c).job with
  | none => s
  | some j =>
    if s.inGroup c j then
      let s := s.setFrameJob c { j with left := 15 }
      ((s.group c { j with left := 0 }).filter (· != c)).foldl (fun (s : State) x =>
        match (s.frame x).job with
        | some y => (s.setFrameJob x { y with left := setBit y.left (coreInCluster c) true }).frameGo x
        | none => s) s
    else s

/-! ### Completion of chunks, steps and the job (R155, R159, R162) -/

/-- A chunk is complete: every lane has evaluated it and every item of it has been added (R155). -/
def FrameRun.chunkDone (r : FrameRun) (c : Nat) : Bool :=
  decide (c < r.loaded) &&
    (r.lanes.toList.all fun l => decide (c < l.next) && !l.item.any fun i => i.chunk == c) &&
    !(r.rods.toList.any fun q => q.any fun i => i.chunk == c) && !(r.net.any fun i => i.chunk == c) && !(r.buffer.any fun i => i.chunk == c)

/-- Completes the oldest chunks as far as they are complete; their illegal elements count (R71). -/
def State.completeChunks (s : State) (c : CoreId) : Nat → State
  | 0 => s
  | fuel + 1 =>
    match s.frameRun c with
    | none => s
    | some (j, r) =>
      if r.chunkDone r.oldest then
        let bad := ((r.window.filter fun x => x.1 == r.oldest).flatMap fun x => x.2.map BRow.bad).sum
        let t := s.nest c
        let j := { j with done := (r.oldest + 1) / t.chunks, flags := if bad = 0 then j.flags else j.flags ||| fTCODE }
        let s := s.setRun c j { r with oldest := r.oldest + 1, window := r.window.filter fun x => x.1 != r.oldest }
        let s := if bad = 0 then s else s.drop (mOf c) bad
        State.completeChunks s c fuel
      else s

/-- The end a frame job has reached (R136, R153, R160). -/
def FrameJob.endOf (j : FrameJob) (fault : Option Dword) : JobEnd :=
  let bad (st : JobStatus) (cause : BitVec 16) (d : Dword) : JobEnd :=
    { status := st, cause := cause, addr := j.id.setWidth 64, detail := d, flags := 0, drop := 0 }
  match fault, j.report with
  | some d, _ => bad .fault 0x0051 d
  | none, some (_, _, _, d) => bad .incomplete 0x0050 d
  | none, none => JobEnd.ok

/-- The frame has done all it may: the job ends, or it pauses with its units returned (R153, R159, R162). -/
def State.finishFrame (s : State) (c : CoreId) (j : FrameJob) (r : FrameRun) : State :=
  let t := s.nest c
  if r.fault.isSome || t.steps ≤ r.limit then (s.setFrameJob c { j with run := none }).endFrame c (j.endOf r.fault)
  else
    ((s.setFrameJob c { j with run := none, state := .halted, step := r.limit, units := 0 }).returnUnits c j.units).leaveGroup c

/-- After a change: chunks complete, the job ends or pauses, and what can go on does. -/
def State.settleFrame (s : State) (c : CoreId) : State :=
  let s := s.completeChunks c 4
  match s.frameRun c with
  | none => s
  | some (j, r) =>
    if r.limit * (s.nest c).chunks ≤ r.oldest then s.finishFrame c j r else s.frameGo c

/-- A running job ends FAULT at once (R152). -/
def State.faultFrame (s : State) (c : CoreId) (cause : BitVec 16) : State :=
  match s.frameRun c with
  | none => s
  | some (j, _) =>
    (s.setFrameJob c { j with run := none }).endFrame c
      { status := .fault, cause := cause, addr := j.id.setWidth 64, detail := 0, flags := 0, drop := 0 }

/-- STEP_BEGIN: a frame job goes on towards its first step, or begins its next: a step that can read beyond a location
adds nothing, and the job ends there (R145, R153). -/
def execStepBegin (c : CoreId) (s : State) : Out :=
  match (s.frame c).job with
  | none => .next s
  | some j =>
    match j.ending, j.run with
    | some _, _ => .next s
    | none, none => if s.frameHeld c j then .next s else .next (s.frameWaits c j)
    | none, some r =>
      let t := s.nest c
      let r := if s.frameHeld c j || r.fault.isSome then r else { r with limit := t.steps }
      if j.wantsStep r t then
        match t.rangeFault j.fa j.fb j.vc j.step with
        | some o =>
          .next ((s.setRun c j { r with limit := j.step, fault := some (dw (o % 2 ^ 32 + j.step % 2 ^ 32 * 2 ^ 32)) }).settleFrame c)
        | none => .next ((s.setRun c { j with step := j.step + 1 } r).settleFrame c)
      else .next ((s.setRun c j r).settleFrame c)

/-! ### The B window (R152, R155, R160) -/

/-- Keeps the metadata fault with the lowest step, chunk and row (R160). -/
def FrameJob.noteFault (j : FrameJob) (f : Nat × Nat × Nat × Dword) : FrameJob :=
  let before (a b : Nat × Nat × Nat × Dword) : Bool :=
    decide (a.1 < b.1) || (a.1 == b.1 && (decide (a.2.1 < b.2.1) || (a.2.1 == b.2.1 && decide (a.2.2.1 < b.2.2.1))))
  match j.report with
  | none => { j with report := some f }
  | some g => if before f g then { j with report := some f } else j

/-- DETAIL of a metadata fault (R160). -/
def metaDetail (pos row : Nat) (opb : Bool) (kind st : Nat) : Dword :=
  packFields [(pos % 65536, 0), (row, 16), (bit01 opb, 22), (kind, 24), (st % 2 ^ 32, 32)]

/-- The positions of a chunk (R154). -/
def Nest.positions (t : Nest) (chunk : Nat) : List Nat :=
  let ck := chunk % t.chunks
  ((List.range t.chunk).map fun i => ck * t.chunk + i).filter fun k => decide (k < t.kext)

/-- The B rows of a chunk, as they stand (R151, R155). -/
def State.chunkRows (s : State) (c : CoreId) (j : FrameJob) (chunk : Nat) : List BRow :=
  let t := s.nest c
  (t.positions chunk).map (s.bRow c t j.fb j.acc (chunk / t.chunks))

/-- The B rows of a chunk wait at the scoreboard of the core that holds them (R152). -/
def State.rowsWait (s : State) (c : CoreId) (j : FrameJob) (chunk : Nat) : Bool :=
  let t := s.nest c
  let o := t.operand true
  s.sideWaits c o j.fb (t.bsbas (chunk / t.chunks)) 0 64 ||
    (t.positions chunk).any fun k => s.opWaits c o (t.bbase (chunk / t.chunks) + k * o.rstr) (o.recLen true (elemBits j.fb))

/-- The rows of the next chunk land in the window; a K-row that is too long is a fault of its chunk (R155, R160). -/
def State.land (s : State) (c : CoreId) (j : FrameJob) (r : FrameRun) (rows : List BRow) : State :=
  let t := s.nest c
  let st := r.loaded / t.chunks
  let j := match ((t.positions r.loaded).zip rows).find? fun x => x.2.long with
    | some (k, _) => j.noteFault (st, r.loaded % t.chunks, 0, metaDetail k 0 true 3 st)
    | none => j
  (s.setRun c j { r with loaded := r.loaded + 1, window := r.window ++ [(r.loaded, rows)], mcTil := none }).settleFrame c

/-- A fetch over the cluster network has succeeded (R264). -/
def State.fetched (s : State) (c : CoreId) (o : Operand) : State := if o.loc = 2 then s.portGood c else s

/-- WINDOW_LOAD: the B rows of the next chunk land (R155). A member of a multicast group waits for the load of the group,
for 2^20 cycles (R152). -/
def execWindowLoad (c : CoreId) (s : State) : Out :=
  match s.frameRun c with
  | none => .next s
  | some (j, r) =>
    let t := s.nest c
    if !j.wantsLoad r t then .next s
    else if s.inGroup c j then
      let til := s.time.toNat + 2 ^ 20
      let s := if r.mcTil.isSome then s else (s.setRun c j { r with mcTil := some til }).timer til (.multicastTimeout c til)
      .next (s.dueOnce (.multicastLoad c))
    else if s.rowsWait c j r.loaded then .next (s.timer (s.time.toNat + 1) (.windowLoad c))
    else .next ((s.fetched c (t.operand true)).land c j r (s.chunkRows c j r.loaded))

/-- What a delivery and what its receiver expects are compared by (R152). -/
def State.delivery (s : State) (c : CoreId) (r : FrameRun) : List Nat :=
  let t := s.nest c
  ((List.range 4).map fun i => (t.dword (28 + i)).toNat) ++ [t.kext, t.chunk, t.steps, r.loaded]

/-- MULTICAST_LOAD: once every member runs and has a slot for the load, the first member's rows are fetched once and
delivered to all; a member that expects another delivery ends FAULT (R152). -/
def execMulticastLoad (c : CoreId) (s : State) : Out :=
  match s.frameRun c with
  | none => .next s
  | some (j, _) =>
    let cores := s.group c j
    let ready (x : CoreId) : Bool := match s.frameRun x with
      | some (y, r) => s.inGroup x y && y.wantsLoad r (s.nest x)
      | none => false
    if !s.inGroup c j || !cores.all ready then .next s
    else
      match cores.head?.bind fun x => (s.frameRun x).map fun y => (x, y) with
      | none => .next s
      | some (lead, y, r) =>
        if s.rowsWait lead y r.loaded then .next (s.timer (s.time.toNat + 1) (.multicastLoad c))
        else
          let rows := s.chunkRows lead y r.loaded
          let sent := s.delivery lead r
          let s := s.fetched lead ((s.nest lead).operand true)
          .next (cores.foldl (fun (s : State) x =>
            match s.frameRun x with
            | some (z, q) => if s.delivery x q == sent then s.land x z q rows else (s.leaveGroup x).faultFrame x 0x0052
            | none => s) s)

/-- MULTICAST_TIMEOUT: a member that has waited 2^20 cycles for a load ends FAULT (R152). -/
def execMulticastTimeout (c : CoreId) (til : Nat) (s : State) : Out :=
  match s.frameRun c with
  | some (_, r) => .next (if r.mcTil == some til then s.faultFrame c 0x0053 else s)
  | none => .next s

/-! ### Lanes (R154, R156, R160) -/

/-- A rod's bead 0 cannot let go of an item that has arrived and has not been admitted (R158). -/
def FrameRun.blocked (r : FrameRun) (now : Nat) (rod : Fin 64) : Bool := r.net.any fun i => i.rod == rod && decide (i.at_ ≤ now)
/-- A rod's occupancy (R156). -/
def FrameRun.occupancy (r : FrameRun) (now : Nat) (rod : Fin 64) : Nat :=
  r.rods[rod].length + (if now < r.busyTil[rod] ∨ r.blocked now rod then 1 else 0)

/-- The rod with the least occupancy, the lowest-numbered of several (R156). -/
def leastRod (occ : Fin 64 → Nat) (best : Option (Fin 64)) : List (Fin 64) → Option (Fin 64)
  | [] => best
  | x :: r => leastRod occ (match best with | none => some x | some b => if occ x < occ b then some x else some b) r

/-- Where a lane's item goes now, if anywhere (R156). -/
def FrameRun.placement (r : FrameRun) (t : Nest) (now : Nat) (lane : Fin 64) (it : FrameItem) : Option (Fin 64) :=
  if t.home then (if r.rods[lane].length < 64 then some lane else none)
  else if r.lanes.toList.any fun l => l.item.any fun y => decide (y.chunk < it.chunk) then none
  else leastRod (r.occupancy now) none ((List.finRange 64).filter fun q => decide (r.rods[q].length < 64))

/-- A lane places its item, if it can (R156). -/
def State.place (s : State) (c : CoreId) (lane : Fin 64) : State :=
  match s.frameRun c with
  | none => s
  | some (j, r) =>
    let l := r.lanes[lane]
    match l.item with
    | none => s
    | some it =>
      let now := s.time.toNat
      match r.placement (s.nest c) now lane it with
      | none => s
      | some rod =>
        let it := { it with rod := rod, at_ := now, seq := l.count }
        let r := { r with rods := r.rods.set rod (r.rods[rod] ++ [it]), lanes := r.lanes.set lane { l with item := none, count := l.count + 1 } }
        ((s.setRun c j r).timer (now + 1) (.rodTakeItem c rod)).frameGo c

/-- What a lane finds in a chunk of its row: a fault of the row, or the matched positions (R154, R160). -/
def State.laneFinds (s : State) (c : CoreId) (j : FrameJob) (r : FrameRun) (lane : Fin 64) (row : ARow) : Option (Nat × Nat) × List (Nat × Nat) × Dword :=
  let t := s.nest c
  let chunk := r.lanes[lane].next
  let ps := t.positions chunk
  let rows := ((r.window.find? fun x => x.1 == chunk).map (·.2)).getD []
  match row.fault with
  | some f => (some f, [], 0)
  | none =>
    let hits := (ps.zip rows).filterMap fun x =>
      if x.2.mask = 0 then none
      else (row.elems.find? fun e => e.1 == x.1 && !elemIllegal j.fa e.2).map fun e => (e, x.2.mask)
    (none, hits.map (·.1), hits.foldl (fun m h => m ||| h.2) 0)

/-- A row's fault: it yields no further item, and counts once (R160). -/
def State.rowFaults (s : State) (c : CoreId) (j : FrameJob) (lane : Fin 64) (f : Option (Nat × Nat × Nat × Dword)) : State × FrameJob :=
  let j := match f with
    | some x => j.noteFault x
    | none => j
  (s.drop (mOf c) 1, { j with faulted := setBit j.faulted lane.val true })

/-- LANE_EVALUATE: a lane places the item it holds, or evaluates its next chunk (R154 to R156, R160). The illegal elements of a
row record below the valid count are counted at the step's first chunk, whatever is at fault in it (R71). A K-row that is too
long faults every row (R160). -/
def execLaneEvaluate (c : CoreId) (lane : Fin 64) (s : State) : Out :=
  match s.frameRun c with
  | none => .next s
  | some (j, r) =>
    let t := s.nest c
    let l := r.lanes[lane]
    if l.item.isSome then .next (s.place c lane)
    else if !r.laneReady t l then .next s
    else
      let chunk := l.next
      let st := chunk / t.chunks
      let ck := chunk % t.chunks
      let o := t.operand false
      let on (s : State) (j : FrameJob) (l : Lane) : State := s.setRun c j { r with lanes := r.lanes.set lane l }
      let goOn (s : State) : State :=
        (s.timer (s.time.toNat + 1) (.laneEvaluate c lane)).settleFrame c
      let idle := { l with next := chunk + 1 }
      let long := (r.window.filter fun x => x.1 == chunk).any fun x => x.2.any BRow.long
      if lane.val < j.vc && (s.opWaits c o (t.abase st + lane.val * o.rstr) (o.recLen false (elemBits j.fa)) ||
          s.sideWaits c o j.fa (t.asbas st) lane.val 1) then
        .next (s.timer (s.time.toNat + 1) (.laneEvaluate c lane))
      else
        let s := if lane.val < j.vc then s.fetched c o else s
        let bad := if ck = 0 ∧ lane.val < j.vc then s.aIllegal c t j.fa st lane.val else 0
        let s := if bad = 0 then s else s.drop (mOf c) bad
        let j := { j with flags := if bad = 0 then j.flags else j.flags ||| fTCODE }
        if l.dead then .next (goOn (on s j idle))
        else if long then
          let (s, j) := s.rowFaults c j lane none
          .next (goOn (on s j { idle with dead := true }))
        else if j.vc ≤ lane.val then .next (goOn (on s j idle))
        else
        let row := s.aRow c t j.fa j.acc st lane.val ck (if ck = 0 then { slot := 0, prev := none, pad := false } else { slot := l.slot, prev := l.prev, pad := l.pad })
        let idle : Lane := { idle with slot := row.at_.slot, prev := row.at_.prev, pad := row.at_.pad }
        match s.laneFinds c j r lane row with
        | (some (kind, pos), _, _) =>
          let (s, j) := s.rowFaults c j lane (some (st, ck, lane.val + 1, metaDetail pos lane.val false kind st))
          .next (goOn (on s j { idle with dead := true }))
        | (none, [], _) => .next (goOn (on s j idle))
        | (none, ks, present) =>
          let it : FrameItem := { row := lane.val, chunk := chunk, ks := ks, present := present, seq := 0, rod := lane, at_ := 0, parts := [], flags := 0 }
          .next (((on s j { idle with item := some it }).timer (s.time.toNat + 1) (.laneEvaluate c lane)).place c lane)

/-! ### Rods (R157, R79 to R81) -/

/-- The positions of an item in its slots of `n` (R157). -/
def slotsOf (n : Nat) (ks : List (Nat × Nat)) : List (List (Nat × Nat)) :=
  (List.range ((ks.length + n - 1) / n)).map fun i => (ks.drop (i * n)).take n

/-- The exact sum of products; +∞ and −∞ among them give NV (R66, R79, R80). -/
def sumProducts : List (FVal × Flags) → FVal × Flags
  | [] => (.zero false, 0)
  | (x, f) :: r =>
    let (v, g) := r.foldl (fun (a : FVal × Flags) y => let (z, h) := a.1.add .rne y.1; (z, a.2 ||| y.2 ||| h)) (x, f)
    let all := (x, f) :: r
    (v, g ||| flagIf (all.any (fun y => y.1 == .inf true) && all.any fun y => y.1 == .inf false) fNV)

/-- The flags a matrix job may raise from its sums (R86). -/
def frameFlags (f : Flags) : Flags := f &&& (fNV ||| fOF)

/-- A floating chunk partial from its slot sums, rising (R81). -/
def floatPartial : List (FVal × Flags) → Option Nat → Flags → Nat × Flags
  | [], p, f => (p.getD 0, frameFlags f)
  | (v, g) :: r, none, f =>
    let (x, h) := FFmt.fp32.encode .rne v
    floatPartial r (some x) (f ||| g ||| h)
  | (v, g) :: r, some p, f =>
    let (w, k) := (FFmt.fp32.decode p).add .rne v
    let (x, h) := FFmt.fp32.encode .rne w
    floatPartial r (some x) (f ||| g ||| k ||| h)

/-- The partial of one column of an item (R79 to R81, R83). -/
def columnPartial (j : FrameJob) (rows : List (Nat × BRow)) (ks : List (Nat × Nat)) (col : Nat) : Int × Flags :=
  let val (k : Nat) : Option Nat := (rows.find? fun x => x.1 == k && x.2.mask.getLsbD col).map fun x => x.2.vals.getD col 0
  if j.acc == .int then (((ks.filterMap fun k => (val k.1).map fun b => elemInt j.fa k.2 * elemInt j.fb b)).sum, 0)
  else
    let slots := (slotsOf (min (laneGroup j.fa) (laneGroup j.fb)) ks).map fun sl =>
      sl.filterMap fun k => (val k.1).map fun b => (elemVal j.fa k.2).mul (elemVal j.fb b)
    let (p, f) := floatPartial ((slots.filter fun x => !x.isEmpty).map sumProducts) none 0
    (p, f)

/-- ROD_TAKE_ITEM: the head of a rod's queue goes into bead 0, in the cycle after it was placed or after the item before
it, whichever is later; its partials reach the deck `n + 64` cycles on (R157). -/
def execRodTakeItem (c : CoreId) (rod : Fin 64) (s : State) : Out :=
  match s.frameRun c with
  | none => .next s
  | some (j, r) =>
    match r.rods[rod] with
    | [] => .next s
    | it :: rest =>
      let now := s.time.toNat
      if now ≤ it.at_ ∨ now < r.busyTil[rod] ∨ r.blocked now rod then
        .next (s.timer (max (now + 1) r.busyTil[rod]) (.rodTakeItem c rod))
      else
        let t := s.nest c
        let n := (slotsOf (min (laneGroup j.fa) (laneGroup j.fb)) it.ks).length
        let rows := (t.positions it.chunk).zip (((r.window.find? fun x => x.1 == it.chunk).map (·.2)).getD [])
        let cols := (List.range 64).filter fun i => it.present.getLsbD i
        let ps := cols.map fun i => (i, columnPartial j rows it.ks i)
        let it := { it with at_ := now + n + 64, parts := ps.map (fun p => (p.1, p.2.1)), flags := ps.foldl (fun f p => f ||| p.2.2) 0 }
        let r := { r with rods := r.rods.set rod rest, net := r.net ++ [it], busyTil := r.busyTil.set rod (now + n) }
        .next (((s.setRun c j r).timer (now + n + 64) (.itemArrival c rod)).frameGo c)

/-! ### The deck (R158, R84) -/

/-- Adds a partial to an entry in the plane of the job (R158). -/
def addPartial (acc : Acc) (e : DeckEntry) (p : Int) : DeckEntry × Flags :=
  match acc with
  | .fp =>
    let (t, f) := fAdd .fp32 e.t.toNat p.toNat
    ({ e with t := BitVec.ofNat 32 t }, frameFlags f)
  | .fps => ({ e with p := BitVec.ofInt 32 p, i := 1 }, 0)
  | .int =>
    let x := e.i.toInt + p
    ({ e with i := BitVec.ofInt 64 x }, flagIf (decide (x < -2 ^ 63 ∨ 2 ^ 63 - 1 < x)) fDOVF)

/-- Adds an item's partials to its row of the deck (R158). -/
def State.addItem (s : State) (c : CoreId) (j : FrameJob) (r : FrameRun) (it : FrameItem) : State × FrameJob × FrameRun :=
  let t := s.nest c
  let base := 4096 * t.ctile (it.chunk / t.chunks) + 64 * it.row
  let (deck, f) := it.parts.foldl (fun (a : Table DeckEntry × Flags) p =>
    let (e, g) := addPartial j.acc (Table.get { t := 0, p := 0, i := 0 } a.1 (base + p.1)) p.2
    (Table.put a.1 (base + p.1) e, a.2 ||| g)) ((s.core c).deck, it.flags)
  let s := s.setCore c { s.core c with deck := deck }
  let row : Fin 64 := ⟨it.row % 64, by omega⟩
  (s, { j with flags := j.flags ||| f }, { r with added := r.added.set row (r.added[row] + 1) })

/-- The number an item must follow in its row has been added (R158). -/
def FrameRun.isNext (r : FrameRun) (it : FrameItem) : Bool := it.seq == r.added.toList.getD it.row 0

/-- Items of the buffer that are next leave it (R158). -/
def State.unbuffer (s : State) (c : CoreId) (j : FrameJob) (r : FrameRun) : Nat → State × FrameJob × FrameRun
  | 0 => (s, j, r)
  | fuel + 1 =>
    match r.buffer.find? r.isNext with
    | none => (s, j, r)
    | some it =>
      let (s, j, r) := s.addItem c j { r with buffer := r.buffer.erase it } it
      State.unbuffer s c j r fuel

/-- The item that arrived first, of several at once that of the lowest rod (R158). -/
def firstItem (best : Option FrameItem) : List FrameItem → Option FrameItem
  | [] => best
  | x :: r =>
    firstItem (match best with
      | none => some x
      | some b => if x.at_ < b.at_ || (x.at_ == b.at_ && decide (x.rod < b.rod)) then some x else some b) r

/-- ITEM_ARRIVAL: of the items that have arrived and can be admitted, the first is added to the deck, or under ORDERED
enters the buffer until its predecessors have been added (R158). -/
def execItemArrival (c : CoreId) (_rod : Fin 64) (s : State) : Out :=
  match s.frameRun c with
  | none => .next s
  | some (j, r) =>
    let ordered := (s.nest c).ordered
    let now := s.time.toNat
    let admitted (it : FrameItem) : Bool := decide (it.at_ ≤ now) && (!ordered || r.isNext it || decide (r.buffer.length < 16))
    match firstItem none (r.net.filter admitted) with
    | none => .next s
    | some it =>
      let r := { r with net := r.net.erase it }
      if ordered && !r.isNext it then .next ((s.setRun c j { r with buffer := r.buffer ++ [it] }).frameGo c)
      else
        let (s, j, r) := s.addItem c j r it
        let (s, j, r) := if ordered then s.unbuffer c j r 16 else (s, j, r)
        let s := s.setRun c j r
        let s := (r.net.filter fun x => decide (x.at_ ≤ now)).foldl (fun (s : State) x => s.dueOnce (.itemArrival c x.rod)) s
        .next (s.settleFrame c)

/-! ### The end and the pause (R136, R159, R162, R86) -/

/-- MSTAT's code of a status (R176). -/
def statusCode : JobStatus → BitVec 3
  | .ok => 1
  | .incomplete => 2
  | .fault => 3
  | .dropped => 4
  | .halt => 0

/-- The frame's job is gone: its id and status are the newest retired. -/
def State.retireFrame (s : State) (c : CoreId) (j : FrameJob) (e : JobEnd) : State :=
  let s := s.setFrame c { s.frame c with job := none, lid := j.id, lst := statusCode e.status, cause := e.cause }
  let s := (s.returnUnits c j.units).kick c
  match (s.core c).inst with
  | some k => s.due (.instanceRetire k)
  | none => s

/-- FRAME_JOB_COMPLETE: a frame job retires with its status: flags and drops at M, its record and its signal (R22, R86,
R113, R136, R159). -/
def execFrameJobComplete (c : CoreId) (s : State) : Out :=
  match (s.frame c).job with
  | none => .next s
  | some j =>
    match j.ending with
    | none => .next s
    | some e =>
      let t := s.nest c
      let s := s.retireFrame c j e
      let s := s.raise (mOf c) (j.flags ||| e.flags)
      let s := if e.drop = 0 then s else s.drop (mOf c) e.drop
      let s := if e.cause = 0 then s else s.jobFault c 8 e.cause e.addr e.detail
      .next (if t.sen && (e.status == .ok || e.status == .incomplete) then
          s.signal c { set := false, k := t.ssem, n := t.samt, src := .frame }
        else s)

/-- The first step after the one a pause lets finish: the highest that any lane has begun, else the first (R162). -/
def FrameRun.pauseLimit (r : FrameRun) (chunks : Nat) : Nat :=
  let n := r.lanes.toList.foldl (fun m l => max m l.next) 0
  (if r.first * chunks < n then (n - 1) / chunks else r.first) + 1

/-- FRAME_JOB_PAUSE: when the instance has ended, a job that has not started is dropped and one that has goes on to its end,
also from a pause; when it stops, a waiting job leaves its
line and a running one pauses at the end of its current step (R112, R121, R137, R162, R186). -/
def execFrameJobPause (c : CoreId) (s : State) : Out :=
  match (s.core c).inst, (s.frame c).job with
  | some k, some j =>
    if j.ending.isSome then .next s
    else if (s.getInst k).status == .terminated then
      if j.started then .next (s.due (.stepBegin c))
      else
        let x := s.core c
        let s := s.setCore c { x with semWait := x.semWait.filter fun w => w.party != .frame }
        .next ((s.withdrawLeave c none).retireFrame c j
          { status := .dropped, cause := 0, addr := 0, detail := 0, flags := 0, drop := 0 })
    else if !s.jobsHeld c then .next s
    else
      match j.run with
      | some r =>
        let t := s.nest c
        let lim := r.pauseLimit t.chunks
        if lim < r.limit then .next ((s.setRun c j { r with limit := lim, fault := none }).settleFrame c) else .next (s.settleFrame c)
      | none =>
        let x := s.core c
        let s := s.setCore c { x with semWait := x.semWait.filter fun w => w.party != .frame }
        let s := (s.withdrawLeave c none).returnUnits c j.units
        .next (s.setFrameJob c { j with state := if j.state == .awaitSem then .queued else j.state, units := 0 })
  | _, _ => .next s

end Sys2Proof.Machine
end

