-- ==== Sys2Proof/Machine/Mtx.lean ====
section
/-!
DEFINITION. The instructions of the matrix strand and the drain (R164 to R187).
-/

namespace Sys2Proof.Machine

/-- An instruction of the class MTX.R (R17, R165). -/
def mIssue (i : Instr) (src : List (GReg × Bool)) (body : State → Body) (hold : State → Option StrandCond := fun _ => none) :
    State → Out :=
  legal i <| issue { len := 2, on := [.m], src := src, dst := [], hold := hold } body

/-- The core's frame with its shadow table changed. -/
def Core.setShadow (x : Core) (t : Nest) : Core := { x with frame := { x.frame with shadow := t } }
/-- Writes dwords of the shadow table. -/
def shadowPut (xs : List (Nat × Dword)) (s : State) : State :=
  s.setHere (s.here.setShadow (xs.foldl (fun (t : Nest) x => t.put x.1 x.2) s.here.frame.shadow))

/-- A deck tile is busy with the frame job held (R163). -/
def Frame.tileBusy (f : Frame) (tile : Nat) : Bool := f.job.isSome && Nest.addresses f.active tile

/-- A use of the deck path waits: for an earlier one, or for a frame job that can address the tile (R181). -/
def Frame.deckWaits (f : Frame) (tile : Nat) : Bool := f.drain.isSome || f.deckOp.isSome || f.tileBusy tile

/-! ### The shadow table (R166 to R171) -/

/-- NSET (R166). -/
def execNset (n : BitVec 6) (a : GReg) (ta : Bool) : State → Out :=
  mIssue (.nset n a ta) [(a, ta)] fun s => .next (shadowPut [(n.toNat, s.me.rg a)] s)

/-- NCLR (R167). -/
def execNclr : State → Out :=
  mIssue .nclr [] fun s =>
    let x := s.here
    if x.frame.drain.isSome || x.frame.mlut.isSome then .wait .interlock s
    else .next (s.setHere { x with frame := { x.frame with shadow := nestReset, lut := Vector.replicate 256 0 } })

/-- MSRC (R168). -/
def execMsrc (n : BitVec 6) (a : GReg) (ta : Bool) : State → Out :=
  mIssue (.msrc n a ta) [(a, ta)] fun s =>
    .next (shadowPut [(24 + 4 * (n.toNat % 2) + n.toNat / 2, s.me.rg a)] s)

/-- MDST (R169). -/
def execMdst (d a b : GReg) (ta tb : Bool) : State → Out :=
  mIssue (.mdst d a b ta tb) [(a, ta), (b, tb), (d, false)] fun s =>
    .next (shadowPut [(32, s.me.rg d), (33, s.me.rg a), (34, s.me.rg b)] s)

/-- MEPI (R171). -/
def execMepi (n : BitVec 2) (a : GReg) (ta : Bool) : State → Out :=
  mIssue (.mepi n a ta) [(a, ta)] (hold := fun s => interlockWhile (s.here.frame.drain.isSome || s.here.frame.mlut.isSome)) fun s =>
    .next (shadowPut [(35 + n.toNat, s.me.rg a)] s)

/-- MMODE (R170). -/
def execMmode (c : BitVec 3) (w : BitVec 2) (ord asg : Bool) : State → Out :=
  mIssue (.mmode c w ord asg) [] fun s =>
    .next (shadowPut [(32, packFields [(c.toNat, 0), (w.toNat, 4), (bit01 ord, 6), (bit01 asg, 7)])] s)

/-- MLUT (R172). -/
def execMlut (a : GReg) (ta : Bool) : State → Out :=
  mIssue (.mlut a ta) [(a, ta)] (hold := fun s => interlockWhile s.here.frame.mlut.isSome) fun s =>
    let x := s.here
    let off := fld (s.me.rg a) 31 0
    if off % 8 != 0 || decide (Config.spadBytes < off + 2048) then .trap 0x0002 0 0
    else
      let t : Nest := x.frame.shadow
      .next ((s.setHere { x with frame := { x.frame with shadow := t.put 47 (dw (off + 2 ^ 32)), mlut := some off } }).due
        (.mlutCopyDone s.turn.core))

/-- The drain table as 2 KiB of scratchpad spell it (R172). -/
def lutFrom (m : Mem) (off : Nat) : Vector Dword 256 := Vector.ofFn fun i : Fin 256 => m.dword (off + 8 * i.val)

/-- An instance may retire once M's own work has ended (R39). -/
def State.retireSoon (s : State) (c : CoreId) : State :=
  match (s.core c).inst with
  | some k => s.due (.instanceRetire k)
  | none => s

/-- MLUT_COPY_DONE: the copy is read, once no write range covers it, and completes (R141, R172). -/
def execMlutCopyDone (c : CoreId) (s : State) : Out :=
  let x := s.core c
  match x.frame.mlut with
  | none => .next s
  | some off =>
    if x.boarded false off 2048 then .next (s.timer (s.time.toNat + 1) (.mlutCopyDone c))
    else .next ((s.setCore c { x with frame := { x.frame with lut := lutFrom x.spad off, mlut := none } }).retireSoon c)

/-! ### Jobs (R173 to R177) -/

/-- What holds an `MGO`: the frame job held, or a deck operation on a tile that the new table can address (R175). -/
def Frame.holdsMgo (f : Frame) : Bool :=
  f.job.isSome || f.drain.any (fun d => Nest.addresses f.shadow d.deck.toNat) || f.deckOp.any (fun d => Nest.addresses f.shadow d.1.toNat)

/-- MGO (R175). A held MGO may be withdrawn (R120). Its wait is R24's queue or frame wait (log entry 52). -/
def execMgo (fa fb : Fmt) (acc : Acc) (v : GReg) (tv : Bool) : State → Out :=
  mIssue (.mgo fa fb acc v tv) [(v, tv)] (hold := fun s => if s.here.frame.holdsMgo then some .queueWait else none) fun s =>
    let x := s.here
    let f := x.frame
    let t : Nest := f.shadow
    if !t.ok fa fb acc then .trap 0x0002 0 0
    else
      let j : FrameJob := { fa := fa, fb := fb, acc := acc, vc := min (s.me.rg v).toNat 64, id := f.nextJ, state := .queued, step := 0
                            done := 0, units := 0, flags := 0, faulted := 0, report := none, left := 0, run := none, ending := none }
      .next ((s.setHere { x with frame := { f with active := t, job := some j, nextJ := f.nextJ + 1 } }).due (.stepBegin s.turn.core))

/-- MWAIT (R177). -/
def execMwait : State → Out :=
  mIssue .mwait [] fun s =>
    if s.here.frame.job.isSome || s.here.frame.draining then .wait .queueWait s else .next s

/-- STATE of the job held as MSTAT reports it (R176). -/
def FrameJob.mstate (j : FrameJob) : Nat :=
  match j.state with
  | .queued | .awaitSem => 1
  | .awaitTile => 2
  | .awaitLeave | .halted => 3
  | .running => 4

/-- The word of MSTAT (R176). -/
def mstatWord (f : Frame) : Dword :=
  packFields [(f.lid.toNat, 0), (f.lst.toNat, 32), ((f.job.map FrameJob.mstate).getD 0, 36), (bit01 f.draining, 39), (f.cause.toNat, 48)]

/-- MSTAT (R176). -/
def execMstat (d : GReg) : State → Out :=
  issue { len := 2, on := [.m], src := [], dst := [d] } fun s => .next (s.setMe (s.me.wg d (mstatWord s.here.frame)))

/-! ### The deck (R178 to R181) -/

/-- A deck operation of M has its deck: nothing reads or writes its tile until it is done, one row a cycle, and its flags
reach M then (R179 to R181, R185). -/
def State.deckBegins (s : State) (n : BitVec 2) (deck : Table DeckEntry) (f : Flags) : State :=
  let x := s.here
  (s.setHere { x with deck := deck, frame := { x.frame with deckOp := some (n, f) } }).timer (s.time.toNat + 64)
    (.deckDone s.turn.core)

/-- DECK_DONE: an `MAZERO` or `MSCACC` completes (R179, R180, R185). -/
def execDeckDone (c : CoreId) (s : State) : Out :=
  let x := s.core c
  match x.frame.deckOp with
  | none => .next s
  | some (_, f) =>
    let s := s.setCore c { x with frame := { x.frame with deckOp := none } }
    .next ((s.raise ⟨c, .m⟩ f).retireSoon c)

/-- MAZERO (R179). -/
def execMazero (n : BitVec 2) : State → Out :=
  mIssue (.mazero n) [] fun s =>
    let x := s.here
    if x.frame.deckWaits n.toNat then .wait .interlock s
    else .next (s.deckBegins n (x.deck.filter fun e => e.1 / 4096 != n.toNat) 0)

/-- Folds a partial into an entry (R78, R180). -/
def foldEntry (sa sb : Nat → FVal) (x : Nat × DeckEntry) : (Nat × DeckEntry) × Flags :=
  if x.2.i = 0 then (x, 0)
  else
    let (t, f) := scaledAdd x.2.t.toNat x.2.p.toNat (sa (x.1 / 64 % 64)) (sb (x.1 % 64))
    ((x.1, { t := BitVec.ofNat 32 t, p := 0, i := 0 }), f)

/-- Folds the partials of a tile; an entry not listed holds none. -/
def foldTile (tile : Nat) (sa sb : Nat → FVal) : Table DeckEntry → Table DeckEntry × Flags
  | [] => ([], 0)
  | x :: r =>
    let (y, f) := if x.1 / 4096 = tile then foldEntry sa sb x else (x, 0)
    let (ys, g) := foldTile tile sa sb r
    (y :: ys, f ||| g)

/-- MSCACC (R180). The scales are read as loads of the scratchpad, before any entry changes. -/
def execMscacc (n : BitVec 2) (sfa sfb nsa nsb : Bool) (a b : GReg) (ta tb : Bool) : State → Out :=
  mIssue (.mscacc n sfa sfb nsa nsb a b ta tb) [(a, ta), (b, tb)] (hold := fun s => interlockWhile (s.here.frame.deckWaits n.toNat)) fun s =>
    let x := s.here
    let oa := fld (s.me.rg a) 31 0
    let ob := fld (s.me.rg b) 31 0
    let bad (no : Bool) (o : Nat) : Bool := !no && (o % 2 != 0 || decide (Config.spadBytes < o + 128))
    let held (no : Bool) (o : Nat) : Bool := !no && x.boarded false o 128
    if bad nsa oa || bad nsb ob then .trap 0x0002 0 0
    else if held nsa oa || held nsb ob then .wait .rangeBoard s
    else
      let scale (no sf : Bool) (o i : Nat) : FVal := if no then .fin false 1 0 else scaleVal sf (x.spad.get (o + 2 * i)).toNat
      let (deck, f) := foldTile n.toNat (scale nsa sfa oa) (scale nsb sfb ob) x.deck
      .next (s.deckBegins n deck f)

/-! ### The drain (R164, R182 to R185) -/

/-- Fields of the epilogue (R171). -/
def Drain.boff (d : Drain) : Nat := fld d.epi[0] 31 0
def Drain.qscale (d : Drain) : Nat := fld d.epi[1] 31 0
def Drain.zp (d : Drain) : Int := (d.epi[1].extractLsb' 32 8).toInt
def Drain.qfmt (d : Drain) : Nat := fld d.epi[1] 43 40
def Drain.qrnd (d : Drain) : RMode := RMode.ofCode (fld d.epi[1] 45 44)
def Drain.qsat (d : Drain) : Bool := d.epi[1].getLsbD 46
def Drain.lo (d : Drain) : Nat := fld d.epi[2] 31 0
def Drain.inv (d : Drain) : Nat := fld d.epi[2] 63 32
def Drain.dstr (d : Drain) : Nat := fld d.epi[3] 31 0

/-- Bytes of a drained row (R182). -/
def Drain.rowBytes (d : Drain) : Nat := if !d.quant then 256 else if d.qfmt = 4 then 32 else 64

/-- The checks of MDRAIN (R182). -/
def drainOk (t : Nest) (d : Drain) : Bool :=
  fld (t.dword 35) 63 32 == 0 && fld (t.dword 36) 63 47 == 0 && fld (t.dword 38) 63 32 == 0 && fld (t.dword 47) 63 33 == 0 &&
    (!d.bias || (d.boff % 4 == 0 && decide (d.boff + 256 ≤ Config.spadBytes))) &&
    (!d.quant || decide (2 ≤ d.qfmt ∧ d.qfmt ≤ 5)) &&
    (d.tile.isSome || (d.off % 32 == 0 && d.dstr % 32 == 0 && decide (d.off + 63 * d.dstr + d.rowBytes ≤ Config.spadBytes)))

/-- MDRAIN (R182, R184). One that the interlock holds and whose tile is full is held by the interlock, and the bias vector is read
as it issues (log entry 68). -/
def execMdrain (n : BitVec 2) (ds quant act bias : Bool) (a : GReg) (ipl satm ta : Bool) : State → Out :=
  mIssue (.mdrain n ds quant act bias a ipl satm ta) (if ds then [(a, ta)] else [])
      (hold := fun s => interlockWhile (s.here.frame.deckWaits n.toNat || (act && s.here.frame.mlut.isSome))) fun s =>
    let x := s.here
    let t : Nest := x.frame.shadow
    let tile : Option TReg := if ds then none else some (a.setWidth 4)
    let d : Drain := { deck := n, tile := tile, off := fld (s.me.rg a) 31 0, quant := quant, act := act, bias := bias, ipl := ipl, satm := satm
                       epi := #v[t.dword 35, t.dword 36, t.dword 37, t.dword 38], biases := [], row := 0, flags := 0 }
    if tile.any x.tfull then .wait .fullEmpty s
    else if !drainOk t d then .trap 0x0002 0 0
    else
      let d := { d with biases := if bias then (List.range 64).map fun j => x.spadNat (d.boff + 4 * j) 4 else [] }
      .next ((s.setHere { x with frame := { x.frame with drain := some d } }).due (.drainRowWrite s.turn.core))

/-- A value between the stages of the drain: a 32-bit integer, or an FP32 pattern. -/
inductive DrainVal where
  | int (x : Int)
  | fp (b : Nat)
deriving DecidableEq, Repr, Inhabited

def DrainVal.val : DrainVal → FVal
  | .int x => .ofInt x 0 false
  | .fp b => FFmt.fp32.decode b

/-- The pattern of 32 bits. -/
def DrainVal.bits : DrainVal → Nat
  | .int x => (BitVec.ofInt 32 x).toNat
  | .fp b => b

/-- Reduces an integer to 32 bits (R85). -/
def reduceInt (sat : Bool) (x : Int) : Int × Flags :=
  if sat then
    (max (-2 ^ 31) (min x (2 ^ 31 - 1)), flagIf (decide (x < -2 ^ 31 ∨ 2 ^ 31 - 1 < x)) fSAT)
  else ((BitVec.ofInt 32 x).toInt, 0)

/-- The bias stage (R183). -/
def biasStage (d : Drain) (x : DrainVal) (bias : Nat) : DrainVal × Flags :=
  match x with
  | .int v =>
    let (y, f) := reduceInt d.satm (v + (BitVec.ofNat 32 bias).toInt)
    (.int y, f)
  | .fp b =>
    let (y, f) := fAdd .fp32 b bias
    (.fp y, f)

/-- The activation stage (R183). -/
def actStage (d : Drain) (lut : Vector Dword 256) (x : DrainVal) : DrainVal × Flags :=
  let b := match x with
    | .int v => (intToFloat .fp32 .rne v).1
    | .fp b => b
  match FFmt.fp32.decode b with
  | .nan => (.fp 0x7FC00000, 0)
  | v =>
    let (u, f) := v.add .rne (FFmt.fp32.decode d.lo).neg
    let (t, g) := u.mul (FFmt.fp32.decode d.inv)
    let k := match t with
      | .nan => 0
      | _ => (floatToInt .rd 0 255 t).1.toNat
    let e := (lut[k]?).getD 0
    let (y, h) := fFma .fp32 (fld e 63 32) (fld e 31 0) b
    (.fp y, f ||| g ||| h)

/-- The requantisation stage (R183). -/
def quantStage (d : Drain) (x : DrainVal) : Nat × Flags :=
  let (y, f) := x.val.mul (FFmt.fp32.decode d.qscale)
  match d.qfmt with
  | 2 => let (z, g) := encodeE4m3 d.qrnd d.qsat y; (z, f ||| g)
  | 3 => let (z, g) := encodeE5m2 d.qrnd d.qsat y; (z, f ||| g)
  | 4 => let (z, g) := encodeE2m1s d.qrnd y; (z, f ||| g)
  | _ =>
    match y with
    | .nan => ((BitVec.ofInt 8 d.zp).toNat, f ||| fNV)
    | .inf s => (if s then 0x80 else 0x7F, f ||| fSAT)
    | _ =>
      -- wide enough that only the clamp below decides
      let (q, _) := floatToInt d.qrnd (-2 ^ 300) (2 ^ 300) y
      let q := q + d.zp
      ((BitVec.ofInt 8 (max (-128) (min q 127))).toNat, f ||| flagIf (decide (q < -128 ∨ 127 < q)) fSAT)

/-- One entry through the enabled stages (R164, R183): its output element and the flags a drain may raise (R185). -/
def drainEntry (d : Drain) (lut : Vector Dword 256) (e : DeckEntry) (j : Nat) : Nat × Flags :=
  let (x, f0) : DrainVal × Flags :=
    if d.ipl then let (v, f) := reduceInt d.satm e.i.toInt; (.int v, f) else (.fp e.t.toNat, 0)
  let (x, f1) := if d.bias then biasStage d x (d.biases.getD j 0) else (x, 0)
  let (x, f2) := if d.act then actStage d lut x else (x, 0)
  let (y, f3) := if d.quant then quantStage d x else (x.bits, 0)
  (y, (f0 ||| f1 ||| f2 ||| f3) &&& (fNV ||| fOF ||| fSAT))

/-- Packs output elements into a row (R61, R184). -/
def packRow (d : Drain) (xs : List Nat) : List Byte :=
  if !d.quant then xs.flatMap (leBytes 4)
  else if d.qfmt = 4 then
    (List.range 32).map fun i => BitVec.ofNat 8 (xs.getD (2 * i) 0 % 16 + xs.getD (2 * i + 1) 0 % 16 * 16)
  else xs.map fun x => BitVec.ofNat 8 x

/-- DRAIN_ROW_WRITE: the next row of a drain. A scratchpad row waits while a claimed range covers it; after row 63 the
destination tile is full and the flags reach M (R141, R184, R185). R172 does not hold an `MLUT` behind a drain with activation:
a row goes through the table as it stands when the row is written (log entry 56). -/
def execDrainRowWrite (c : CoreId) (s : State) : Out :=
  let x := s.core c
  match x.frame.drain with
  | none => .next s
  | some d =>
    let again (s : State) : State := s.timer (s.time.toNat + 1) (.drainRowWrite c)
    let at_ := d.off + d.row * d.dstr
    if d.tile.isNone && x.boarded true at_ d.rowBytes then .next (again s)
    else
      let es : List (Nat × Flags) := (List.range 64).map fun j =>
        drainEntry d x.frame.lut (Table.get { t := 0, p := 0, i := 0 } x.deck (4096 * d.deck.toNat + 64 * d.row + j)) j
      let bytes := packRow d (es.map fun (e : Nat × Flags) => e.1)
      let d := { d with row := d.row + 1, flags := es.foldl (fun (f : Flags) (e : Nat × Flags) => f ||| e.2) d.flags }
      let x := match d.tile with
        | some t => { x with tiles := x.tiles.putBytes (tileRow t (d.row - 1)) (bytes ++ List.replicate (256 - d.rowBytes) 0) }
        | none => { x with spad := x.spad.putBytes at_ bytes }
      if d.row < 64 then .next (again (s.setCore c { x with frame := { x.frame with drain := some d } }))
      else
        let s := (s.setCore c { x with frame := { x.frame with drain := none } }).fillTile c d.tile
        .next (((s.raise (mOf c) d.flags).due (.semaphoreCycle c)).retireSoon c)

end Sys2Proof.Machine
end

