-- ==== Sys2Proof/Machine/Image.lean ====
section
/-!
DEFINITION. Save areas: the image of a part, of a cluster, their writing and their reading (R122 to R125, R144, R149, R263,
R295, R309).
-/

namespace Sys2Proof.Machine

/-! ### Sparse images -/

/-- The cells of a memory from an address on, `n` bytes, by offset. -/
def Mem.slice (m : Mem) (a n : Nat) : Mem :=
  (m.filter fun x => decide (a ≤ x.1) && decide (x.1 < a + n)).map fun x => (x.1 - a, x.2)

/-- Cells in the canonical form. -/
def Mem.canon (xs : Mem) : Mem := xs.foldl (fun m x => m.put x.1 x.2) []

/-- A memory with `n` bytes from an address replaced by cells given by offset. -/
def Mem.splice (m : Mem) (a n : Nat) (xs : Mem) : Mem :=
  (m.filter fun x => decide (x.1 < a)) ++ (Mem.canon (xs.slice 0 n)).map (fun x => (a + x.1, x.2)) ++ m.filter fun x => decide (a + n ≤ x.1)

/-- Cells of a piece that lies at an offset. -/
def Mem.shift (m : Mem) (a : Nat) : Mem := m.map fun x => (a + x.1, x.2)

/-- Cells that bytes at an offset make: those not 0. -/
def cellsAt (a : Nat) (bs : List Byte) : Mem := (bs.zipIdx.filter fun x => x.1 != 0).map fun x => (a + x.2, x.1)
/-- Cells that dwords at an offset make. -/
def dwordCells (a : Nat) (ds : List Dword) : Mem := cellsAt a (dwordBytes ds)

/-! ### A strand's image (R124, R295) -/

def hstateCode : HState → Nat
  | .invalid => 0
  | .valid => 1
  | .resolving => 2
  | .absent => 3
def hstateOf : Nat → HState
  | 1 => .valid
  | 2 => .resolving
  | 3 => .absent
  | _ => .invalid

/-- A saved handle (R295). -/
def Handle.dwords (h : Handle) : List Dword :=
  [packFields [(hstateCode h.state, 0), (bit01 h.wr, 2), (h.kind.toNat, 3), (h.psz.toNat, 6), (h.lclass.toNat, 8),
     (fld h.base 44 16, 16)], h.expiry]
/-- A restored handle: its lease has run out (R295). -/
def handleOf (d : Dword) : Handle :=
  { state := hstateOf (fld d 1 0), wr := d.getLsbD 2, kind := d.extractLsb' 3 3, psz := d.extractLsb' 6 2
    lclass := d.extractLsb' 8 4, base := maskTo d 44 16, frame := 0, expiry := 0 }

def lifeCode : Life → Nat
  | .idle => 0
  | .running => 1
  | .halted => 2
def lifeOf : Nat → Life
  | 0 => .idle
  | 1 => .running
  | _ => .halted

/-- The registers a stopped strand shows: a dead one is 0 (R106, R124). -/
def Strand.shown (z : Strand) (sid : StrandId) : Strand :=
  match z.held with
  | .atSafe mask => z.keepLive sid mask
  | _ => z
/-- The live mask in effect (R124). -/
def Strand.liveMask (z : Strand) : Dword :=
  match z.held with
  | .atSafe mask => mask
  | _ => BitVec.allOnes 64

/-- The 1 KiB image of a strand (R124). -/
def strandImage (z : Strand) (sid : StrandId) (now : Dword) : List Dword :=
  let y := z.shown sid
  let p := y.spr
  y.g.toList ++ [y.p, y.pc, y.block.start, packFields [(y.block.len, 0), (y.block.remain, 32)]] ++
    [p.rc.setWidth 64, p.vc.setWidth 64, p.fst.setWidth 64, p.drop ++ p.corr, now - p.cyc0, p.spcnt.setWidth 64] ++
    [dw (lifeCode y.life), z.liveMask] ++ y.m.toList.map (fun x => if sid == .v then x else 0) ++
    [p.cnst.setWidth 64, p.fwst.setWidth 64, p.tcause.setWidth 64] ++ List.replicate 9 0 ++ y.h.toList.flatMap Handle.dwords

/-- A strand as its image at an offset gives it (R125, R21). -/
def strandOf (m : Mem) (off : Nat) (sid : StrandId) (space : BitVec 16) (now : Dword) : Strand :=
  let d (i : Nat) : Dword := m.dword (off + 8 * i)
  let life := lifeOf (fld (d 74) 1 0)
  let z := Strand.reset
  { z with
    life := life
    cond := if life == .running then .issuing else .stopped
    live := d 75
    pc := d 65
    block := { inBody := fld (d 67) 63 32 != 0, start := d 66, len := fld (d 67) 8 0, remain := fld (d 67) 63 32 }
    g := Vector.ofFn (fun i : Fin 64 => if i.val = 0 then 0 else d i.val)
    p := d 64 ||| 1
    h := Vector.ofFn fun i : Fin 16 => handleOf (d (96 + 2 * i.val))
    v := if sid == .v then Vector.ofFn (fun i : Fin 32 => Vector.ofFn fun l : Fin 64 => BitVec.ofNat 32 (m.nat (0x202000 + 256 * i.val + 4 * l.val) 4))
      else z.v
    m := if sid == .v then Vector.ofFn (fun i : Fin 8 => if i.val = 0 then BitVec.allOnes 64 else d (76 + i.val)) else z.m
    spr := { z.spr with rc := (d 68).setWidth 32, vc := BitVec.ofNat 7 (min (d 69).toNat 64), fst := (d 70).setWidth 9
                        corr := (d 71).extractLsb' 0 32, drop := (d 71).extractLsb' 32 32, cyc0 := now - d 72
                        cnst := (d 84).setWidth 8, tcause := (d 86).setWidth 16, fwst := (d 85).setWidth 8, space := space } }

/-! ### The queues, rings and scoreboard (R144) -/

/-- The unstarted commands of a queue, in its order (R121). -/
def Queue.unstarted (q : Queue) : List Job := q.jobs.filter Job.unstarted

/-- A queue's 32 bytes (R144). -/
def queueDwords (q : Queue) : List Dword :=
  let h := q.haltedJob
  [packFields [(q.next.toNat, 0), (q.watermark.toNat, 32)],
   packFields [(q.jobs.length, 0), (bit01 h.isSome, 6), (bit01 (q.unstarted.any fun j => j.kind == 0x0A), 7),
     ((h.map fun j => j.id.toNat).getD 0, 32)], 0, 0]

/-- A ring's 16 bytes (R144). -/
def ringDwords (r : Ring) : List Dword := [r.desc, packFields [(r.acq.toNat, 0), (r.rel.toNat, 16), (r.free.toNat, 32)]]
def ringOf (a b : Dword) : Ring := { desc := a, acq := b.extractLsb' 0 12, rel := b.extractLsb' 16 12, free := b.extractLsb' 32 12 }

/-- A scoreboard entry's 16 bytes (R144). -/
def rangeDwords (r : Range) : List Dword :=
  [packFields [(r.base, 0), (r.len, 32)], packFields [(bit01 r.write, 0), (r.queue.val, 1), (1, 4), (r.job.toNat, 32)]]
def rangeOf (a b : Dword) : Option Range :=
  if b.getLsbD 4 then
    some { base := fld a 31 0, len := fld a 63 32, write := b.getLsbD 0, queue := ⟨fld b 3 1 % 8, by omega⟩, job := b.extractLsb' 32 32 }
  else none

/-- A halted job's 128 bytes; zeros for a queue that is not halted (R144). -/
def haltedDwords (q : Queue) : List Dword :=
  match q.haltedJob with
  | none => List.replicate 16 0
  | some j =>
    let lay := j.layout.getD []
    [j.d0, j.d1, j.d2, j.d3] ++ (List.range 8).map (bytesDword lay) ++
      [packFields [(j.pchunk.toNat, 0), (sidNat j.sid, 24)], j.resumeAt, 0, 0]

/-- Pushers of a queue's unstarted commands (R144). -/
def pusherDword (q : Queue) : Dword := packFields (q.unstarted.zipIdx.map fun x => (sidNat x.1.sid, 2 * x.2))

/-- The core image (R122, R144). The scoreboard's live entries stand from slot 0 on in the order they were claimed: the spec
does not say which slot a claim takes (log entry 57). -/
def coreImage (x : Core) : List Byte :=
  let qs := x.queues.toList
  x.sem.toList.flatMap (fun n => leBytes 2 n.toNat) ++ dwordBytes [x.tileFull.setWidth 64] ++
    dwordBytes (qs.flatMap queueDwords ++ x.rings.toList.flatMap ringDwords ++ x.board.flatMap rangeDwords ++
      List.replicate (2 * (16 - x.board.length)) 0 ++ (qs.take 4).flatMap haltedDwords ++ qs.map pusherDword)

/-- A queue as its image gives it. What the image has no field for, of the job at the same place, is kept with the
instance. -/
def queueOf (m : Mem) (q : Nat) (kept : List Job) : Queue :=
  let a := m.dword (0x201208 + 32 * q)
  let b := m.dword (0x201208 + 32 * q + 8)
  let halted := b.getLsbD 6
  let n := fld b 5 0 - bit01 halted
  let blank (id : Word) : Job :=
    { id := id, sid := .s, space := 0, d0 := 0, d1 := 0, d2 := 0, d3 := 0, state := .queued, layout := none, units := 0, pchunk := 0
      resumeAt := 0, made := 0, short := none, inbuf := [], fence := [], params := [], leases := [], fails := [], ending := none }
  let ks := kept.filter Job.unstarted
  let push := m.dword (0x201688 + 8 * q)
  let cmd (j : Job) (off : Nat) : Job :=
    { j with d0 := m.dword off, d1 := m.dword (off + 8), d2 := m.dword (off + 16), d3 := m.dword (off + 24) }
  let un := (List.range n).map fun i =>
    let k := ks.getD i (blank (a.extractLsb' 0 32 - BitVec.ofNat 32 (n - i)))
    cmd { blank k.id with sid := sidOf (fld push (2 * i + 1) (2 * i)), space := k.space, fence := k.fence } (0x204000 + 1024 * q + 32 * i)
  let hoff := 0x201488 + 128 * q
  let ht : List Job :=
    if halted then
      let k := ((kept.find? fun j => j.state == .halted)).getD (blank 0)
      let w := m.dword (hoff + 96)
      let lay := m.bytes (hoff + 32) 64
      [cmd { blank (b.extractLsb' 32 32) with
              state := .halted, sid := sidOf (fld w 25 24), space := k.space, made := k.made, short := k.short, layout := if lay.all (· == 0) then none else some lay
              pchunk := w.extractLsb' 0 24, resumeAt := m.dword (hoff + 104) } hoff]
    else []
  { next := a.extractLsb' 0 32, jobs := ht ++ un }

/-! ### The matrix strand's part (R149) -/

/-- JSTATE of the job held (R149). -/
def jstateCode (j : FrameJob) : Nat :=
  match j.state with
  | .queued | .awaitSem => 1
  | .awaitTile => 2
  | .awaitLeave => 3
  | _ => 4
def jstateOf : Nat → JobState
  | 1 => .queued
  | 2 => .awaitTile
  | 3 => .awaitLeave
  | _ => .halted

def accCode (a : Acc) : Nat := a.toBits.toNat

/-- The M part of an image: both tables and the position record (R149). -/
def frameImage (f : Frame) : List Dword :=
  let t : Nest := f.active
  let rec_ : List Dword := match f.job with
    | none => [0, 0, 0, 0, 0]
    | some j =>
      let ix := (List.range 6).map fun l => (t.index j.step l, 16 * l)
      [packFields (ix.take 4), packFields ((ix.drop 4).map fun x => (x.1, x.2 - 64)),
       packFields [(j.fa.toBits.toNat, 0), (j.fb.toBits.toNat, 4), (accCode j.acc, 8), (j.vc, 12), (1, 19), (jstateCode j, 20)],
       j.id.setWidth 64, dw j.done]
  f.shadow.toList ++ f.active.toList ++ rec_ ++
    [packFields [(f.lid.toNat, 0), (f.lst.toNat, 32), (f.cause.toNat, 48)], f.nextJ.setWidth 64]

/-- The frame as an image gives it (R186, R172). -/
def frameOf (m : Mem) (kept : Option FrameJob) : Frame :=
  let d (i : Nat) : Dword := m.dword (0x200C00 + 8 * i)
  let shadow : Nest := Vector.ofFn fun i : Fin 48 => d i.val
  let active : Nest := Vector.ofFn fun i : Fin 48 => d (48 + i.val)
  let w := d 98
  let step := ((List.range 6).map fun l =>
    (if l < 4 then fld (d 96) (16 * l + 15) (16 * l) else fld (d 97) (16 * (l - 4) + 15) (16 * (l - 4))) * ((List.range l).map active.count).prod).sum
  let k := d 101
  let job : Option FrameJob :=
    if w.getLsbD 19 then
      match Fmt.ofBits (w.extractLsb' 0 4), Fmt.ofBits (w.extractLsb' 4 4), Acc.ofBits (w.extractLsb' 8 4) with
      | some fa, some fb, some acc =>
        some { fa := fa, fb := fb, acc := acc, vc := fld w 18 12, id := (d 99).setWidth 32, state := jstateOf (fld w 22 20), step := step
               done := (d 100).toNat, units := 0, flags := (kept.map (·.flags)).getD 0, faulted := (kept.map (·.faulted)).getD 0
               report := kept.bind (·.report), left := (kept.map (·.left)).getD 0, run := none, ending := none }
      | _, _, _ => none
    else none
  let lutOff := shadow.dword 47
  { shadow := shadow, active := active, job := job, nextJ := (d 102).setWidth 32, lid := k.extractLsb' 0 32, lst := k.extractLsb' 32 3
    cause := k.extractLsb' 48 16, lut := if lutOff.getLsbD 32 then lutFrom (m.slice 0 Config.spadBytes) (fld lutOff 31 0) else Vector.replicate 256 0
    drain := none, deckOp := none, mlut := none }

/-! ### A part's image (R122) -/

/-- Cells of a deck entry (R178). -/
def deckCells (x : Nat × DeckEntry) : Mem := dwordCells (0x1C0000 + 16 * x.1) [x.2.p ++ x.2.t, x.2.i]

/-- The image of a part (R122). -/
def partImage (x : Core) (now : Dword) : Mem :=
  x.spad ++ x.tiles.shift 0x180000 ++ x.deck.flatMap deckCells ++ dwordCells 0x200000 (strandImage x.s .s now) ++
    dwordCells 0x200400 (strandImage x.v .v now) ++ dwordCells 0x200800 (strandImage x.m .m now) ++ dwordCells 0x200C00 (frameImage x.frame) ++
    cellsAt 0x201000 (coreImage x) ++
    cellsAt 0x202000 ((x.v.shown .v).v.toList.flatMap fun r => r.toList.flatMap fun l => leBytes 4 l.toNat) ++
    (List.finRange 8).flatMap (fun q => dwordCells (0x204000 + 1024 * q.val) ((x.queue q).unstarted.flatMap fun j => [j.d0, j.d1, j.d2, j.d3]))

/-- What is kept of a part beside its image. -/
def keptOf (x : Core) : Kept :=
  { spaces := #v[x.s.spr.space, x.v.spr.space, x.m.spr.space], jobs := x.queues.map (·.jobs), frame := x.frame.job }

/-- The deck an image holds. -/
def deckOf (m : Mem) : Table DeckEntry :=
  let d := m.slice 0x1C0000 0x40000
  ((d.map fun x => x.1 / 16).eraseDups).map fun k =>
    (k, { t := BitVec.ofNat 32 (d.nat (16 * k) 4), p := BitVec.ofNat 32 (d.nat (16 * k + 4) 4), i := dw (d.nat (16 * k + 8) 8) })

/-- A part as its image gives it, on a core (R125). -/
def partOf (m : Mem) (k : Kept) (x : Core) (now : Dword) : Core :=
  { x with
    s := strandOf m 0x200000 .s k.spaces[0] now
    v := strandOf m 0x200400 .v k.spaces[1] now
    m := strandOf m 0x200800 .m k.spaces[2] now
    spad := m.slice 0 Config.spadBytes
    tiles := m.slice 0x180000 0x40000
    tileFull := BitVec.ofNat 16 (m.nat 0x201200 2)
    tileChanges := []
    deck := deckOf m
    sem := Vector.ofFn fun i : Fin 256 => BitVec.ofNat 16 (m.nat (0x201000 + 2 * i.val) 2)
    semWait := []
    signals := []
    queues := Vector.ofFn fun q : Fin 8 => queueOf m q.val k.jobs[q]
    board := (List.range 16).filterMap fun i => rangeOf (m.dword (0x201388 + 16 * i)) (m.dword (0x201388 + 16 * i + 8))
    rings := Vector.ofFn fun i : Fin 8 => ringOf (m.dword (0x201308 + 16 * i.val)) (m.dword (0x201308 + 16 * i.val + 8))
    frame := frameOf m k.frame
    deadlock := 0 }

/-- The cluster image: the barriers (R263). -/
def clusterImage (x : Cluster) : Mem :=
  cellsAt 0 (x.bars.toList.flatMap fun b => leBytes 4 b.phase.toNat ++ [b.arr, b.n] ++ List.replicate 10 0)
def barriersOf (m : Mem) : Vector Barrier 16 :=
  Vector.ofFn fun i : Fin 16 => { phase := BitVec.ofNat 32 (m.nat (16 * i.val) 4), arr := m.get (16 * i.val + 4), n := m.get (16 * i.val + 5) }

/-! ### Save areas in memory (R123) -/

/-- A page that a save area may use: present, normal or vault, writable; or the base of one it may not (R123, R408). -/
def State.savePage (s : State) (space : BitVec 16) (va : Nat) : State × Except Nat Lease :=
  match s.walk s.dist.master space va with
  | (s, { found := some (l, _), .. }) =>
    (s, if decide (l.kind.toNat ≤ 1) && l.wr && decide (va < 2 ^ 45) then .ok l else .error l.base.toNat)
  | (s, { found := none, base := b }) => (s, .error b)

/-- The base of the first page of `n` 64 KiB slot pages that a save area may not use (R123). -/
def State.badSavePage (s : State) (space : BitVec 16) (va : Nat) : Nat → State × Option Nat
  | 0 => (s, none)
  | n + 1 =>
    match (s.walkMet space va).savePage space va with
    | (s, .ok _) => State.badSavePage s space (va + 0x10000) n
    | (s, .error b) => (s, some b)

/-- Writes `n` lines of 256 bytes of one page. -/
def State.putLines (s : State) (l : Lease) (va : Nat) (m : Mem) : Nat → State
  | 0 => s
  | n + 1 =>
    let pa := s.homeOf (l.at va)
    let touched := (s.mem.slice pa 256 ++ m.slice 0 256).map fun x => pa + x.1
    let s := (({ s with mem := s.mem.splice pa 256 m } : State).patched s.mem (addrs pa 256)).hidden s.mem touched
    State.putLines s l (va + 256) ((m.filter fun x => decide (256 ≤ x.1)).map fun x => (x.1 - 256, x.2)) n

/-- The 256-byte lines of a page, `n` from an address on, at their homes. -/
def State.lineHomes (s : State) (l : Lease) (va n : Nat) : List Nat := (List.range n).map fun i => s.homeOf (l.at (va + 256 * i))

/-- The master's image lines go its way to memory; where no location has a vector, and none is to be left or counted, there is
nothing to note (R268, R272, R292). -/
def State.linesGo (s : State) (wr : Bool) (l : Lease) (va n : Nat) : State :=
  let m := s.dist.master
  let as := s.lineHomes l va n
  let nothing := s.stamps.isEmpty && (!wr || ((s.die m).clock == Vector.replicate 4 0 && as.all fun a => homeDie a == m))
  (if nothing then s else s.ordered m wr (as.flatMap fun a => (List.range 32).map (a + 8 * ·))).stall (s.dieWaits m as 256)

/-- Writes an image page by page; answers the page it could not write (R122, R123). -/
def State.putImage (s : State) (space : BitVec 16) (va : Nat) (m : Mem) : List Nat → State × Option Nat
  | [] => (s, none)
  | n :: r =>
    match (s.walkMet space va).savePage space va with
    | (s, .ok l) => State.putImage ((s.linesGo true l va n).putLines l va m n) space (va + 0x10000) (m.slice 0x10000 0x400000) r
    | (s, .error b) => (s, some b)

/-- `n` lines of 256 bytes of one page, by offset. -/
def State.getLines (s : State) (l : Lease) (va off : Nat) : Nat → Mem
  | 0 => []
  | n + 1 => (s.sound.slice (s.homeOf (l.at va)) 256).shift off ++ State.getLines s l (va + 256) (off + 256) n

/-- The errors that the read of `n` lines of a page meets (R358). -/
def State.linesMet (s : State) (l : Lease) (va : Nat) : Nat → State
  | 0 => s
  | n + 1 => State.linesMet (s.met (l.at va) 256) l (va + 256) n

/-- Reads an image page by page, or answers the page it could not read (R123, R125). -/
def State.getImage (s : State) (space : BitVec 16) (va off : Nat) : List Nat → State × Except Nat Mem
  | [] => (s, .ok [])
  | n :: r =>
    match (s.walkMet space va).savePage space va with
    | (s, .ok l) =>
      match State.getImage ((if s.flaws.isEmpty then s else s.linesMet l va n).linesGo false l va n) space (va + 0x10000) (off + 0x10000) r with
      | (t, .ok m) => (t, .ok (s.getLines l va off n ++ m))
      | (t, .error e) => (t, .error e)
    | (s, .error b) => (s, .error b)

/-- Lines of each page of a part's image, and of a cluster's (R122, R263). -/
def partPages : List Nat := List.replicate 32 256 ++ [128]
def clusterPages : List Nat := [16]

end Sys2Proof.Machine
end

