-- ==== Sys2Proof/Machine/Pool.lean ====
section
/-!
DEFINITION. The ready pool and what the distributor decides by: replicas, regions' budgets, effective priorities, save
slots and placement (R303, R305 to R309, R325).
-/

namespace Sys2Proof.Machine

/-! ### Replicas (R303) -/

/-- Healthy dies other than the master's, each with a replica (R303). -/
def State.replicas (s : State) : List DieId := (List.finRange 4).filter fun d => !(s.die d).fenced && d != s.dist.master

/-- A step that changes the pool: it takes effect once every replica has acknowledged it (R303). -/
def withReplicas (ev : Event) (body : State → Out) (s : State) : Out :=
  if s.dist.granted.contains ev then body { s with dist := { s.dist with granted := s.dist.granted.erase ev } }
  else if s.dist.changes.any fun c => c.ev == ev then .next s
  else
    match s.replicas with
    | [] => body s
    | ds =>
      let s : State := { s with dist := { s.dist with changes := s.dist.changes ++ [{ need := ds, ev := ev }] } }
      .next (s.dueAll (ds.map .replicaAcknowledge))

/-- A replica's acknowledgement of a change: with the last of them the change takes effect (R303). -/
def State.acknowledge (s : State) (d : DieId) (c : Change) : State :=
  let need := c.need.filter (· != d)
  let others := s.dist.changes.filter fun x => x.ev != c.ev
  if need.isEmpty then ({ s with dist := { s.dist with changes := others, granted := s.dist.granted ++ [c.ev] } } : State).due c.ev
  else
    { s with dist := { s.dist with changes := s.dist.changes.map fun x => if x.ev == c.ev then { x with need := need } else x } }

/-- REPLICA_ACKNOWLEDGE: a replica acknowledges the earliest change that waits for it (R303). -/
def execReplicaAcknowledge (d : DieId) (s : State) : Out :=
  match s.dist.changes.find? fun c => c.need.contains d with
  | some c => .next (s.acknowledge d c)
  | none => .next s

/-- A step of the master that has to wait looks again in the next cycle. -/
def State.later (s : State) (e : Event) : State :=
  if s.timers.any fun t => t.2 == e then s else s.timer (s.time.toNat + 1) e

/-- Nothing can hold the master's accesses on their way: its die has no write that crosses to another or is not known to be applied,
and no location that its gateway holds, and no die is in a clock-skew fault (R268, R272, R277, R292). -/
def State.calm (s : State) : Bool :=
  let m := s.dist.master
  !s.sending m && !s.held.any (fun x => x.scope == .die && x.point == m.val) && !s.dies.toList.any (·.inFault)

/-- A step of the master, as its accesses allow: where one meets something on its way, or one crosses to another die before the
writes that its die has sent and seen are known to be applied, the step is made in a later cycle (R268, R272, R292; log entry 78). -/
def unlessStalled (ev : Event) (body : State → Out) (s : State) : Out :=
  if s.calm then body s
  else
    let m := s.dist.master
    match body s with
    | .next t =>
      if t.cycle.stalled || (s.sending m && (t.die m).clock[m] != (s.die m).clock[m]) then .next (s.later ev) else .next t
    | r => r

/-- The master's step: while an election is in progress it waits (R313). -/
def master (ev : Event) (body : State → Out) (s : State) : Out :=
  if s.dist.electing then .next (s.later ev) else unlessStalled ev body s

/-! ### Regions (R324, R325) -/

/-- Cores that instances of a region's subtree occupy (R324). -/
def State.coresIn (s : State) (n : Nat) : Nat :=
  (s.insts.map fun x => if !x.2.cores.isEmpty && (s.regionPath x.2.leaf.toNat).contains n then x.2.cores.length else 0).sum

/-- INUSE of a leaf and its ancestors (R324). -/
def State.noteUse (s : State) (leaf : Nat) : State :=
  (s.regionPath leaf).foldl (fun (s : State) n =>
    let r := s.region n
    let w := setFld r[7] 9 0 (s.coresIn n)
    (s.keepRegion n (r.set 7 w)).masterPut (s.regionAddr n + 0x38) w) s

/-! ### Instances of the pool (R305 to R307) -/

/-- Cores an instance takes (R307). -/
def Inst.size (i : Inst) : Nat := if i.cluster then 4 else 1
/-- Save slots an instance takes (R309). -/
def Inst.slots (i : Inst) : Nat := if i.cluster then 5 else 1

/-- TIME since an instance's node entered the pool (R306, R341). -/
def State.age (s : State) (i : Inst) : Nat := (s.time - i.entry).toInt.toNat

/-- Effective priority (R306). -/
def State.effective (s : State) (i : Inst) : Nat :=
  min 15 ((s.region (s.owner 6 i.leaf.toNat)).prio + s.age i / 100000)

/-- An instance comes before another in the order of dispatch (R306). -/
def State.before (s : State) (a b : Nat × Inst) : Bool :=
  let ea := s.effective a.2
  let eb := s.effective b.2
  if ea != eb then decide (eb < ea)
  else if a.2.entry != b.2.entry then decide ((a.2.entry - b.2.entry).toInt < 0)
  else if a.2.seq != b.2.seq then decide (a.2.seq < b.2.seq)
  else decide (a.2.k < b.2.k)

/-- Puts an element into a list in an order. -/
def insertBy {α : Type} (lt : α → α → Bool) (x : α) : List α → List α
  | [] => [x]
  | y :: r => if lt x y then x :: y :: r else y :: insertBy lt x r

/-- A list in an order. -/
def sortBy {α : Type} (lt : α → α → Bool) : List α → List α
  | [] => []
  | x :: r => insertBy lt x (sortBy lt r)

/-- A core budget holds at every level (R307, R325). -/
def State.coresOk (s : State) (i : Inst) : Bool :=
  (s.regionPath i.leaf.toNat).all fun n => decide (s.coresIn n + i.size ≤ fld (s.region (s.owner 0 n))[1] 9 0)

/-- No region of the path is STOPPED (R307). -/
def State.running (s : State) (i : Inst) : Bool := (s.regionPath i.leaf.toNat).all fun n => !(s.region n).stopped

/-- The region whose save pool an instance uses (R309, R325). -/
def State.pool (s : State) (i : Inst) : Nat := s.owner 4 i.leaf.toNat
/-- Address of a slot of a pool. -/
def State.slotVa (s : State) (pool b : Nat) : Nat := fld (s.region pool)[2] 44 0 + Config.slotBytes * b
/-- A run of slots of a pool is free: no instance of the pool holds one of them (R309). -/
def State.slotsFree (s : State) (pool b n : Nat) : Bool :=
  s.insts.all fun x =>
    match x.2.slot with
    | some a => a.pool != pool || !overlap a.va (Config.slotBytes * x.2.slots) (s.slotVa pool b) (Config.slotBytes * n)
    | none => true
/-- The lowest slot, or start of a run, that is free: the save area that a dispatch assigns (R309). -/
def State.freeSlot (s : State) (i : Inst) : Option SaveArea :=
  let pool := s.pool i
  let total := fld (s.region pool)[3] 15 0
  ((List.range total).find? fun b => decide (b + i.slots ≤ total) && s.slotsFree pool b i.slots).map fun b =>
    { pool := pool, va := s.slotVa pool b, space := s.spaceOf i.leaf.toNat }

/-- The first two conditions of R307, with valid regions that are not STOPPED. -/
def State.eligible (s : State) (i : Inst) : Bool :=
  s.regionOk i.leaf.toNat && s.coresOk i && (i.slot.isSome || (s.freeSlot i).isSome) && s.running i

/-- Instances that a core may be given to, in the order of R306. -/
def State.candidates (s : State) : List (Nat × Inst) :=
  sortBy s.before (s.insts.filter fun x => x.2.inPool && s.eligible x.2)

/-! ### Placement (R308) -/

/-- A core on which nothing runs and an instance may be placed. -/
def State.idleCore (s : State) (c : CoreId) : Bool :=
  s.plat.ready && (s.core c).inst.isNone && !(s.die (dieOf c)).fenced && !(s.clusters[clusterOf c]).removed
/-- Idle cores of a cluster. -/
def State.idleIn (s : State) (k : ClusterId) : List CoreId := ((List.range 4).map (coreOf k)).filter s.idleCore

/-- A place that an instance may take: its first core, its cluster and its die. -/
structure Place where
  core : CoreId
  cluster : Nat
  die : Nat
deriving DecidableEq, Repr, Inhabited

/-- Idle cores, or wholly idle clusters, outside one cluster. -/
def State.places (s : State) (wide : Bool) (but : Option ClusterId) : List Place :=
  (List.finRange 128).flatMap fun k =>
    if some k == but then []
    else
      let free := s.idleIn k
      let here (c : CoreId) : Place := { core := c, cluster := k.val, die := k.val / 32 }
      if wide then (if free.length = 4 then [here (coreOf k 0)] else []) else free.map here

/-- The place with the largest sum, the first on a tie. -/
def mostOf (xs : List (Nat × Nat)) : Option Nat :=
  let total (p : Nat) : Nat := (xs.map fun y => if y.1 = p then y.2 else 0).sum
  (xs.foldl (fun (m : Option Nat) y =>
    match m with
    | some p => if total p < total y.1 then some y.1 else m
    | none => some y.1) none)

/-- The die with the most places, the lowest on a tie. -/
def mostDie (ps : List Place) : Option Nat := mostOf ((List.range 4).flatMap fun d => (ps.filter fun p => p.die == d).map fun p => (p.die, 1))

/-- The place an instance takes: its operands' vault, their die, or the die with the most places (R308). -/
def choose (ops : List (Bool × Nat × Nat)) (ps : List Place) : Option Place :=
  let vault := (ops.filter (·.1)).map (·.2)
  let die := (ops.filter fun x => !x.1).map (·.2)
  match (mostOf vault).bind fun k => ps.find? fun p => p.cluster == k with
  | some p => some p
  | none =>
    match (mostOf die).bind fun d => ps.find? fun p => p.die == d with
    | some p => some p
    | none => (mostDie ps).bind fun d => ps.find? fun p => p.die == d

/-- Where an operand lies on its page: its vault's cluster, or the die that homes it (R308). -/
def operandPlace (l : Lease) (va : Nat) : Option (Bool × Nat) :=
  let pa := l.at va
  match l.kind with
  | 1 => if 0xC000000000 ≤ pa then some (true, (pa - 0xC000000000) / 0x1800000) else none
  | 0 => some (false, (homeDie pa).val)
  | _ => none

/-- Walks a node's tile operands once (R288, R308). -/
def State.walkOperands (s : State) (space : BitVec 16) : List (Nat × Nat) → State × List (Bool × Nat × Nat)
  | [] => (s, [])
  | (va, n) :: r =>
    if n = 0 then State.walkOperands s space r
    else
      let (s, w) := (s.walkMet space va).walk s.dist.master space va
      let (s, xs) := State.walkOperands s space r
      match w.found.bind fun x => operandPlace x.1 va with
      | some (v, k) => (s, (v, k, n) :: xs)
      | none => (s, xs)

/-! ### Node records (R332) -/

/-- A dword of a node record. -/
def nodeDword (bs : List Byte) (i : Nat) : Dword := bytesDword bs i
def nodeKind (bs : List Byte) : Nat := fld (nodeDword bs 0) 1 0
def nodeTarget (bs : List Byte) : Dword := maskTo (nodeDword bs 4) 44 0
def nodeTiles (bs : List Byte) : List (Nat × Nat) :=
  (List.range 4).map fun i => (fld (nodeDword bs (8 + 2 * i)) 44 0, (nodeDword bs (9 + 2 * i)).toNat)
def nodeRings (bs : List Byte) : Vector Dword 8 := Vector.ofFn fun i : Fin 8 => nodeDword bs (16 + i.val)

/-- An instance of a kernel or copy node, before it is dispatched (R20, R21, R305, R332). -/
def nodeInst (bs : List Byte) (leaf : Nat) (r : Region) (space : BitVec 16) (first count k : Nat) (entry : Dword) (seq : Nat)
    (arg : Dword) (ops : List (Bool × Nat × Nat)) (o : Origin) : Inst :=
  let kernel := nodeKind bs = 0
  let d0 := nodeDword bs 0
  { Inst.none with
    space := space, leaf := BitVec.ofNat 32 leaf, priv := r.system, iid := BitVec.ofNat 32 first, count := BitVec.ofNat 32 count
    status := .ready, cluster := kernel && d0.getLsbD 2, idem := d0.getLsbD 3, steal := kernel && d0.getLsbD 4 && !d0.getLsbD 2
    entry := entry, seq := seq, k := k, entryPc := nodeTarget bs, arg := arg, rings := nodeRings bs, tileops := ops, origin := o
    copy := if kernel then Option.none
      else some { src := nodeTarget bs, dst := maskTo (nodeDword bs 5) 44 0, len := (nodeDword bs 6).toNat, done := 0, held := 0 } }

/-- Adds an instance to the table. -/
def State.addInst (s : State) (i : Inst) : State :=
  let k := s.dist.nextInst
  { s with insts := Table.put s.insts k i, dist := { s.dist with nextInst := k + 1 } }

end Sys2Proof.Machine
end

