-- ==== Sys2Proof/Machine/Work.lean ====
section
/-!
DEFINITION. Work queues, launch entries, graph objects, replays and their nodes, and `GLAUNCH` (R304, R305, R328 to R338).
-/

namespace Sys2Proof.Machine

/-! ### The master's reads and writes -/

/-- The master writes a dword at a virtual address; a word of the coherent window is noticed (R330). -/
def State.distDword (s : State) (space : BitVec 16) (va : Nat) (x : Dword) : State :=
  match s.vaWrite s.dist.master space va (dwordBytes [x]) with
  | (s, true) =>
    match s.translate s.dist.master space va with
    | (s, some (pa, _)) => s.dueAll (s.noticed (s.homeOf pa))
    | (s, none) => s
  | (s, false) => s

/-- The master reads bytes at a virtual address. -/
def State.distRead (s : State) (space : BitVec 16) (va n : Nat) : State × Option (List Byte) := s.vaRead s.dist.master space va n

/-- Whether pages of 64 KiB are present from one on, and take stores where `wr` asks for it. -/
def State.pagesPresent (s : State) (space : BitVec 16) (va : Nat) (wr : Bool) : Nat → State × Bool
  | 0 => (s, true)
  | n + 1 =>
    match (s.walkMet space va).translate s.dist.master space va with
    | (s, some (_, w)) => if wr && !w then (s, false) else State.pagesPresent s space (va + 0x10000) wr n
    | (s, none) => (s, false)

/-- Whether the pages of a range of bytes are present. -/
def State.present (s : State) (space : BitVec 16) (va : Nat) (wr : Bool) (n : Nat) : State × Bool :=
  if n = 0 then (s, true) else s.pagesPresent space (va / 0x10000 * 0x10000) wr ((va + n - 1) / 0x10000 - va / 0x10000 + 1)

/-! ### Queues (R328, R329) -/

/-- Address of a queue's descriptor (R328). -/
def State.queueAddr (s : State) (q : Nat) : Nat := s.plat.wqbase.toNat + 32 * q
/-- A dword of a queue's descriptor. -/
def State.queueDword (s : State) (q i : Nat) : Dword := s.physDword (s.queueAddr q + 8 * i)
/-- LEAF of a queue. -/
def State.queueLeaf (s : State) (q : Nat) : Nat := fld (s.queueDword q 0) 45 32
/-- CONS of a queue. -/
def State.consumed (s : State) (q : Nat) : Dword := s.queueDword q 2

/-- A queue is bound, to a valid leaf region (R328). -/
def State.bound (s : State) (q : Nat) : Bool :=
  let d := s.queueDword q 0
  d.getLsbD 0 && fld d 31 2 == 0 && fld d 63 46 == 0 && fld (s.queueDword q 1) 63 45 == 0 && fld (s.queueDword q 3) 63 45 == 0 &&
    s.regionOk (s.queueLeaf q) && (s.region (s.queueLeaf q)).leaf

/-- A bound queue is among the first WQ of every region of its path (R328). -/
def State.withinWq (s : State) (q : Nat) : Bool :=
  let earlier := (List.range q).filter s.bound
  (s.regionPath (s.queueLeaf q)).all fun n =>
    decide ((earlier.filter fun p => (s.regionPath (s.queueLeaf p)).contains n).length < fld (s.region (s.owner 3 n))[1] 63 48)

/-- The master keeps a copy of each block that it needs for a queue's place among those bound within its regions: the paths of it
and of every queue before it (R325, R328). -/
def State.keepQueues (s : State) (q : Nat) : State :=
  ((List.range (q + 1)).filter fun p => (s.queueDword p 0).getLsbD 0).foldl (fun (s : State) p => s.keepPath (s.queueLeaf p)) s

/-- Reason to reject the entries of a queue: none, QUEUE or QUOTA (R328, R330). -/
def State.queueReason (s : State) (q : Nat) : Nat := if !s.bound q then 6 else if !s.withinWq q then 8 else 0

/-- CUR and CONS after an entry has been taken (R329, R337). -/
def State.takeEntry (s : State) (q : Nat) (e : Dword) : State :=
  (s.masterPut (s.queueAddr q + 24) e).masterPut (s.queueAddr q + 16) (s.consumed q + 1)

/-- A queue whose entry is handled or waits (R334). -/
def State.holdQueue (s : State) (q : Nat) : State := { s with dist := { s.dist with heldQueues := s.dist.heldQueues ++ [q] } }
/-- The queue's next entry may be handled (R334). -/
def State.releaseQueue (s : State) (q : Nat) : State :=
  ({ s with dist := { s.dist with heldQueues := s.dist.heldQueues.filter (· != q), handed := Table.del s.dist.handed q } } : State).dueAll
    [.wqConsume q, .devqConsume q]

/-- Entries of a device queue. -/
def State.devEntries (s : State) (q : Nat) : List DevEntry := Table.get [] s.dist.devq q
def State.setDev (s : State) (q : Nat) (xs : List DevEntry) : State :=
  { s with dist := { s.dist with devq := if xs.isEmpty then Table.del s.dist.devq q else Table.put s.dist.devq q xs } }

/-- The instance of a `GLAUNCH` may retire once the entry's first STATUS has been written, or the entry dropped (R338). -/
def State.launched (s : State) (e : DevEntry) : State :=
  match e.inst with
  | some k => s.due (.instanceRetire k)
  | none => s

/-- The first STATUS of the entry that a queue hands over has been written: a device queue's leaves its order. -/
def State.handled (s : State) (q : Nat) (e : Dword) : State :=
  match s.devEntries q with
  | x :: r => if x.placed && x.va == e then (s.setDev q r).launched x else s
  | [] => s

/-- A dword of an entry handed over. -/
def Handed.dword (h : Handed) (i : Nat) : Dword := h.words.toList.getD i 0

/-- Hands an entry, as it was read, to R334 by its KIND: a LAUNCH, or a STRUCT. -/
def State.handOver (s : State) (q : Nat) (e : Dword) (x : Handed) : State :=
  let s := s.holdQueue q
  ({ s with dist := { s.dist with handed := Table.put s.dist.handed q x } } : State).due
    (if fld x.words[3] 1 0 = 1 then .struct q e else .launch q e)

/-- An entry's dwords as they were read, for the leaf of a queue. -/
def handedOf (space : BitVec 16) (leaf : Nat) (bs : List Byte) : Handed :=
  { space := space, leaf := leaf, words := Vector.ofFn fun i : Fin 8 => bytesDword bs i.val }

/-- Consumes the next entry of a host queue that its tail word covers: at HEAD, or by NEXT of the one before (R329). A queue that
is not in use has its entries taken and rejected like any that is not usable (R328). -/
def wqBody (q : Nat) (s : State) : Out :=
  let d := s.queueDword q 0
  let tail := s.physDword (windowBase + 8 * q)
  if d.getLsbD 1 || s.dist.heldQueues.contains q || decide (tail.toNat ≤ (s.consumed q).toNat) then .next s
  else
    let s := (((s.masterMet (s.queueAddr q) 32).masterMet (windowBase + 8 * q) 8).keepPath (s.queueLeaf q)).keepQueues q
    let space := s.spaceOf (s.queueLeaf q)
    let cur := maskTo (s.queueDword q 3) 44 0
    let lost (s : State) (e : Dword) : Out := .next (s.regionFault (s.queueLeaf q) 0x0065 e)
    let (s, e) : State × Option Dword :=
      if s.consumed q = 0 then (s, some (maskTo (s.queueDword q 1) 44 0))
      else
        match s.distRead space cur.toNat 8 with
        | (s, some bs) => (s, some (maskTo (bytesDword bs 0) 44 0))
        | (s, none) => (s, none)
    match e with
    | none => lost s cur
    | some e =>
      match s.distRead space e.toNat 64 with
      | (s, none) => lost s e
      | (s, some bs) => .next ((s.takeEntry q e).handOver q e (handedOf space (s.queueLeaf q) bs))

/-- WQ_CONSUME (R328, R329). -/
def execWqConsume (q : Nat) (s : State) : Out := master (.wqConsume q) (wqBody q) s

/-! ### STATUS (R330) -/

/-- A STATUS word. -/
def statusWord (state : Nat) (failed : Bool) (reason slot : Nat) (replay : Word) : Dword :=
  packFields [(state, 0), (bit01 failed, 3), (reason, 8), (slot, 16), (replay.toNat, 32)]

/-- The master flushes a dword that it has written (R282, R330). -/
def State.flushed (s : State) (space : BitVec 16) (va : Nat) : State :=
  match s.vaPlaces s.dist.master space va 8 with
  | (s, as, _) => s.shown as

/-- Writes STATUS of an entry, and COMPL after it, flushed, where the entry names one and the value is its last (R330). -/
def State.writeStatus (s : State) (space : BitVec 16) (e : Dword) (x : Dword) : State :=
  let s := s.distDword space (e.toNat + 0x20) x
  if fld x 2 0 < 3 then s
  else
    match s.distRead space (e.toNat + 0x30) 8 with
    | (s, some bs) => let c := fld (bytesDword bs 0) 44 0; if c = 0 then s else (s.distDword space c x).flushed space c
    | (s, none) => s

/-- Rejects an entry; its queue goes on (R330, R334). -/
def State.reject (s : State) (q : Nat) (space : BitVec 16) (e : Dword) (reason : Nat) : State :=
  ((s.writeStatus space e (statusWord 4 false reason 0 0)).handled q e).releaseQueue q

/-! ### Graph objects (R331 to R333) -/

def Graph.count (g : Graph) : Nat := fld g.h[0] 15 0
def Graph.limit (g : Graph) : Nat := fld g.h[0] 18 16
def Graph.psize (g : Graph) : Nat := fld g.h[0] 63 32
def Graph.paramva (g : Graph) : Nat := fld g.h[1] 44 0
def Graph.replayva (g : Graph) : Nat := fld g.h[2] 44 0
def Graph.infl (g : Graph) : Nat := fld g.h[3] 2 0
def Graph.ver (g : Graph) : Bool := g.h[3].getLsbD 3
def Graph.launches (g : Graph) : Word := g.h[3].extractLsb' 32 32
/-- Distance between replay records (R331). -/
def Graph.stride (g : Graph) : Nat := 64 + (g.psize + 63) / 64 * 64

/-- 16-bit numbers of a list of bytes. -/
def halvesOf : Nat → List Byte → List Nat
  | 0, _ => []
  | n + 1, bs => leNat (bs.take 2) :: halvesOf n (bs.drop 2)

/-- Node records and their successor lists; none where one is unreadable (R332). -/
def State.readNodes (s : State) (space : BitVec 16) (va : Nat) : Nat → Nat → State × Option (List Node)
  | 0, _ => (s, some [])
  | n + 1, i =>
    match s.distRead space (va + 64 + 256 * i) 256 with
    | (s, none) => (s, none)
    | (s, some bs) =>
      let d0 := nodeDword bs 0
      let ns := fld d0 47 32
      let nf := fld d0 63 48
      match s.distRead space (va + fld (nodeDword bs 1) 31 0) (2 * (ns + nf)) with
      | (s, none) => (s, none)
      | (s, some ls) =>
        let all := halvesOf (ns + nf) ls
        match State.readNodes s space va n (i + 1) with
        | (s, some r) => (s, some ({ record := bs, succ := all.take ns, fsucc := all.drop ns } :: r))
        | (s, none) => (s, none)

/-- Reads a graph object (R331). -/
def State.readGraph (s : State) (space : BitVec 16) (va : Nat) : State × Option Graph :=
  match s.distRead space va 64 with
  | (s, none) => (s, none)
  | (s, some bs) =>
    let h : Vector Dword 4 := Vector.ofFn fun i : Fin 4 => bytesDword bs i.val
    match s.readNodes space va (fld h[0] 15 0) 0 with
    | (s, some ns) => (s, some { h := h, restZero := (bs.drop 32).all (· == 0), nodes := ns })
    | (s, none) => (s, none)

/-- A header keeps to R331. -/
def Graph.headerOk (g : Graph) : Bool :=
  g.count != 0 && decide (1 ≤ g.limit) && decide (g.limit ≤ 4) && fld g.h[0] 31 19 == 0 && g.psize % 8 == 0 &&
    decide (g.psize ≤ 0x100000) && fld g.h[1] 63 45 == 0 && g.paramva % 8 == 0 && fld g.h[2] 63 45 == 0 && g.replayva % 64 == 0 &&
    fld g.h[3] 31 4 == 0 && g.restZero

/-- A node record keeps to R332, its ring descriptors to the reserved field of R142. -/
def nodeOk (n : Node) : Bool :=
  let d (i : Nat) := nodeDword n.record i
  let kind := nodeKind n.record
  let target := fld (d 4) 44 0
  fld (d 0) 15 5 == 0 && fld (d 3) 31 0 != 0 && fld (d 3) 63 32 == 0 && fld (d 4) 63 45 == 0 && fld (d 5) 63 45 == 0 && fld (d 7) 63 13 == 0 &&
    decide (fld (d 7) 12 0 ≤ 4096) && (List.range 4).all (fun i => fld (d (8 + 2 * i)) 63 45 == 0) &&
    (List.range 8).all (fun i => fld (d (16 + i)) 63 48 == 0) && (List.range 8).all (fun i => d (24 + i) == 0) &&
    (kind == 1 || fld (d 0) 63 48 == 0) && (kind == 2 || (d 5 == 0 && d 6 == 0)) &&
    (match kind with
     | 0 => target % 2 == 0
     | 1 => target % 4 == 0
     | 2 => decide (target + (d 6).toNat ≤ 2 ^ 45) && decide (fld (d 5) 44 0 + (d 6).toNat ≤ 2 ^ 45)
     | _ => target % 64 == 0)

/-- Every successor of a node, of either list. -/
def Node.all (n : Node) : List Nat := n.succ ++ n.fsucc

/-- Entries of successor lists that name a node. -/
def namedBy (ns : List Node) (i : Nat) : Nat := (ns.map fun n => (n.all.filter (· == i)).length).sum

/-- Every check of R333 but the last. -/
def Graph.wellFormed (g : Graph) : Bool :=
  g.headerOk && g.nodes.all nodeOk && g.nodes.all (fun n => n.all.all fun j => decide (j < g.count)) &&
    g.nodes.zipIdx.all fun x => namedBy g.nodes x.2 == fld (nodeDword x.1.record 0) 31 16

/-- Takes nodes without open predecessors away, once for each node of the graph. -/
def peel (ns : List Node) : Nat → List Nat → List Nat
  | 0, left => left
  | n + 1, left =>
    let next := left.filter fun i => (left.any fun j => ((ns[j]?).map fun x => x.all.contains i).getD false)
    if next.length = left.length then left else peel ns n next

/-- The successor relation has no cycle (R333). -/
def Graph.acyclic (g : Graph) : Bool := (peel g.nodes g.count (List.range g.count)).isEmpty

/-- Reason that R333 gives: none, GRAPH or CYCLE. -/
def Graph.reason (g : Graph) : Nat := if !g.wellFormed then 1 else if !g.acyclic then 2 else 0

/-- Writes header dword 3: INFL, VER and LAUNCHES (R331). -/
def State.writeHeader (s : State) (space : BitVec 16) (va : Nat) (infl : Nat) (ver : Bool) (launches : Word) : State :=
  s.distDword space (va + 0x18) (packFields [(infl % 8, 0), (bit01 ver, 3), (launches.toNat, 32)])

/-! ### Replays -/

def State.replay (s : State) (r : Nat) : Option Replay := Table.find s.dist.replays r
def State.setReplay (s : State) (r : Nat) (x : Replay) : State :=
  { s with dist := { s.dist with replays := Table.put s.dist.replays r x } }
def Replay.node (x : Replay) (i : Nat) : Option Node := x.recs[i]?
def Replay.state (x : Replay) (i : Nat) : NodeState := (x.nodes[i]?).getD .done
def Replay.setNode (x : Replay) (i : Nat) (n : NodeState) : Replay := { x with nodes := x.nodes.set i n }

/-- A replay slot is taken (R334). -/
def State.slotTaken (s : State) (space : BitVec 16) (graph : Dword) (slot : Nat) : Bool :=
  s.dist.replays.any fun x => x.2.graph == graph && x.2.space == space && x.2.slot == slot

/-- Graphs of a replay and of the replays it is a child of, from the inside out (R335). -/
def State.chain (s : State) : Nat → Nat → List Dword
  | 0, _ => []
  | fuel + 1, r =>
    match s.replay r with
    | none => []
    | some x =>
      match x.origin with
      | .entry _ _ => [x.graph]
      | .node p _ => x.graph :: State.chain s fuel p

/-- Starts a replay: its slot, the counts of its graph and its record; `patch` lies over the default parameters (R334). -/
def State.startReplay (s : State) (g : Graph) (graph : Dword) (space : BitVec 16) (leaf : Nat) (o : ReplayFrom) (poff : Nat)
    (patch : List Byte) : State × Nat × Replay :=
  let slot := ((List.range 4).find? fun i => !s.slotTaken space graph i).getD 0
  let number := g.launches + 1
  let s := s.writeHeader space graph.toNat (g.infl + 1) true number
  let rva := g.replayva + slot * g.stride
  let (s, ps) := s.distRead space g.paramva g.psize
  let ps := ps.getD []
  let ps := ps.take poff ++ patch ++ ps.drop (poff + patch.length)
  let entry : Dword := match o with | .entry _ e => e | .node _ _ => 0
  let (s, _) := s.vaWrite s.dist.master space rva (dwordBytes [number.setWidth 64, entry, 0] ++ List.replicate 40 0 ++ ps)
  let x : Replay :=
    { origin := o, graph := graph, space := space, leaf := leaf, slot := slot, number := number, record := dw rva, recs := g.nodes
      nodes := g.nodes.map fun n => .waiting (fld (nodeDword n.record 0) 31 16), failed := 0 }
  let r := s.dist.nextReplay
  (({ s with dist := { s.dist with nextReplay := r + 1 } } : State).setReplay r x, r, x)

/-! ### Nodes (R304, R305, R335, R336) -/

/-- What happens to the nodes of replays, in its order; a node becomes ready at a TIME (R304). -/
inductive NodeWork where
  | ready (r i : Nat) (at_ : Dword)
  | complete (r i : Nat) (failed : Bool)
  | skip (r i : Nat)
  | lower (r i : Nat)
deriving DecidableEq, Repr, Inhabited

/-- Index ranges of a node's instances: k, first index and count (R305). -/
def nodeRanges (bs : List Byte) : List (Nat × Nat × Nat) :=
  let lo := fld (nodeDword bs 2) 31 0
  let hi := fld (nodeDword bs 2) 63 32
  let g := max 1 (fld (nodeDword bs 3) 31 0)
  (List.range ((hi - lo + g - 1) / g)).map fun k => (k, lo + k * g, min g (hi - (lo + k * g)))

/-- A kernel or copy node enters the pool with its entry time (R304, R305, R308). -/
def State.poolNode (s : State) (r i : Nat) (at_ : Dword) (x : Replay) (bs : List Byte) (ranges : List (Nat × Nat × Nat)) : State :=
  let s := s.keepPath x.leaf
  let space := s.spaceOf x.leaf
  let (s, ops) := s.walkOperands space (nodeTiles bs)
  let seq := s.dist.seq
  let s : State := { s with dist := { s.dist with seq := seq + 1 } }
  let arg := if nodeKind bs = 0 then x.record + 0x40 + dw (fld (nodeDword bs 1) 63 32) else 0
  let s := ranges.foldl (fun (s : State) (y : Nat × Nat × Nat) =>
    s.addInst (nodeInst bs x.leaf (s.region x.leaf) space y.2.1 y.2.2 y.1 at_ seq arg ops (.node r i))) s
  (s.setReplay r (x.setNode i (.running ranges.length false))).due .instanceDispatch

/-- The nodes of a replay that begin without predecessors become ready, in ascending number (R334). -/
def State.roots (s : State) (r : Nat) (x : Replay) : List NodeWork :=
  (x.nodes.zipIdx.filter fun n => n.1 == .waiting 0).map fun n => .ready r n.2 s.time

/-- Starts the child replay of a subgraph node, or has it wait on its graph (R335). A graph that fails R333 fails the
node. -/
def State.startChild (s : State) (r i : Nat) (graph : Dword) (space : BitVec 16) (leaf : Nat) : State × List NodeWork :=
  match s.readGraph space graph.toNat with
  | (s, none) => (s, [.complete r i true])
  | (s, some g) =>
    let (s, a) := s.present space g.paramva false g.psize
    let (s, b) := s.present space g.replayva true (g.limit * g.stride)
    if (!g.ver && g.reason != 0) || !a || !b then (s, [.complete r i true])
    else if g.limit ≤ g.infl then
      let w : GraphWait := { graph := graph, space := space, by_ := .node r i, g := g, handed := { space := space, leaf := leaf, words := Vector.replicate 8 0 } }
      ({ s with dist := { s.dist with graphWaits := s.dist.graphWaits ++ [w] } }, [])
    else
      let (s, c, x) := s.startReplay g graph space leaf (.node r i) 0 []
      (s, s.roots c x)

/-- One thing that happens to a node; what follows from it. A node that becomes ready in an election enters the pool when that
ends (R313). -/
def State.nodeStep (s : State) : NodeWork → State × List NodeWork
  | .ready r i at_ =>
    match s.replay r with
    | none => (s, [])
    | some x =>
      if s.dist.electing then ({ s with dist := { s.dist with readied := s.dist.readied ++ [(r, i, at_)] } }, [])
      else match x.node i with
      | none => (s, [])
      | some n =>
        let kind := nodeKind n.record
        if kind = 0 then
          let rs := nodeRanges n.record
          if rs.isEmpty then (s, [.complete r i false]) else (s.poolNode r i at_ x n.record rs, [])
        else if kind = 1 then ((s.setReplay r (x.setNode i (.running 1 false))).due (.conditionalRead r i), [])
        else if kind = 2 then (s.poolNode r i at_ x n.record [(0, 0, 0)], [])
        else
          let chain := s.chain 9 r
          let target := nodeTarget n.record
          let s := s.setReplay r (x.setNode i (.running 1 false))
          if chain.contains target || decide (8 ≤ chain.length) then (s, [.complete r i true])
          else s.startChild r i target x.space x.leaf
  | .complete r i failed =>
    match s.replay r with
    | none => (s, [])
    | some x =>
      let x := { x.setNode i .done with failed := x.failed + (if failed then 1 else 0) }
      let s := s.setReplay r x
      let s := if failed then (s.vaWrite s.dist.master x.space (x.record.toNat + 0x10) (leBytes 2 x.failed)).1 else s
      (s.due (.replayDone r), ((x.node i).map fun n => n.succ.map fun j => .lower r j).getD [])
  | .skip r i =>
    match s.replay r with
    | none => (s, [])
    | some x =>
      if x.state i == .done then (s, [])
      else ((s.setReplay r (x.setNode i .done)).due (.replayDone r), ((x.node i).map fun n => n.all.map fun j => .lower r j).getD [])
  | .lower r i =>
    match s.replay r with
    | none => (s, [])
    | some x =>
      match x.state i with
      | .waiting n => if n ≤ 1 then (s.setReplay r (x.setNode i (.waiting 0)), [.ready r i s.time]) else (s.setReplay r (x.setNode i (.waiting (n - 1))), [])
      | _ => (s, [])

/-- All that follows from what has happened to some nodes, in order. -/
def State.nodeWork : Nat → List NodeWork → State → State
  | 0, _, s => s
  | _ + 1, [], s => s
  | fuel + 1, w :: r, s =>
    let (s, more) := s.nodeStep w
    State.nodeWork fuel (r ++ more) s

/-- Room for every step that graphs can cause. -/
def workFuel : Nat := 2 ^ 64

def State.nodes (s : State) (ws : List NodeWork) : State := s.nodeWork workFuel ws

/-- The nodes that became ready in an election enter the pool, their entry times unchanged (R313, R323). -/
def readiedBody (s : State) : Out :=
  let xs := s.dist.readied
  .next (({ s with dist := { s.dist with readied := [] } } : State).nodes (xs.map fun y => .ready y.1 y.2.1 y.2.2))

/-- An instance of a node has retired (R335). -/
def State.nodeRetired (s : State) (r i : Nat) (terminated : Bool) : State :=
  match s.replay r with
  | none => s
  | some x =>
    match x.state i with
    | .running n bad =>
      let bad := bad || terminated
      if n ≤ 1 then s.nodes [.complete r i bad] else s.setReplay r (x.setNode i (.running (n - 1) bad))
    | _ => s

/-- POOL_READIED (R303, R313). -/
def execPoolReadied (s : State) : Out :=
  if s.dist.readied.isEmpty then .next s else master .poolReadied (withReplicas .poolReadied readiedBody) s

/-- The read of a conditional node; the list it does not choose is skipped (R336). -/
def conditionalBody (r i : Nat) (s : State) : Out :=
  match s.replay r with
  | none => .next s
  | some x =>
    match x.node i, x.state i with
    | some n, .running _ _ =>
      let va := nodeTarget n.record
      let (s, v) := s.distRead x.space va.toNat 4
      let s := if v.isNone then s.regionFault x.leaf 0x0064 va else s
      let yes := (v.map leNat).getD 0 != 0
      let s := (s.setReplay r (x.setNode i .done)).due (.replayDone r)
      .next (s.nodes (((if yes then n.succ else n.fsucc).map fun j => .lower r j) ++
        ((if yes then n.fsucc else n.succ).map fun j => .skip r j)))
    | _, _ => .next s

/-- CONDITIONAL_READ: put off while the walkers stall (R292, R336). -/
def execConditionalRead (r i : Nat) (s : State) : Out :=
  let ev : Event := .conditionalRead r i
  if (s.die s.dist.master).inFault then .next (s.later ev)
  else
    match (s.replay r).map fun (x : Replay) => x.state i with
    | some (.running _ _) => master ev (withReplicas ev (conditionalBody r i)) s
    | _ => .next s

/-! ### LAUNCH and STRUCT (R330, R334) -/

/-- Reason to reject an entry for its own fields: none, GRAPH or PATCH (R330). -/
def entryReason (w : Nat → Dword) : Nat :=
  let plen := fld (w 3) 63 32
  if [0, 1, 2, 6].any (fun i => fld (w i) 63 45 != 0) || fld (w 3) 31 2 != 0 || fld (w 5) 63 32 != 0 || w 7 != 0 ||
      decide (2 ≤ fld (w 3) 1 0) || fld (w 1) 5 0 != 0 then 1
  else if plen % 8 != 0 || fld (w 5) 31 0 % 8 != 0 || (plen != 0 && fld (w 2) 2 0 != 0) then 3
  else 0

/-- What a launch comes to: a reason, a wait, or the graph with the patch to start with. -/
inductive LaunchEnd where
  | reject (reason : Nat)
  | wait (g : Graph)
  | start (g : Graph) (patch : List Byte)

/-- The checks of a LAUNCH in R334's order. -/
def State.checkLaunch (s : State) (q : Nat) (space : BitVec 16) (w : Nat → Dword) : State × LaunchEnd :=
  let own := if s.queueReason q != 0 then s.queueReason q else entryReason w
  let va := fld (w 1) 44 0
  let plen := fld (w 3) 63 32
  let poff := fld (w 5) 31 0
  if own != 0 then (s, .reject own)
  else
    match s.readGraph space va with
    | (s, none) => (s, .reject 1)
    | (s, some g) =>
      if !g.ver && g.reason != 0 then (s, .reject g.reason)
      else
        let s := if g.ver then s else s.writeHeader space va g.infl true g.launches
        if g.psize < poff + plen then (s, .reject 3)
        else
          let (s, a) := s.present space g.paramva false g.psize
          let (s, b) := s.present space g.replayva true (g.limit * g.stride)
          let (s, p) := s.distRead space (fld (w 2) 44 0) plen
          match p with
          | some patch => if !a || !b then (s, .reject 1) else if g.limit ≤ g.infl then (s, .wait g) else (s, .start g patch)
          | none => (s, .reject (if !a || !b then 1 else 3))

/-- A LAUNCH starts its replay, in the leaf region of its queue as it was handed over (R334). -/
def State.beginReplay (s : State) (q : Nat) (h : Handed) (e : Dword) (g : Graph) (patch : List Byte) : State :=
  let (s, r, x) := s.startReplay g (maskTo h.words[1] 44 0) h.space h.leaf (.entry q e) (fld h.words[5] 31 0) patch
  let s := (s.writeStatus h.space e (statusWord 2 false 0 x.slot x.number)).releaseQueue q
  s.nodes (s.roots r x)

/-- A LAUNCH of an entry (R334). -/
def launchBody (q : Nat) (e : Dword) (h : Handed) (s : State) : Out :=
  let s := (s.keepPath (s.queueLeaf q)).keepQueues q
  match s.checkLaunch q h.space h.dword with
  | (s, .reject reason) => .next (s.reject q h.space e reason)
  | (s, .wait g) =>
    let g : GraphWait := { graph := maskTo h.words[1] 44 0, space := h.space, by_ := .entry q e, g := g, handed := h }
    let s : State := { s with dist := { s.dist with graphWaits := s.dist.graphWaits ++ [g] } }
    .next ((s.writeStatus h.space e (statusWord 1 false 0 0 0)).handled q e)
  | (s, .start g patch) => .next ((s.handled q e).beginReplay q h e g patch)

/-- LAUNCH: of the entry that a queue has handed over, as it was read when the queue took it (R330 to R334, R338). -/
def execLaunch (q : Nat) (e : Dword) (s : State) : Out :=
  match Table.find s.dist.handed q with
  | some h => master (.launch q e) (withReplicas (.launch q e) (launchBody q e h)) s
  | none => .next s

/-- A STRUCT copies its patch into the graph object while no replay of it is in flight and none waits (R333, R334). -/
def structBody (q : Nat) (e : Dword) (h : Handed) (s : State) : Out :=
  let s := (s.keepPath (s.queueLeaf q)).keepQueues q
  let space := h.space
  let own := if s.queueReason q != 0 then s.queueReason q else entryReason h.dword
  let graph := maskTo h.words[1] 44 0
  let plen := fld h.words[3] 63 32
  let poff := fld h.words[5] 31 0
  if own != 0 then .next (s.reject q space e own)
  else
    match s.distRead space graph.toNat 64 with
    | (s, none) => .next (s.reject q space e 1)
    | (s, some hs) =>
      let h0 := bytesDword hs 0
      let h3 := bytesDword hs 3
      let (s, there) := s.present space graph.toNat true (64 + 256 * fld h0 15 0)
      let (s, p) := s.distRead space (fld h.words[2] 44 0) plen
      if !there then .next (s.reject q space e 1)
      else if fld h3 2 0 != 0 || s.dist.graphWaits.any fun x => x.graph == graph && x.space == space then .next (s.reject q space e 4)
      else
        match p with
        | none => .next (s.reject q space e 3)
        | some patch =>
          if decide (poff < 64) || decide (64 + 256 * fld h0 15 0 < poff + plen) then .next (s.reject q space e 3)
          else
            let (s, _) := s.vaWrite s.dist.master space (graph.toNat + poff) patch
            let s := s.writeHeader space graph.toNat 0 false (h3.extractLsb' 32 32)
            .next (((s.writeStatus space e (statusWord 3 false 0 0 0)).handled q e).releaseQueue q)

/-- STRUCT, as it was read when the queue took it (R333, R334, R338). -/
def execStruct (q : Nat) (e : Dword) (s : State) : Out :=
  match Table.find s.dist.handed q with
  | some h => master (.struct q e) (structBody q e h) s
  | none => .next s

/-! ### The end of a replay (R335) -/

/-- The header of a graph as it stands now: INFL and LAUNCHES (R331). -/
def State.counts (s : State) (g : Graph) (space : BitVec 16) (va : Nat) : State × Graph :=
  let (s, h) := s.distRead space (va + 0x18) 8
  (s, { g with h := g.h.set 3 (bytesDword (h.getD []) 0) })

/-- A freed slot goes to the earliest that waits on the graph; its checks were made before it waited, and its patch is read now
(R334, R335; log entry 63). -/
def State.passSlot (graph : Dword) (space : BitVec 16) (s : State) : State :=
  match s.dist.graphWaits.find? fun x => x.graph == graph && x.space == space with
  | none => s
  | some w =>
    let s : State := { s with dist := { s.dist with graphWaits := s.dist.graphWaits.erase w } }
    let (s, g) := s.counts w.g space graph.toNat
    match w.by_ with
    | .entry q e =>
      let (s, patch) := s.distRead space (fld w.handed.words[2] 44 0) (fld w.handed.words[3] 63 32)
      s.beginReplay q w.handed e g (patch.getD [])
    | .node r i =>
      match s.replay r with
      | none => s
      | some x =>
        let (s, c, y) := s.startReplay g graph space x.leaf (.node r i) 0 []
        s.nodes (s.roots c y)

/-- Every node of a replay is complete or skipped: STATUS, then COMPL, then its slot is free and passes on; a child ends its
node (R335). -/
def replayBody (r : Nat) (s : State) : Out :=
  match s.replay r with
  | none => .next s
  | some x =>
    let failed := x.failed != 0
    let s := match x.origin with
      | .entry _ e => s.writeStatus x.space e (statusWord 3 failed 0 x.slot x.number)
      | .node _ _ => s
    let s : State := { s with dist := { s.dist with replays := Table.del s.dist.replays r } }
    let (s, h) := s.distRead x.space (x.graph.toNat + 0x18) 8
    let h3 := bytesDword (h.getD []) 0
    let s := s.writeHeader x.space x.graph.toNat (fld h3 2 0 - 1) (h3.getLsbD 3) (h3.extractLsb' 32 32)
    let s := s.passSlot x.graph x.space
    match x.origin with
    | .node p i => .next (s.nodes [.complete p i failed])
    | .entry _ _ => .next s

/-- REPLAY_DONE (R334, R335). -/
def execReplayDone (r : Nat) (s : State) : Out :=
  match s.replay r with
  | none => .next s
  | some x => if x.nodes.all (· == .done) then master (.replayDone r) (withReplicas (.replayDone r) (replayBody r)) s else .next s

/-! ### GLAUNCH (R337, R338) -/

/-- GLAUNCH: hands an entry to the master for a device queue (R338). -/
def execGlaunch (a b : GReg) (ta tb : Bool) : State → Out :=
  issue (useS 2 [(a, ta), (b, tb)]) fun s =>
    let ea := s.me.rg a
    let q := (s.me.rg b).toNat
    if ea.toNat % 64 != 0 || decide (2 ^ 45 ≤ ea.toNat) || decide (65536 ≤ q) then .trap 0x0002 0 0
    else
      let e : DevEntry := { va := ea, space := s.me.spr.space, inst := s.here.inst, who := s.turn, placed := false }
      let s : State := { s with dist := { s.dist with devq := Table.put s.dist.devq q (Table.get [] s.dist.devq q ++ [e]) } }
      .next (s.due (.devqConsume q))

/-- What a strand wrote before has been performed (R222, R338). -/
def State.wrote (s : State) (w : Who) : Bool :=
  !s.memoryWaits w && !s.crossing (· == w) && !s.held.any fun x => x.point == pointOf w.core x.scope

/-- An entry that cannot be read is dropped: counted at its strand, and a record at the leaf region of its instance (R338). -/
def State.dropDev (s : State) (e : DevEntry) : State :=
  let s := s.drop e.who 1
  let leaf := (e.inst.map fun k => (s.getInst k).leaf.toNat).getD 0
  (s.regionFault leaf 0x0065 e.va).launched e

/-- Reads an entry that has been sent, and puts it in the order of its queue, rejects it or drops it (R338). -/
def State.placeDev (s : State) (q : Nat) (e : DevEntry) (before after : List DevEntry) : State :=
  let s := (s.keepPath (s.queueLeaf q)).keepQueues q
  match s.distRead e.space e.va.toNat 64 with
  | (s, none) => (s.setDev q (before ++ after)).dropDev e
  | (s, some _) =>
    let reason := if !(s.queueDword q 0).getLsbD 1 || s.queueReason q != 0 then 6
      else if s.spaceOf (s.queueLeaf q) != e.space then 5 else 0
    if reason != 0 then ((s.setDev q (before ++ after)).writeStatus e.space e.va (statusWord 4 false reason 0 0)).launched e
    else s.setDev q (before ++ { e with placed := true } :: after)

/-- The master reads the entries sent to a device queue, in their order, and takes the first when none is in the way
(R334, R337, R338). -/
def devqBody (q : Nat) (s : State) : Out :=
  let xs := s.devEntries q
  let before := xs.takeWhile (·.placed)
  match xs.dropWhile (·.placed) with
  | e :: after => if s.wrote e.who then .next ((s.placeDev q e before after).due (.devqConsume q)) else .next (s.later (.devqConsume q))
  | [] =>
    match xs with
    | [] => .next s
    | e :: rest =>
      if s.dist.heldQueues.contains q then .next s
      else
        match s.distRead e.space e.va.toNat 64 with
        | (s, some bs) => .next ((s.takeEntry q e.va).handOver q e.va (handedOf e.space (s.queueLeaf q) bs))
        | (s, none) => .next (((s.setDev q rest).dropDev e).due (.devqConsume q))

/-- DEVQ_CONSUME (R337, R338). -/
def execDevqConsume (q : Nat) (s : State) : Out := master (.devqConsume q) (devqBody q) s

end Sys2Proof.Machine
end

