-- ==== Sys2Proof/Machine/Dist.lean ====
section
/-!
DEFINITION. The distributor: dispatch, pre-emption, saving, resuming and retiring instances (R39, R120 to R125, R303 to
R311, R335).
-/

namespace Sys2Proof.Machine

/-! ### A core between instances -/

/-- A ring at the start of an instance (R142). -/
def ringStart (d : Dword) : Ring := { desc := d, acq := 0, rel := 0, free := d.extractLsb' 36 12 }

/-- A strand that has not been spawned (R20, R37). -/
def Strand.idleIn (space : BitVec 16) : Strand := { Strand.reset with spr := { Spr.reset with space := space } }

/-- A core at the start of an instance (R20, R128, R142). The strand of a copy node's device program issues nothing of its
own. -/
def Core.begin (x : Core) (k : Nat) (i : Inst) (now : Dword) : Core :=
  let z := Strand.start i.entryPc i.arg i now
  { Core.reset with
    s := if i.copy.isSome then { z with held := .live, cond := .stopped } else z
    v := Strand.idleIn i.space
    m := Strand.idleIn i.space
    inst := some k
    spad := if x.lastSpace == some i.space then x.spad else []
    lastSpace := some i.space
    rings := i.rings.map ringStart
    netFails := x.netFails }

/-- A core with no instance: its scratchpad stays for the next of the same SPACE (R128). -/
def Core.free (x : Core) : Core := { Core.reset with spad := x.spad, lastSpace := x.lastSpace, netFails := x.netFails }

/-- Frees the cores of an instance. -/
def State.freeCores (s : State) (i : Inst) : State := i.cores.foldl (fun (s : State) c => s.setCore c (s.core c).free) s

/-- The cores of a place. -/
def Place.cores (p : Place) (wide : Bool) : List CoreId :=
  if wide then (List.range 4).map (coreOf (clusterOf p.core)) else [p.core]

/-- Strands of an instance that issue join those that take turns. -/
def State.enrol (s : State) (i : Inst) : State := { s with roster := s.roster ++ i.strands.filter fun w => (s.strand w).issues }

/-! ### The device program of a copy node (R335) -/

/-- Pushes a copy command of a device program. -/
def State.pushCopy (s : State) (c : CoreId) (q : QueueId) (kind : Nat) (space : BitVec 16) (gva : Dword) (n : Nat) : State :=
  let x := s.core c
  let qu := x.queue q
  let j : Job := { id := qu.next, sid := .s, space := space, d0 := dw kind, d1 := gva, d2 := dw (n * 2 ^ 32), d3 := 0, state := .queued
                   layout := none, units := 0, pchunk := 0, resumeAt := 0, made := 0, short := none, inbuf := [], fence := [], params := [], leases := []
                   fails := [], ending := none }
  let claims : List Range := (commandRanges j).map fun r => { base := r.1, len := r.2.1, write := r.2.2, queue := q, job := j.id }
  (s.setCore c { x.setQueue q { next := qu.next + 1, jobs := qu.jobs ++ [j] } with board := x.board ++ claims }).due (.jobPop c q)

/-- The next step of a copy node's device program: COPYIN and COPYOUT of at most 0x10_0000 bytes in turn, and its end; a job
that halts terminates the instance (R335). -/
def State.copyGo (s : State) (k : Nat) : State :=
  let i := s.getInst k
  match i.copy, i.cores with
  | some r, [c] =>
    let x := s.core c
    if x.s.life != .running || (i.status != .running && i.status != .suspended) then s
    else if (x.queue 0).haltedJob.isSome || (x.queue 2).haltedJob.isSome then s.terminate k
    else if i.status != .running || i.stopping || !(x.queue 0).jobs.isEmpty || !(x.queue 2).jobs.isEmpty then s
    else if r.held != 0 then
      (s.setInst k { i with copy := some { r with done := r.done + r.held, held := 0 } }).pushCopy c 2 2 i.space (r.dst + dw r.done) r.held
    else if r.len ≤ r.done then (s.setCore c { x with s := { x.s with life := .halted, held := .no } }).due (.instanceRetire k)
    else
      let n := min (r.len - r.done) 0x100000
      (s.setInst k { i with copy := some { r with held := n } }).pushCopy c 0 1 i.space (r.src + dw r.done) n
  | _, _ => s

/-! ### Dispatch (R306 to R311) -/

/-- Cluster with the most idle cores, if any core is idle (R307). -/
def State.reservable (s : State) : Option ClusterId :=
  (List.finRange 128).foldl (fun (m : Option ClusterId) k =>
    let n := (s.idleIn k).length
    match m with
    | some b => if (s.idleIn b).length < n then some k else m
    | none => if n = 0 then none else some k) none

/-- The reservation as the highest candidate leaves it (R307). -/
def State.reservation (s : State) (cands : List (Nat × Inst)) : Option (ClusterId × Nat) :=
  let kept := s.dist.reserved.filter fun r => cands.any fun x => x.1 == r.2
  match cands with
  | [] => none
  | x :: _ =>
    if x.2.cluster && (s.places true none).isEmpty && !(kept.any fun r => r.2 == x.1) then
      match s.reservable with
      | some k => some (k, x.1)
      | none => kept
    else kept

/-- The first candidate that has a place; a reserved cluster is passed over by those behind the instance it is kept for
(R307, R308). -/
def State.firstPlace (s : State) (res : Option (ClusterId × Nat)) : List (Nat × Inst) → Option ClusterId → Option (Nat × Inst × Place)
  | [], _ => none
  | x :: r, but =>
    match choose x.2.tileops (s.places x.2.cluster but) with
    | some p => some (x.1, x.2, p)
    | none =>
      let but' := match res with
        | some (k, j) => if j = x.1 then some k else but
        | none => but
      State.firstPlace s res r but'

/-- Sets up an instance on its cores, from its start or for its restoration. -/
def State.occupy (s : State) (k : Nat) (i : Inst) : State :=
  let s := s.setInst k { i with order := s.dist.order, epri := BitVec.ofNat 4 (s.effective i) }
  let d := s.dist
  let s : State :=
    { s with dist := { d with order := d.order + 1, reserved := d.reserved.filter fun r => r.2 != k,
                              preempting := d.preempting.filter fun j => j != k } }
  s.noteUse i.leaf.toNat

/-- An instance starts on its cores (R20, R128, R244). -/
def State.beginInst (s : State) (k : Nat) (i : Inst) : State :=
  let s := i.cores.foldl (fun (s : State) c => s.setCore c ((s.core c).begin k i s.now)) s
  let s := match i.cluster, i.cores with
    | true, c :: _ => s.setCluster (clusterOf c) { s.cluster (clusterOf c) with bars := Vector.replicate 16 Barrier.reset, ops := [] }
    | _, _ => s
  ((s.setInst k { s.getInst k with status := .running, preq := false, stop := false }).enrol i).copyGo k

/-- Dispatches an instance to a place: one that was saved is restored there, a new one starts once every page of its slots
has been found usable; otherwise its region is stopped (R123, R309, R311). -/
def State.dispatch (s : State) (k : Nat) (i : Inst) (p : Place) : State :=
  let cores := p.cores i.cluster
  if i.status == .saved then
    let s := s.occupy k { i with cores := cores }
    (cores.foldl (fun (s : State) c => s.setCore c { s.core c with inst := some k }) s).due (.instanceResume k)
  else
    let leaf := i.leaf.toNat
    match s.freeSlot i with
    | none => s
    | some slot =>
      match s.badSavePage slot.space slot.va (33 * i.slots) with
      | (s, some page) =>
        let (s, _) := s.postTo leaf (regionRecord 0x0063 (dw page)) i
        s.stopRegion leaf true
      | (s, none) =>
        let i := { i with cores := cores, slot := some slot }
        let s := s.occupy k i
        s.beginInst k (s.getInst k)

/-- When an effective priority of the pool next rises (R306). -/
def State.nextAging (s : State) : Option Nat :=
  (s.insts.filter fun x => x.2.inPool && decide (s.effective x.2 < 15)).foldl (fun (m : Option Nat) x =>
    let t := s.time.toNat + 100000 - s.age x.2 % 100000
    match m with
    | some u => some (min t u)
    | none => some t) none

/-- Looks at the pool again when a priority has risen. -/
def State.ageTimer (s : State) : State :=
  if s.timers.any fun t => t.2 == Event.instanceDispatch then s
  else
    match s.nextAging with
    | some t => s.timer t .instanceDispatch
    | none => s

/-- A thief may look for work. -/
def State.maySteal (s : State) : State := if s.plat.stealctl.getLsbD 0 then s.due .stealRequest else s

/-- The decision of a dispatch, in a state whose reservation stands. -/
def dispatchBody (s : State) : Out :=
  match s.firstPlace s.dist.reserved s.candidates none with
  | some (k, i, p) => .next ((s.dispatch k i p).due .instanceDispatch)
  | none => .next s

/-- The highest candidate, where it has neither an idle core nor a cluster it could reserve (R310). -/
def State.waiter (s : State) : Option (Nat × Inst) :=
  match s.candidates with
  | [] => none
  | x :: _ => if s.reservable.isNone then some x else none

/-- INSTANCE_DISPATCH (R303, R305 to R311). -/
def execInstanceDispatch : State → Out :=
  master .instanceDispatch fun s =>
    let s := (s.insts.filter fun x => x.2.inPool).foldl (fun (s : State) x => s.keepPath x.2.leaf.toNat) s
    let cands := s.candidates
    let res := s.reservation cands
    let s : State := { s with dist := { s.dist with reserved := res } }
    match s.firstPlace res cands none with
    | some _ => withReplicas .instanceDispatch dispatchBody s
    | none =>
      let s : State := { s with dist := { s.dist with granted := s.dist.granted.filter (· != .instanceDispatch) } }
      let s := s.ageTimer.maySteal
      .next (if s.waiter.isSome then s.due .preemptRequest else s)

/-! ### Pre-emption (R120, R310) -/

/-- Running instances below a priority, that with the lowest first and of equal ones the one dispatched latest (R310). -/
def State.victims (s : State) (e : Nat) : List (Nat × Inst) :=
  sortBy (fun a b => decide (a.2.epri.toNat < b.2.epri.toNat) || (a.2.epri == b.2.epri && decide (b.2.order < a.2.order)))
    (s.insts.filter fun x => x.2.status == .running && decide (x.2.epri.toNat < e))

/-- Instances on a cluster. -/
def State.instsOn (s : State) (k : ClusterId) : List (Nat × Inst) := s.insts.filter fun x => x.2.cores.any fun c => clusterOf c == k

/-- The cluster whose highest running priority is lowest, where it lies below a priority (R310). -/
def State.victimCluster (s : State) (e : Nat) : Option ClusterId :=
  let high (k : ClusterId) : Nat := (s.instsOn k).foldl (fun m x => max m x.2.epri.toNat) 0
  let ok := (List.finRange 128).filter fun k => !(s.cluster k).removed && !(s.die ⟨k.val / 32, by omega⟩).fenced && decide (high k < e)
  ok.foldl (fun (m : Option ClusterId) k =>
    match m with
    | some b => if high k < high b then some k else m
    | none => some k) none

/-- Sets PREQ for an instance (R120, R263). -/
def State.preempt (s : State) (k : Nat) : State :=
  let i := s.getInst k
  if i.status == .running then (s.setInst k { i with preq := true }).settle k else s

/-- PREEMPT_REQUEST: selects the instances that make room for the highest waiter (R310). -/
def execPreemptRequest : State → Out :=
  master .preemptRequest fun s =>
    match s.waiter with
    | none => .next s
    | some (k, i) =>
      if s.dist.preempting == some k && s.insts.any fun x => x.2.preq then .next s
      else
        let e := s.effective i
        let ks := if i.cluster then ((s.victimCluster e).map fun c => (s.instsOn c).map (·.1)).getD []
          else ((s.victims e).take 1).map (·.1)
        if ks.isEmpty then .next s
        else .next (ks.foldl State.preempt { s with dist := { s.dist with preempting := some k } })

/-! ### Saving (R29, R121 to R124, R263, R295) -/

/-- A core's part of an instance may be saved: strands, jobs and everything in flight are at rest (R29, R121, R263,
R397). -/
def State.coreSaves (s : State) (c : CoreId) : Bool :=
  let x := s.core c
  let ws : List Who := [⟨c, .s⟩, ⟨c, .v⟩, ⟨c, .m⟩]
  x.queues.toList.all (fun q => q.jobs.all fun j => j.ending.isNone && (j.state == .queued || j.state == .halted)) &&
    !(x.frame.job.any fun j => j.run.isSome || j.ending.isSome || j.units != 0) && !x.frame.draining &&
    !ws.any s.inFlight && x.tileChanges.isEmpty && x.signals.isEmpty && !(s.cluster (clusterOf c)).ops.any fun o => o.who.core == c

/-- An instance that must leave its cores may be saved now. -/
def State.maySave (s : State) (i : Inst) : Bool := s.allStopped i && i.cores.all s.coreSaves

/-- It is to be saved: pre-empted, or suspended for too long (R115, R120). -/
def Inst.leaving (i : Inst) : Bool := (i.status == .running && i.preq) || i.status == .suspended

/-- Writes the parts of an instance, one slot each, and then a cluster's image; answers the page that failed. -/
def State.putParts (s : State) (space : BitVec 16) (base : Nat) : List CoreId → State × Option Nat
  | [] => (s, none)
  | c :: r =>
    match s.putImage space base (partImage (s.core c) s.now) partPages with
    | (s, none) => State.putParts s space (base + Config.slotBytes) r
    | (s, some page) => (s, some page)

/-- An instance ends because its save area failed: one fatal record, and its slots are free (R123). -/
def State.saveLost (s : State) (k : Nat) (page : Nat) : State :=
  let i := s.getInst k
  let s := match i.cores with
    | c :: _ => s.fatalOn c none 0x0026 0 (dw page) 0
    | [] => s
  s.setInst k { s.getInst k with slot := none }

/-- The instance is saved and its cores are free (R122, R263). -/
def saveBody (k : Nat) (s : State) : Out :=
  let i := s.getInst k
  if !i.leaving || !s.maySave i then .next (if i.leaving then s.later (.instanceSave k) else s)
  else
    let area := i.slot.getD default
    let (s, bad) := s.putParts area.space area.va i.cores
    let (s, bad) := match bad, i.cluster, i.cores with
      | none, true, c :: _ => s.putImage area.space (area.va + 0x840000) (clusterImage (s.cluster (clusterOf c))) clusterPages
      | _, _, _ => (s, bad)
    match bad with
    | some page => .next (s.saveLost k page)
    | none =>
      let kept := i.cores.map fun c => keptOf (s.core c)
      let s := (s.freeCores i).setInst k { i with cores := [], status := .saved, preq := false, kept := kept, acts := [] }
      .next ((s.noteUse i.leaf.toNat).due .instanceDispatch)

/-- INSTANCE_SAVE: once its strands have stopped and its started jobs have finished (R121, R122). -/
def execInstanceSave (k : Nat) (s : State) : Out :=
  let i := s.getInst k
  if !i.leaving then .next { s with dist := { s.dist with granted := s.dist.granted.filter (· != .instanceSave k) } }
  else if !s.maySave i then .next (s.later (.instanceSave k))
  else master (.instanceSave k) (withReplicas (.instanceSave k) (saveBody k)) s

/-- SUSPEND_TIMEOUT: a suspended instance leaves its cores after 100 µs (R115). -/
def execSuspendTimeout (k : Nat) (s : State) : Out :=
  .next (if (s.getInst k).status == .suspended then s.due (.instanceSave k) else s)

/-! ### Resuming (R125, R263, R311) -/

/-- Restores the parts of an instance on its cores; answers the page that failed. -/
def State.getParts (s : State) (space : BitVec 16) (base : Nat) : List (CoreId × Kept) → State × Option Nat
  | [] => (s, none)
  | (c, k) :: r =>
    match s.getImage space base 0 partPages with
    | (s, .ok m) => State.getParts (s.setCore c (partOf m k (s.core c) s.now)) space (base + Config.slotBytes) r
    | (s, .error page) => (s, some page)

/-- Applies a handler's action to a restored strand (R117). -/
def State.applyAction (i : Inst) (s : State) (a : Action) : State :=
  match i.cores[a.part]? with
  | none => s
  | some c =>
    let w : Who := ⟨c, a.sid⟩
    let s := s.setTcause w a.cause
    match a.redirect with
    | some (t, rec_) => s.setStrand w ((s.strand w).redirect t rec_)
    | none => s

/-- A restored instance goes on (R117, R125). -/
def State.goOn (s : State) (k : Nat) : State :=
  let i := s.getInst k
  let s := i.cores.foldl (fun (s : State) c =>
    let x := s.core c
    s.setCore c { x with lastSpace := some i.space, s := if i.copy.isSome && x.s.life == .running then { x.s with held := .live, cond := .stopped } else x.s }) s
  let s := i.acts.foldl (State.applyAction i) s
  let s := s.setInst k { i with status := .running, preq := false, stop := false, acts := [], kept := [] }
  ((i.cores.foldl State.kick s).enrol i).copyGo k

/-- INSTANCE_RESUME: restores the images on the cores that the dispatch chose; where a page fails the cores are released
and the instance ends (R123, R125). -/
def execInstanceResume (k : Nat) : State → Out :=
  master (.instanceResume k) fun s =>
    let i := s.getInst k
    if i.status != .saved || i.cores.isEmpty then .next s
    else
      let area := i.slot.getD default
      let (s, bad) := s.getParts area.space area.va (i.cores.zip i.kept)
      let (s, bad) := match bad, i.cluster, i.cores with
        | none, true, c :: _ =>
          match s.getImage area.space (area.va + 0x840000) 0 clusterPages with
          | (s, .ok m) => (s.setCluster (clusterOf c) { s.cluster (clusterOf c) with bars := barriersOf m, ops := [] }, none)
          | (s, .error page) => (s, some page)
        | _, _, _ => (s, bad)
      match bad with
      | none => .next (s.goOn k)
      | some page =>
        let s := i.cores.foldl (fun (s : State) c => s.setCore c { Core.reset with inst := some k, netFails := (s.core c).netFails }) s
        .next (s.saveLost k page)

/-! ### Retiring (R39, R244, R309, R335) -/

/-- Every strand of an instance is idle or halted and every job of it has retired (R39, R244, R338). -/
def State.instDone (s : State) (k : Nat) : Bool :=
  let i := s.getInst k
  i.strands.all (fun w => (s.strand w).life != .running) &&
    i.cores.all (fun c =>
      let x := s.core c
      x.queues.toList.all (fun q => q.jobs.isEmpty) && x.frame.job.isNone && !x.frame.draining) &&
    !s.dist.devq.any fun q => q.2.any fun e => e.inst == some k

/-- Every write of an instance has been performed, and nothing of it is in flight (R39). -/
def State.instQuiet (s : State) (k : Nat) : Bool :=
  let i := s.getInst k
  !i.strands.any s.inFlight && i.cores.all fun c =>
    !s.held.any (fun x => x.point == pointOf c x.scope) && !(s.cluster (clusterOf c)).ops.any (fun o => o.who.core == c) &&
      (s.core c).tileChanges.isEmpty && (s.core c).signals.isEmpty

/-- An instance leaves the table; its node accounts for it (R335, R341). -/
def State.account (s : State) (k : Nat) (i : Inst) : State :=
  let bad := i.status == .terminated
  match i.origin with
  | .none => { s with insts := Table.del s.insts k }
  | .node r n => ({ s with insts := Table.del s.insts k } : State).nodeRetired r n bad
  | .stolen .. => s.due (.stealRetireReport k)

/-- An instance retires: its cores and slots are free (R39, R309). -/
def retireBody (k : Nat) (s : State) : Out :=
  let i := s.getInst k
  if i.status == .retired then .next s
  else
    let s := s.freeCores i
    let i' : Inst := { i with cores := [], slot := none, preq := false, stop := false, status := if i.status == .terminated then .terminated else .retired }
    let s := s.setInst k i'
    .next ((((s.noteUse i.leaf.toNat).account k i').due .instanceDispatch).maySteal)

/-- No sublink of a port carries packets. -/
def State.portDown (s : State) (p : Port) : Bool := (List.finRange 4).all fun d => !(s.link p d).up

/-- A fatal record of an instance that is on no core; its slot stays busy until its action (R116, R123, R314, R327). -/
def State.lostRecord (s : State) (k : Nat) (cause : BitVec 16) (cid : Dword) : State :=
  let r : Rec := { regionRecord cause 0 with cid := cid }
  match s.post r (s.getInst k) with
  | (s, some va, n) =>
    ((s.setInst k { s.getInst k with frec := va }).applyStop n).await
      { inst := some k, region := n, addr := va, who := none, cause := cause, page := none }
  | (s, none, _) => s

/-- An instance as it was before its dispatch: its copying, too, begins again (R314). -/
def Inst.anew (i : Inst) : Inst :=
  { i with cores := [], slot := Option.none, preq := false, stop := false, kept := [], acts := [], frec := 0, epri := 0, order := 0
           copy := i.copy.map fun r => { r with done := 0, held := 0 } }

/-- An instance is lost: an idempotent one returns to the pool, another counts as terminated (R314). -/
def State.lose (s : State) (k : Nat) (cid : Dword) : State :=
  let i := (s.getInst k).anew
  let timers := s.timers.filter fun t => t.2 != Event.suspendTimeout k
  let s : State := { s with timers := timers, dist := { s.dist with awaiting := s.dist.awaiting.filter fun a => a.inst != some k } }
  if i.idem then (s.setInst k { i with status := .lost }).due (.instanceReturn k)
  else (s.setInst k { i with status := .terminated }).lostRecord k 0x0062 cid |>.due (.instanceRetire k)

/-- A lost instance enters the pool again (R303, R314). -/
def returnBody (k : Nat) (s : State) : Out :=
  let i := s.getInst k
  .next (if i.status == .lost then (s.setInst k { i with status := .ready }).due .instanceDispatch else s)

/-- INSTANCE_RETURN: the change of the pool that a lost instance makes; it waits for an election (R303, R313, R314). -/
def execInstanceReturn (k : Nat) : State → Out :=
  master (.instanceReturn k) (withReplicas (.instanceReturn k) (returnBody k))

/-- A granted instance whose thief can no longer report is lost (R341). -/
def State.givenLost (s : State) (k : Nat) : Bool := s.dist.given.any fun x => x.1 == k && s.portDown x.2

/-- INSTANCE_RETIRE (R39, R244): put off until its writes have been performed. -/
def execInstanceRetire (k : Nat) (s : State) : Out :=
  let s := s.copyGo k
  let i := s.getInst k
  let ev : Event := .instanceRetire k
  match i.status with
  | .given =>
    if s.givenLost k then .next (({ s with dist := { s.dist with given := s.dist.given.filter fun x => x.1 != k } } : State).lose k 0)
    else .next s
  | .ready | .saved | .lost | .retired => .next s
  | .running | .suspended | .terminated =>
    if !s.instDone k then .next s
    else if !s.instQuiet k then .next (s.later ev)
    else unlessStalled ev (withReplicas ev (retireBody k)) s

end Sys2Proof.Machine
end

