-- ==== Sys2Proof/Machine/VecMem.lean ====
section
/-!
DEFINITION. Vector accesses to the scratchpad, tile rows and global memory (R203 to R206).
-/

namespace Sys2Proof.Machine

/-- The row offset of VLDS and VSTS (R203). -/
def rowOffset (z : Strand) (a i : BitVec 5) : Nat := (fld (z.rg (g5 a)) 31 0 + 256 * i.toNat) % 2 ^ 32

/-- A 256-byte row lies in the scratchpad (R203). -/
def rowOk (x : Nat) : Bool := x % 4 == 0 && decide (x + 255 < Config.spadBytes)

/-- VLDS (R203). -/
def execVlds (d : VReg) (a i : BitVec 5) (k : MReg) : State → Out :=
  vIssue [g5 a] [] [d] fun s =>
    let x := rowOffset s.me a i
    if !rowOk x then spadError
    else if s.here.boarded false x 256 then .wait .rangeBoard s
    else .next (s.setMe (s.me.lanes k d fun l => (BitVec.ofNat 32 (s.here.spadNat (x + 4 * l.val) 4), 0)))

/-- Stores the active lanes of a register at addresses by lane, rising, so that the highest lane stands (R203, R206). -/
def storeLanes (z : Strand) (k : MReg) (d : VReg) (addr : Fin 64 → Nat) (m : Mem) : Mem :=
  (List.finRange 64).foldl (fun m l => if z.active k l.val then m.putNat (addr l) 4 ((z.rv d)[l]).toNat else m) m

/-- VSTS (R203, R221). -/
def execVsts (d : VReg) (a i : BitVec 5) (k : MReg) : State → Out :=
  vIssue [g5 a] [] [d] fun s =>
    let x := rowOffset s.me a i
    if !rowOk x then spadError
    else if s.here.boarded true x 256 then .wait .rangeBoard s
    else if s.me.flushing then .wait .interlock s
    else .next (s.setHere { s.here with spad := storeLanes s.me k d (fun l => x + 4 * l.val) s.here.spad })

/-- VLDT reads a row of a full tile (R204). -/
def execVldt (d : VReg) (t : TReg) (b : BitVec 5) (k : MReg) : State → Out :=
  vIssue [g5 b] [] [d] fun s =>
    let row := (s.me.rg (g5 b)).toNat
    if !s.here.tfull t then .wait .fullEmpty s
    else if 64 ≤ row then .trap 0x0002 0 0
    else .next (s.setMe (s.me.lanes k d fun l => (BitVec.ofNat 32 (s.here.tiles.nat (tileRow t row + 4 * l.val) 4), 0)))

/-- VSTT writes a row of an empty tile (R204, R221). -/
def execVstt (d : VReg) (t : TReg) (b : BitVec 5) (k : MReg) : State → Out :=
  vIssue [g5 b] [] [d] fun s =>
    let row := (s.me.rg (g5 b)).toNat
    if s.here.tfull t then .wait .fullEmpty s
    else if 64 ≤ row then .trap 0x0002 0 0
    else if s.me.flushing then .wait .interlock s
    else .next (s.setHere { s.here with tiles := storeLanes s.me k d (fun l => tileRow t row + 4 * l.val) s.here.tiles })

/-- The active lanes, rising. -/
def activeLanes (z : Strand) (k : MReg) : List (Fin 64) := (List.finRange 64).filter fun l => z.active k l.val

/-- The checks of a vector access, lane by lane (R205). -/
def checkLanes (hr : HReg) (o : Nat) (wr : Bool) : List (Fin 64) → State → HCheck
  | [], s => .go s (s.me.rh hr)
  | l :: r, s =>
    match checkHandle s hr (o + 4 * l.val) 4 wr with
    | .stop b => .stop b
    | .go s _ => checkLanes hr o wr r s

/-- VLDG and VSTG: one access for each active lane; with none, only the alignment of the offset counts (R205). -/
def vGlobal (d : VReg) (hr : HReg) (b : BitVec 5) (k : MReg) (wr : Bool) : State → Out :=
  vIssue [g5 b] [] [d] fun s =>
    let o := (s.me.rg (g5 b)).toNat
    let ls := activeLanes s.me k
    if o % 4 != 0 then .trap 0x0002 0 0
    else if ls.isEmpty then .next s
    else
      match checkLanes hr o wr ls s with
      | .stop b => b
      | .go s h =>
        let op (l : Fin 64) : AccessOp := if wr then .store ((s.me.rv d)[l].setWidth 64) else .laneLoad d l
        let s := s.dueAll (ls.map fun l => .homeAccess (mkAccess s hr h (o + 4 * l.val) 4 wr (op l)))
        .next (if wr then s else s.due (.vldgLanesArrive s.turn d (maskOf fun i => s.me.active k i)))

def execVldg (d : VReg) (hr : HReg) (b : BitVec 5) (k : MReg) : State → Out := vGlobal d hr b k false
def execVstg (d : VReg) (hr : HReg) (b : BitVec 5) (k : MReg) : State → Out := vGlobal d hr b k true

/-- VLDG_LANES_ARRIVE: every lane of a vector load has arrived, and the register takes them (R205). Of an instance that a
fatal error has ended, no lane is waited for that was lost (R112). -/
def execVldgLanesArrive (w : Who) (d : VReg) (mask : Dword) (s : State) : Out :=
  let z := s.strand w
  if (s.instOn w.core).status != .terminated && (List.range 64).any fun i => mask.getLsbD i && (Table.find z.vload (laneKey d i)).isNone then
    .next (s.timer (s.time.toNat + 1) (.vldgLanesArrive w d mask))
  else
    let v := Vector.ofFn fun i : Fin 64 => if mask.getLsbD i.val then Table.get 0 z.vload (laneKey d i.val) else (z.rv d)[i]
    .next (s.setStrand w { z.wv d v with vload := z.vload.filter fun x => x.1 / 64 != d.toNat })

/-- The word address of a lane of a gather or scatter (R206). -/
def gatherAddr (z : Strand) (a : BitVec 5) (b : VReg) (l : Fin 64) : Nat :=
  (fld (z.rg (g5 a)) 31 0 + 4 * ((z.rv b)[l]).toNat) % 2 ^ 32

/-- The checks of a gather or scatter (R206, R141). -/
def gatherCheck (s : State) (a : BitVec 5) (b : VReg) (k : MReg) (store : Bool) : Option Body :=
  let z := s.me
  let ls := activeLanes z k
  if (z.rg (g5 a)).toNat % 4 != 0 || ls.any fun l => decide (Config.spadBytes ≤ gatherAddr z a b l + 3) then some spadError
  else if ls.any fun l => s.here.boarded store (gatherAddr z a b l) 4 then some (.wait .rangeBoard s)
  else none

def execVgaths (d : VReg) (a : BitVec 5) (b : VReg) (k : MReg) : State → Out :=
  vIssue [g5 a] [] [d, b] fun s =>
    match gatherCheck s a b k false with
    | some r => r
    | none => .next (s.setMe (s.me.lanes k d fun l => (BitVec.ofNat 32 (s.here.spadNat (gatherAddr s.me a b l) 4), 0)))

def execVscats (d : VReg) (a : BitVec 5) (b : VReg) (k : MReg) : State → Out :=
  vIssue [g5 a] [] [d, b] fun s =>
    match gatherCheck s a b k true with
    | some r => r
    | none => if s.me.flushing then .wait .interlock s else .next (s.setHere { s.here with spad := storeLanes s.me k d (gatherAddr s.me a b) s.here.spad })

end Sys2Proof.Machine
end

