-- ==== Sys2Proof/Machine/Fetch.lean ====
section
/-!
DEFINITION. Fetching: block headers, the loop buffer and its code translation, units of a body (R30 to R36, R41, R45, R294).
-/

namespace Sys2Proof.Machine

/-- Base of the 64-byte line of a code address (R35). -/
def lineBase (a : Dword) : Dword := dw (a.toNat / 64 * 64)

/-- A halfword of the loop buffer (R35). -/
def Strand.half (z : Strand) (a : Dword) : Option Half :=
  match z.lines.find? (fun l => l.addr == lineBase a) with
  | some l => l.halves[(a.toNat % 64) / 2]?
  | none => none

/-- `n` halfwords of the loop buffer, or the address of the first that is not there. -/
def Strand.halvesFrom (z : Strand) (a : Dword) : Nat → Except Dword (List Half)
  | 0 => .ok []
  | n + 1 =>
    match z.half a with
    | none => .error a
    | some h =>
      match Strand.halvesFrom z (a + 2) n with
      | .ok r => .ok (h :: r)
      | .error b => .error b

/-- A line just used goes to the front of the loop buffer (R35). -/
def Strand.touch (z : Strand) (a : Dword) : Strand :=
  match z.lines.find? (fun l => l.addr == lineBase a) with
  | some l => { z with lines := l :: z.lines.filter (fun x => x.addr != lineBase a) }
  | none => z

/-- Puts a line into the loop buffer of eight, least recently used out first (R35). -/
def Strand.keepLine (z : Strand) (l : CodeLine) : Strand :=
  { z with lines := (l :: z.lines.filter (fun x => x.addr != l.addr)).take 8 }

/-- The strand's halfword has not been fetched: its line is asked for, and its unit has not issued (R24, R35). -/
def State.fetchMiss (s : State) (a : Dword) : State :=
  (s.setMe { s.me.rewind with cond := .fetch }).due (.codeFetch s.turn (lineBase a))

/-- The halfwords of a line read at their homes, and the line in the strand's loop buffer. -/
def State.fillLine (s : State) (w : Who) (va : Dword) (pa : Nat) : Out :=
  let halves := (List.range 32).map fun i => BitVec.ofNat 16 (s.physNat (pa + 2 * i) 2)
  if s.assigned pa then
    let s := s.errors w false ((List.range 64).map fun i => (s.homeOf (pa + i), va.toNat + i))
    let as := (List.range 8).map fun i => s.homeOf (pa + 8 * i)
    let s := (as.foldl (fun (s : State) a => s.learn (dieOf w.core) a) s).takeAll (corePort w.core) as
    .next (s.setStrand w ((s.strand w).keepLine { addr := va, halves := halves }))
  else .fault .unassignedAddress

/-- A line is read through a translation: it waits for what is before it on its way, at a home in a clock-skew fault and at one that
has taken an access of it in this cycle; a home that it reaches too late returns it, and the fetch walks again (R267, R268, R289, R292). -/
def State.fetchLine (s : State) (w : Who) (va : Dword) (l : Lease) : Out :=
  let pa := l.at va.toNat
  let again (s : State) : Out := .next (s.timer (s.time.toNat + 1) (.codeFetch w va))
  if (List.range 8).any fun i => s.behind w.core (pa + 8 * i) || s.homeHolds (pa + 8 * i) || s.taken (s.homeOf (pa + 8 * i)) then again s
  else if !mgmtAddr pa && decide (l.expiry.toNat ≤ (s.dieTime (homeDie (s.homeOf pa))).toNat) then
    if s.walkStalls (dieOf w.core) (s.strand w).spr.space va.toNat then again s
    else
    match s.walk (dieOf w.core) (s.strand w).spr.space va.toNat with
    | (s, { found := some (l, _), .. }) =>
      if l.kind == 3 then .next (s.fatal w 0x0022 va 0) else again (s.setStrand w { s.strand w with lease := some l })
    | (s, _) => .next (s.fatal w 0x0022 va 0)
  else s.fillLine w va pa

/-- CODE_FETCH: a line of the strand's code returns from memory, through the strand's own translation, renewed when
less than one eighth of its lease is left. A page that is not present, or that lies in a remote window, is fatal
(R35, R294, R296). Walkers that stall put it off (R292). A fetch is one of the strand's accesses: after a privileged `MTS` to
SPACE it is made in the new SPACE (log entry 50). -/
def execCodeFetch (w : Who) (va : Dword) (s : State) : Out :=
  let d := dieOf w.core
  let z := s.strand w
  if z.life != .running then .next s
  else if Config.codeLimit ≤ va.toNat then .next (s.fatal w 0x0020 va 0)
  else
    match z.lease.filter (fun l => l.serves va.toNat (s.dieTime d).toNat) with
    | some l => s.fetchLine w va l
    | none =>
      if s.walkStalls d z.spr.space va.toNat then .next (s.timer (s.time.toNat + 1) (.codeFetch w va))
      else
        match s.walk d z.spr.space va.toNat with
        | (s, { found := some (l, _), .. }) =>
          if l.kind == 3 then .next (s.fatal w 0x0020 va 0)
          else (s.setStrand w { s.strand w with lease := some l }).fetchLine w va l
        | (s, _) => .next (s.fatal w 0x0020 va 0)

/-- A strand enters a block at its header (R30, R31). -/
def Strand.enter (z : Strand) (hdr : Half) : Strand :=
  let len := if hdr.toNat / 256 = 0 then 256 else hdr.toNat / 256
  let n := if hdr.toNat % 256 = 255 then z.spr.rc.toNat else hdr.toNat % 256 + 1
  let body := z.pc + 2
  if n = 0 then
    { z with pc := body + dw (2 * len), cond := .issuing, block := { inBody := false, start := body, len := len, remain := 0 } }
  else { z with pc := body, cond := .issuing, block := { inBody := true, start := body, len := len, remain := n } }

/-- What a strand's turn finds at its PC. -/
inductive Fetched where
  /-- the turn is over: a header, a line not yet fetched, or an illegal instruction -/
  | stay (s : State)
  /-- an instruction to execute -/
  | run (i : Instr) (s : State)

/-- The unit of the body at the strand's PC. An instruction that does not end within its body is illegal, and no
halfword beyond the body is read as part of it; a guard may not end a body (R33, R41, R45, R52). -/
def fetchInstr (s : State) : Fetched :=
  let z := s.me
  match z.half z.pc with
  | none => .stay (s.fetchMiss z.pc)
  | some h0 =>
    let left := (z.block.start.toNat + 2 * z.block.len - z.pc.toNat) / 2
    let n := unitLen [h0]
    if left < n || (h0.toNat / 4096 == 1 && left < 2) then .stay (s.trap 0x0001 0 0)
    else
      match z.halvesFrom z.pc n with
      | .error a => .stay (s.fetchMiss a)
      | .ok hs =>
        if left < unitLen hs then .stay (s.trap 0x0001 0 0)
        else
          match z.halvesFrom z.pc (unitLen hs) with
          | .error a => .stay (s.fetchMiss a)
          | .ok hs =>
            match decode hs with
            | .ok (i, _) => .run i (s.setMe ((z.touch z.pc).touch (z.pc + dw (2 * (unitLen hs - 1)))))
            | .error _ => .stay (s.trap 0x0001 0 0)

/-- A put-off step writes the scratchpad for a strand that stands at its instruction until then (R370, R371). -/
def Event.writesBack (w : Who) : Event → Bool
  | .contentNamedOperation x => x.who == w && (x.kind == .load || x.kind == .hash)
  | _ => false

/-- The strand whose turn it is: a header, or an instruction of its block (R31); nothing while a `CNLD` or a `CNHASH` of
its own is under way (R370, R371). -/
def fetch (s : State) : Fetched :=
  let z := s.me
  if s.timers.any fun e => Event.writesBack s.turn e.2 then .stay (s.setMe { z with cond := .interlock })
  else if z.block.inBody then fetchInstr s
  else
    match z.half z.pc with
    | none => .stay (s.fetchMiss z.pc)
    | some hdr => .stay (s.setMe ((z.touch z.pc).enter hdr))

/-! ### The clock -/

/-- The strands that issue next, in their order: those that run and are not held, the one whose turn it was last. -/
def State.waiting (s : State) : List Who := ((s.roster ++ [s.turn]).eraseDups).filter fun w => (s.strand w).issues

/-- The turn passes to the next strand that issues; with none, it stays where it is. -/
def State.rotate (s : State) : State :=
  match s.waiting with
  | [] => { s with roster := [] }
  | w :: r => { s with turn := w, roster := r }

/-- What the turn of a cycle has left to the core and cluster units, which belongs to that cycle: signals, barrier operations and
the strands' tile bits, which come before the engines' (R28, R140, R254). -/
def Event.ofCycle : Event → Bool
  | .semaphoreCycle _ | .barrierApply _ | .tileBitApply _ => true
  | _ => false

/-- Moves the put-off steps whose time has come before those due, which are later, but for those that belong to the cycle
that has ended. -/
def State.ring (s : State) : State :=
  let now := s.time.toNat
  { s with agenda := s.agenda.filter Event.ofCycle ++ (s.timers.filter fun t => decide (t.1 ≤ now)).map (·.2) ++
             s.agenda.filter fun e => !Event.ofCycle e
           timers := s.timers.filter fun t => !decide (t.1 ≤ now) }

/-- A condition of R24 that R126 counts as a block. -/
def StrandCond.deadlocked : StrandCond → Bool
  | .fullEmpty | .strandWait | .queueFull | .queueWait | .rangeBoard => true
  | _ => false

/-- A RUNNING strand is blocked in R126's sense: `KWAIT` counts and `KTWAIT` does not. -/
def Strand.stuck (z : Strand) : Bool :=
  z.held == .no && (z.cond.deadlocked || (z.cond == .semWait && z.wait == .sem none))

/-- The conditions of the deadlock count of a core (R126). -/
def State.deadlocked (s : State) (c : CoreId) : Bool :=
  let x := s.core c
  let zs := [x.s, x.v, x.m]
  let ws : List Who := [⟨c, .s⟩, ⟨c, .v⟩, ⟨c, .m⟩]
  zs.all (fun z => z.life != .running || z.stuck) && zs.any (fun z => z.life == .running) &&
    !x.queues.toList.any (fun q => q.jobs.any fun j => j.state == .running || j.state == .awaitLeave) &&
    !(x.frame.job.any fun j => j.run.isSome || j.ending.isSome || j.state == .awaitLeave || j.state == .halted) &&
    !x.frame.draining && !ws.any s.inFlight && x.tileChanges.isEmpty && x.signals.isEmpty && (s.instOn c).status == .running &&
    !(s.instOn c).stopping

/-- Counts the cycles of a deadlock (R126). -/
def State.countDeadlock (s : State) (c : CoreId) : State :=
  let x := s.core c
  if s.deadlocked c then
    let s := s.setCore c { x with deadlock := x.deadlock + 1 }
    if Config.deadlockBound ≤ x.deadlock + 1 then s.due (.deadlockFault c) else s
  else if x.deadlock = 0 then s
  else s.setCore c { x with deadlock := 0 }

/-- Every core of an instance counts the cycles of a deadlock (R126). -/
def State.countDeadlocks (s : State) : State := (s.insts.flatMap fun x => x.2.cores).foldl State.countDeadlock s

/-- A cycle ends: package time and cycles advance, put-off steps fall due, the deadlock counts and the turn go on. -/
def State.tick (s : State) : State :=
  (({ s.countDeadlocks with time := s.time + 1, now := s.now + 1, cycle := Cycle.none } : State).ring).rotate

end Sys2Proof.Machine
end

