-- ==== Sys2Proof/Machine/Domain.lean ====
section
/-!
DEFINITION. What the fault domain does: overruns, deadlocks, handlers' actions, restarts, and the fencing of a die (R115 to
R119, R126, R291, R313, R314, R326, R388).
-/

namespace Sys2Proof.Machine

/-! ### Overrun and deadlock (R119, R126) -/

/-- SAFEPOINT_OVERRUN: the fatal error of a strand that issues beyond its bound while a pre-emption is asked for (R119). -/
def execSafepointOverrun (w : Who) (s : State) : Out :=
  let z := s.strand w
  if (s.instOn w.core).preq && z.issues && decide (Config.safeBound ≤ z.spr.spcnt.toNat) then
    .next ((s.setStrand w z.rewind).fatal w 0x0024 0 0)
  else .next s

/-- The running strands of a core are held at their blocked instructions, every register live (R126). -/
def State.holdAll (s : State) (c : CoreId) : State :=
  ([⟨c, .s⟩, ⟨c, .v⟩, ⟨c, .m⟩] : List Who).foldl (fun s w =>
    if (s.strand w).issues then
      let s := s.unregister w
      s.setStrand w { s.strand w with held := .live, live := BitVec.allOnes 64, cond := .stopped }
    else s) s

/-- DEADLOCK_FAULT: a record with SID 3, and the instance is suspended (R115, R126). -/
def execDeadlockFault (c : CoreId) (s : State) : Out :=
  let x := s.core c
  if x.deadlock < Config.deadlockBound || !s.deadlocked c then .next s
  else
    match x.inst with
    | none => .next s
    | some k =>
      let r : Rec := { cause := 0x0025, sid := none, queue := 0, arg := 0, pc := 0, cid := s.cid c, addr := 0, detail := 0 }
      let s := s.setCore c { x with deadlock := 0 }
      match s.post r (s.getInst k) with
      | (s, some va, n) =>
        let s := s.holdAll c
        let s := s.setInst k { s.getInst k with frec := va, stop := true }
        let s := s.await { inst := some k, region := n, addr := va, who := none, cause := 0x0025, page := none }
        .next ((s.applyStop n).settle k)
      | (s, none, _) => .next (s.terminate k)

/-! ### A handler's action (R117, R326, R388) -/

/-- The record no longer awaits its action. -/
def State.acted (s : State) (a : Awaiting) : State :=
  { s with dist := { s.dist with awaiting := s.dist.awaiting.erase a } }

/-- Every request held on a page is tried again (R388). -/
def State.retryHeld (s : State) (space : BitVec 16) (page : Nat) : State :=
  s.dueNew ((s.heldOn space page).flatMap fun (h : DieId × HeldReq) => arrivalOf h.2.pkt h.1)

/-- The faulting strand as a record's action gives it (R117). -/
def State.actStrand (s : State) (w : Who) (a : Awaiting) (redirect : Option Dword) : State :=
  let s := s.setTcause w a.cause
  match redirect with
  | some t => s.setStrand w ((s.strand w).redirect t a.addr)
  | none => s

/-- A saved instance takes an action: its resumption applies it, and once every record has had its action the instance is in
the pool (R117, R311). -/
def State.actSaved (s : State) (k : Nat) (a : Awaiting) (redirect : Option Dword) : State :=
  let i := s.getInst k
  let act (w : Who) : Action :=
    { part := if i.cluster then coreInCluster w.core else 0, sid := w.strand, cause := a.cause, redirect := redirect.map fun t => (t, a.addr) }
  let s := s.setInst k { i with acts := i.acts ++ (a.who.map act).toList }
  if s.dist.awaiting.any fun x => x.inst == some k then s
  else (s.setInst k { s.getInst k with stop := false }).due .instanceDispatch

/-- TERMINATE (R112, R117). -/
def State.actTerminate (s : State) (k : Nat) : State :=
  let i := s.getInst k
  if i.cores.isEmpty then
    let s : State := { s with dist := { s.dist with awaiting := s.dist.awaiting.filter fun a => a.inst != some k } }
    (s.setInst k { i with status := .terminated, stop := false, slot := none }).due (.instanceRetire k)
  else s.terminate k

/-- An action other than 0 on the record of an instance (R117). -/
def State.actInst (s : State) (a : Awaiting) (k : Nat) (act : Nat) (target : Dword) : State :=
  let i := s.getInst k
  let bad := act = 3 || (act = 2 && (a.who.isNone || !codeAddr target))
  let redirect := if act = 2 then some target else none
  let s := s.acted a
  if i.status == .retired || i.status == .terminated then s
  else if bad then s.actTerminate k
  else if i.cores.isEmpty then s.actSaved k a redirect
  else
    let s := match a.who with
      | some w => s.actStrand w a redirect
      | none => s
    s.continue k

/-- The strands of an instance on its cores are still on their way to their safe points: it is not suspended yet (R115, R127). -/
def State.gathering (s : State) (k : Nat) : Bool :=
  let i := s.getInst k
  i.status == .running && !(i.stop && s.allStopped i)

/-- DOORBELL_RECORD: the master reads the action of the record at `x` once, when a doorbell of a region that shares its fault
ring is rung (R117, R326); the doorbell of an instance that is not suspended is ignored (R127). A fatal record takes its action
with no effect but that its slot is free (R327; log entry 55). -/
def execDoorbellRecord (n : Nat) (x : Dword) : State → Out :=
  master (.doorbellRecord n x) fun s =>
    let s := s.keepPath n
    match s.dist.awaiting.find? fun a => a.addr == x && s.owner 5 a.region == s.owner 5 n with
    | none => .next s
    | some a =>
      match s.distRead (s.spaceOf a.region) (x.toNat + 0x38) 8 with
      | (s, none) => .next s
      | (s, some bs) =>
        let w := bytesDword bs 0
        let act := fld w 1 0
        if act = 0 then .next s
        else
          match a.inst, a.page with
          | some k, _ => .next (if s.gathering k then s else s.actInst a k act (dw (fld w 63 16)))
          | none, some (space, page) =>
            let s := s.acted a
            .next (if act = 1 then s.retryHeld space page else s.answerHeld space page 1)
          | none, none => .next (s.acted a)

/-- RESTART: the region dispatches again (R326). -/
def execRestart (n : Nat) : State → Out :=
  master (.restart n) fun s => .next ((s.stopRegion n false).due .instanceDispatch)

/-- RELOAD: the blocks of a region and of every region beneath it are read again, once every record and STOPPED bit that is on its way
has been written (R324, R326, R327, R358). -/
def execReload (n : Nat) (s : State) : Out :=
  if !s.posts.isEmpty then .next (s.later (.reload n))
  else
    master (.reload n) (fun s =>
      let below := (s.dist.regions.filter fun x => x.1 == n || (s.regionPath x.1).contains n).map (·.1)
      let s := below.foldl (fun (s : State) m => (s.masterMet (s.regionAddr m) 256).keepRegion m (s.readRegion m)) s
      .next (s.refuseWaiting.due .instanceDispatch)) s

/-! ### Fencing a die (R273, R291, R313, R314) -/

/-- A put-off step belongs to a strand of a die. -/
def Event.onDie (d : DieId) (e : Event) : Bool := (Event.issuer e).any fun w => dieOf w.core == d

/-- A write-back that a home of a die holds: it is due, and has come past every outer point (R277, R292). -/
def State.backAt (s : State) (d : DieId) (x : HeldLoc) : Bool :=
  let c := x.last.who.core
  let outer (y : HeldLoc) : Bool :=
    decide (scopeRank x.scope < scopeRank y.scope) && y.point == pointOf c y.scope && s.homeOf y.loc == s.homeOf x.loc
  homeDie (s.homeOf (locOf x.last.pa)) == d && s.settled x && !s.held.any outer && !s.crossingAt (dieOf c) x.loc

/-- An access that a home of a die holds: it has come past every point on its way, or it is the host's, or another package's
(R292). -/
def State.heldAt (s : State) (d : DieId) : Event → Bool
  | .homeAccess a =>
    homeDie (s.homeOf a.pa) == d && !mgmtAddr (s.homeOf a.pa) && !s.owes a && !(s.behind a.who.core (locOf a.pa)) &&
      ((s.timers.find? fun t => Event.memory a.who t.2).all fun t => t.2 == .homeAccess a)
  | .hostAccess pa _ _ _ => homeDie (s.homeOf pa) == d && !mgmtAddr pa
  | .codeFetch w va =>
    match (s.strand w).lease.filter fun l => l.serves va.toNat (s.dieTime (dieOf w.core)).toNat with
    | some l => homeDie (s.homeOf (l.at va.toNat)) == d && !s.behind w.core (locOf (l.at va.toNat))
    | none => false
  | .contentNamedOperation x =>
    homeDie (s.homeOf x.frame) == d && !s.coreWaits x.who.core x.at_ &&
      ((s.timers.find? fun t => Event.memory x.who t.2 || Event.names x.who t.2).all fun t => t.2 == .contentNamedOperation x)
  | .write e q | .read e q | .atomic e q =>
    match s.portCached e q.space q.va with
    | some l => (s.requestLocs l q).any fun a => homeDie a == d
    | none => false
  | _ => false

/-- The core of an ordering point lies on a die. -/
def HeldLoc.onDie (x : HeldLoc) (d : DieId) : Bool :=
  match x.scope with
  | .core => x.point / 128 == d.val
  | .cluster => x.point / 32 == d.val
  | _ => x.point == d.val

/-- What a die sent and is not yet applied is discarded, and so is what its homes held without checking; its cores stop, and its
clock-skew fault is over (R273, R292, R301, R313). R273 keeps the writes of other dies that wait for the fenced die's; R292
discards the accesses that the fenced die's own homes held in their fault, whoever sent them (log entry 59). -/
def State.stopDie (s : State) (d : DieId) : State :=
  let x := s.die d
  let gone (e : Event) : Bool := Event.onDie d e || (x.inFault && s.heldAt d e)
  { s with
    cores := Vector.ofFn fun c : Fin 512 => if dieOf c = d then Core.reset else s.cores[c]
    clusters := Vector.ofFn fun k : Fin 128 => if k.val / 32 = d.val then { Cluster.reset with removed := s.clusters[k].removed } else s.clusters[k]
    dies := Vector.ofFn fun e : Fin 4 =>
      let y := s.dies[e]
      let y : Die := { y with xwrites := y.xwrites.filter fun w => w.sender != d }
      if e = d then { y with fenced := true, locked := false, inFault := false, granted := 0, leave := []
                             xwrites := if x.inFault then [] else y.xwrites } else y
    held := s.held.filter fun h => !h.onDie d && !(x.inFault && s.backAt d h)
    agenda := s.agenda.filter fun e => !gone e
    timers := s.timers.filter fun t => !gone t.2
    fab := { s.fab with remotes := s.fab.remotes.filter fun r => dieOf r.who.core != d }
    dist := { s.dist with devq := s.dist.devq.map fun q => (q.1, q.2.filter fun e => e.placed || dieOf e.who.core != d) } }

/-- Time mastership passes to the lowest-numbered healthy die when its holder is fenced (R291). -/
def State.handOverTime (s : State) (d : DieId) : State :=
  if !(s.die d).lcuMaster then s
  else
    match s.lowestHealthy with
    | none => s.setDie d { s.die d with lcuMaster := false }
    | some m => s.timeTo m

/-- A change that waited for the fenced die's replica waits for it no more (R303). -/
def State.releaseChanges (s : State) (d : DieId) : State :=
  (s.dist.changes.filter fun c => c.need.contains d).foldl (fun (s : State) c => s.acknowledge d c) s

/-- A saved instance has a page of its slots homed on a die (R314). -/
def State.savedOn (s : State) (d : DieId) (i : Inst) : Bool :=
  match i.slot with
  | none => false
  | some a =>
    (List.range (33 * i.slots)).any fun n =>
      let va := a.va + 0x10000 * n
      match s.savePage a.space va with
      | (t, .ok l) => homeDie (t.homeOf (l.at va)) == d
      | _ => false

/-- Instances that a die's fencing loses: those that run on it, and those saved there, placed on cores or not (R314). -/
def State.lostOn (s : State) (d : DieId) : List (Nat × Inst) :=
  s.insts.filter fun x => if x.2.status == .saved then s.savedOn d x.2 else x.2.cores.any fun c => dieOf c == d

/-- Saved instances placed on cores of a die but not yet restored there: they stay saved, and their other cores are free. -/
def State.unplace (s : State) (d : DieId) : State :=
  (s.insts.filter fun x => x.2.status == .saved && x.2.cores.any fun c => dieOf c == d).foldl (fun (s : State) x =>
    let s := (x.2.cores.filter fun c => dieOf c != d).foldl (fun (s : State) c => s.setCore c (s.core c).free) s
    (s.setInst x.1 { x.2 with cores := [] }).noteUse x.2.leaf.toNat) s

/-- A lost instance that had ended already only retires. -/
def State.loseOn (s : State) (d : DieId) (x : Nat × Inst) : State :=
  let s := (x.2.cores.filter fun c => dieOf c != d).foldl (fun (s : State) c => s.setCore c (s.core c).free) s
  if x.2.status == .terminated then (s.setInst x.1 { x.2 with cores := [], slot := none }).due (.instanceRetire x.1)
  else (s.lose x.1 ((x.2.cores.head?.map s.cid).getD 0)).noteUse x.2.leaf.toNat

/-- The election that the fencing of the master's die begins (R313). -/
def State.beginElection (s : State) (d : DieId) : State :=
  if s.dist.master = d && !s.dist.electing then
    ({ s with dist := { s.dist with electing := true } } : State).timer (s.time.toNat + Config.electionTime.val) .masterElection
  else s

/-- DIE_FENCE (R273, R291, R303, R313, R314). -/
def execDieFence (d : DieId) (s : State) : Out :=
  if (s.die d).fenced then .next s
  else
    let lost := s.lostOn d
    let s := ((s.stopDie d).handOverTime d).beginElection d
    let s := s.releaseChanges d
    .next (((lost.foldl (fun (s : State) x => s.loseOn d x) s).unplace d).dueAll ((List.finRange 4).map .crossdieWriteApply ++ [.instanceDispatch]))

/-- MASTER_ELECTION: the distributor of the lowest-numbered healthy die is the master, from its replica (R303, R313). -/
def execMasterElection (s : State) : Out :=
  if !s.dist.electing then .next s
  else
    match s.lowestHealthy with
    | none => .next s
    | some m =>
      let d := s.dist
      .next (({ s with dist := { d with master := m, electing := false, elects := BitVec.ofNat 16 (holdAdd 0xFFFF d.elects.toNat 1) } } : State).dueAll
        [.poolReadied, .instanceDispatch])

end Sys2Proof.Machine
end

