-- ==== Sys2Proof/Machine/Steal.lean ====
section
/-!
DEFINITION. Work stealing between packages: load figures, requests, grants, stolen instances and their reports (R340, R341).
-/

namespace Sys2Proof.Machine

/-- STEALCTL's fields (R339). -/
def State.mayStealFrom (s : State) : Bool := s.plat.stealctl.getLsbD 1
def State.guest (s : State) : Nat := fld s.plat.stealctl 15 2
def State.stealArea (s : State) : Nat := fld s.plat.stealctl 60 16

/-- Ready instances of stealable nodes that have never started (R340). -/
def State.stealable (s : State) : List (Nat × Inst) := s.insts.filter fun x => x.2.status == .ready && x.2.steal && x.2.inPool

/-- The load figure (R340). -/
def State.figure (s : State) : Nat := min 0xFFFF s.stealable.length

/-- Sends a message where its port can carry it. -/
def State.tellSteal (s : State) (p : Port) (x : StealMsg) : State := (s.sendSteal p x).getD s
/-- A message can leave by a port. -/
def State.mayTell (s : State) (p : Port) : Bool := s.fabricOn && (s.pickSublink p 0).isSome

/-- LOAD_FIGURE: the idle flits of every port carry the figure; again after 10 µs (R340). -/
def execLoadFigure : State → Out :=
  master .loadFigure fun s =>
    let s : State := { s with timers := s.timers.filter fun t => t.2 != Event.loadFigure }
    if !s.mayStealFrom then .next s
    else
      let n := s.figure
      let s : State := { s with fab := { s.fab with links := s.fab.links.map fun l => { l with figure := n } } }
      let up := (List.finRange 6).flatMap fun p => ((List.finRange 4).filter fun d => (s.link p d).up).map fun d => Event.flitSend p d
      .next ((s.dueAll up).timer (s.time.toNat + 10000) .loadFigure)

/-- Free slots of the steal area (R340, R341). -/
def State.freeSteal (s : State) : List Nat := (List.range 16).filter fun i => !s.dist.stealSlots.contains i

/-- The neighbour whose last figure is largest, in port order on a tie (R340). -/
def State.richest (s : State) : Option Port :=
  (List.finRange 6).foldl (fun (m : Option Port) p =>
    let n := (s.dist.figures[p]).getD 0
    match m with
    | some q => if (s.dist.figures[q]).getD 0 < n then some p else m
    | none => if n < 2 then none else some p) none

/-- STEAL_REQUEST: a package that may steal, with nothing ready, an idle core and a free slot, asks the neighbour with the
largest figure, one at a time (R340). -/
def execStealRequest : State → Out :=
  master .stealRequest fun s =>
    let idle := (List.finRange 512).any fun c => s.idleCore c
    if s.plat.stealctl.getLsbD 0 && s.readyCount == 0 && idle && !s.freeSteal.isEmpty && s.dist.asked.isNone then
      match s.richest with
      | none => .next s
      | some p =>
        match s.sendSteal p (.request s.freeSteal.length) with
        | some t => .next { t with dist := { t.dist with asked := some p } }
        | none => .next s
    else .next s

/-- What a granted instance travels with (R341). -/
def State.parcel (s : State) (k : Nat) : State × Option Stolen :=
  let i := s.getInst k
  match i.origin with
  | .node r n =>
    match (s.replay r).bind fun x => x.node n with
    | none => (s, none)
    | some y =>
      let (s, args) := s.distRead i.space i.arg.toNat (fld (nodeDword y.record 7) 12 0)
      (s, some { node := y.record, first := i.iid, count := i.count, age := s.age i, space := i.space
                 replay := r, index := n, inst := k, args := args.getD [] })
  | _ => (s, none)

/-- Gives instances away (R340, R341). -/
def State.give (s : State) (p : Port) : List Nat → State × List Stolen
  | [] => (s, [])
  | k :: r =>
    match s.parcel k with
    | (s, none) => State.give s p r
    | (s, some x) =>
      let s := s.setInst k { s.getInst k with status := .given }
      let (s, xs) := State.give { s with dist := { s.dist with given := s.dist.given ++ [(k, p)] } } p r
      (s, x :: xs)

/-- The instances that the master would dispatch last, half of them at most and no more than the thief has slots; or a
refusal (R340). -/
def grantBody (p : Port) (slots : Nat) (s : State) : Out :=
  let n := if s.mayStealFrom && s.mayTell p then min (s.figure / 2) slots else 0
  let last := ((sortBy s.before s.stealable).reverse.take n).map (·.1)
  let (s, xs) := s.give p last
  .next (s.tellSteal p (if xs.isEmpty then .refusal else .grant xs))

/-- STEAL_GRANT (R340). -/
def execStealGrant (p : Port) (slots : Nat) : State → Out :=
  master (.stealGrant p slots) (withReplicas (.stealGrant p slots) (grantBody p slots))

/-- A stolen instance: its argument bytes in a free slot, its own SPACE, and the budgets of GUEST (R341). -/
def arrivalBody (p : Port) (x : Stolen) (s : State) : Out :=
  match s.freeSteal with
  | [] => .next s
  | slot :: _ =>
    let va := s.stealArea + 4096 * slot
    let s := s.keepPath s.guest
    let (s, _) := s.vaWrite s.dist.master x.space va x.args
    let (s, ops) := s.walkOperands x.space (nodeTiles x.node)
    let i := nodeInst x.node s.guest (s.region s.guest) x.space x.first.toNat x.count.toNat 0 (s.time - dw x.age) s.dist.seq (dw va)
      ops (.stolen p x.inst slot)
    let s : State := { s with dist := { s.dist with seq := s.dist.seq + 1, stealSlots := s.dist.stealSlots ++ [slot] } }
    .next ((s.addInst { i with steal := false }).due .instanceDispatch)

/-- STOLEN_ARRIVAL (R341). -/
def execStolenArrival (p : Port) (x : Stolen) : State → Out :=
  master (.stolenArrival p x) (withReplicas (.stolenArrival p x) (arrivalBody p x))

/-- STEAL_RETIRE_REPORT: the slot is free, and the donor learns how the instance ended (R341). -/
def execStealRetireReport (k : Nat) (s : State) : Out :=
  let i := s.getInst k
  match i.origin with
  | .stolen p n slot =>
    if i.status == .retired || (i.status == .terminated && i.cores.isEmpty) then
      let s : State := { s with insts := Table.del s.insts k
                                dist := { s.dist with stealSlots := s.dist.stealSlots.filter (· != slot) } }
      .next ((s.tellSteal p (.report n (i.status == .terminated))).maySteal)
    else .next s
  | _ => .next s

/-- A thief's report: the donor's node accounts for the instance (R335, R341). -/
def State.reported (s : State) (p : Port) (k : Nat) (terminated : Bool) : State :=
  if s.dist.given.contains (k, p) then
    let s : State := { s with dist := { s.dist with given := s.dist.given.filter (· != (k, p)) } }
    let i := s.getInst k
    s.account k { i with status := if terminated then .terminated else .retired }
  else s

/-- A message of a neighbour, as the master takes it. A report changes the pool, once every replica has acknowledged it (R303,
R340, R341). -/
def stealBody (p : Port) (x : StealMsg) (s : State) : Out :=
  let answered (s : State) : State := if s.dist.asked == some p then { s with dist := { s.dist with asked := none } } else s
  match x with
  | .figure n => .next (({ s with dist := { s.dist with figures := s.dist.figures.set p.val (some n) p.isLt } } : State).due .stealRequest)
  | .request slots => .next (s.due (.stealGrant p slots))
  | .refusal => .next (answered s)
  | .grant xs => .next ((answered s).dueAll (xs.map fun y => .stolenArrival p y))
  | .report k t => withReplicas (.steal p (.report k t)) (fun s => .next (s.reported p k t)) s

/-- STEAL: a message of a neighbour arrives; a package whose fabric is not enabled serves none (R340, R341, R383, R399). -/
def execSteal (p : Port) (x : StealMsg) : State → Out :=
  master (.steal p x) fun s => if s.fabricOn then stealBody p x s else .next s

end Sys2Proof.Machine
end

