-- ==== Sys2Proof/Machine/Agenda.lean ====
section
/-!
DEFINITION. The steps that the model puts off: each is run by the meaning of the row of its name.
-/

namespace Sys2Proof.Machine

/-- Runs a step whose turn has come. -/
def runEvent (e : Event) (s : State) : Out :=
  match e with
  | .recordPost => .next s.recordPost
  | .instanceReturn k => execInstanceReturn k s
  | .poolReadied => execPoolReadied s
  | .slew d => execSlew d s
  | .deckDone c => execDeckDone c s
  | .farSwitch p d => execFarSwitch p d s
  | .resultReady w _ _ f drop => .next (s.resultReady w f drop)
  | .copyin c q => execCopyin c q s
  | .copyout c q => execCopyout c q s
  | .decode c q => execDecode c q s
  | .encode c q => execEncode c q s
  | .fill c q => execFill c q s
  | .compact c q => execCompact c q s
  | .qfence c q => execQfence c q s
  | .layset c q => execLayset c q s
  | .laysync c q => execLaysync c q s
  | .resume c q => execResume c q s
  | .gather c q => execGather c q s
  | .scatter c q => execScatter c q s
  | .scatadd c q => execScatadd c q s
  | .madd c q => execMadd c q s
  | .mpfx c q => execMpfx c q s
  | .munion c q => execMunion c q s
  | .rsend c q => execRsend c q s
  | .rfetch c q => execRfetch c q s
  | .rsignal c q => execRsignal c q s
  | .cnout c q => execCnout c q s
  | .cnin c q => execCnin c q s
  | .cndiff c q => execCndiff c q s
  | .jobPop c q => execJobPop c q s
  | .semaphoreCycle c => execSemaphoreCycle c s
  | .ktwaitTimeout w til => execKtwaitTimeout w til s
  | .tileBitApply c => execTileBitApply c s
  | .leaveGrant d => execLeaveGrant d s
  | .jobComplete c q => execJobComplete c q s
  | .jobsDropped c q => execJobsDropped c q s
  | .gregFill w d x => execGregFill w d x s
  | .walkComplete w h x => execWalkComplete w h x s
  | .walkRestart w h x => execWalkRestart w h x s
  | .engineLeaseRenew c q => execEngineLeaseRenew c q s
  | .codeFetch w va => execCodeFetch w va s
  | .homeAccess a => execHomeAccess a s
  | .crossdieWriteApply d => execCrossdieWriteApply d s
  | .appliedCountReport d => execAppliedCountReport d s
  | .atomicWriteback sc point loc => execAtomicWriteback sc point loc s
  | .flushComplete w => execFlushComplete w s
  | .hostAccess pa n wr x => execHostAccess pa n wr x s
  | .clusterAccess w tgt off n x d => execClusterAccess w tgt off n x d s
  | .barrierApply k => execBarrierApply k s
  | .ctwaitTimeout w til => execCtwaitTimeout w til s
  | .multicastTimeout c til => execMulticastTimeout c til s
  | .multicastLoad c => execMulticastLoad c s
  | .stepBegin c => execStepBegin c s
  | .laneEvaluate c lane => execLaneEvaluate c lane s
  | .windowLoad c => execWindowLoad c s
  | .rodTakeItem c rod => execRodTakeItem c rod s
  | .itemArrival c rod => execItemArrival c rod s
  | .frameJobComplete c => execFrameJobComplete c s
  | .frameJobPause c => execFrameJobPause c s
  | .drainRowWrite c => execDrainRowWrite c s
  | .mlutCopyDone c => execMlutCopyDone c s
  | .reclaimLine => execReclaimLine s
  | .instanceDispatch => execInstanceDispatch s
  | .preemptRequest => execPreemptRequest s
  | .instanceSave k => execInstanceSave k s
  | .instanceResume k => execInstanceResume k s
  | .suspendTimeout k => execSuspendTimeout k s
  | .instanceRetire k => execInstanceRetire k s
  | .safepointOverrun w => execSafepointOverrun w s
  | .deadlockFault c => execDeadlockFault c s
  | .doorbellRecord n x => execDoorbellRecord n x s
  | .restart n => execRestart n s
  | .reload n => execReload n s
  | .wqConsume q => execWqConsume q s
  | .devqConsume q => execDevqConsume q s
  | .launch q e => execLaunch q e s
  | .struct q e => execStruct q e s
  | .conditionalRead r im => execConditionalRead r im s
  | .replayDone r => execReplayDone r s
  | .loadFigure => execLoadFigure s
  | .stealRequest => execStealRequest s
  | .stealGrant p slots => execStealGrant p slots s
  | .stolenArrival p x => execStolenArrival p x s
  | .stealRetireReport k => execStealRetireReport k s
  | .lcuMeasure d ofs => execLcuMeasure d ofs s
  | .skewResync d => execSkewResync d s
  | .skewResyncTimeout d => execSkewResyncTimeout d s
  | .dieFence d => execDieFence d s
  | .masterElection => execMasterElection s
  | .migrationArm d e x => execMigrationArm d e x s
  | .migrationRemove d e => execMigrationRemove d e s
  | .migrationLineCopy d e => execMigrationLineCopy d e s
  | .moduleStart u => execModuleStart u s
  | .tamperAlarm => execTamperAlarm s
  | .voltageGlitch => execVoltageGlitch s
  | .clockGlitch => execClockGlitch s
  | .coolantThrottle d => execCoolantThrottle d s
  | .pwrcapWrite d x => execPwrcapWrite d x s
  | .secstatAdv => execSecstatAdv s
  | .alarmpolWrite x => execAlarmpolWrite x s
  | .registerWrite off x host => execRegisterWrite off x host s
  | .fabrd => execFabrd s
  | .fabwr => execFabwr s
  | .kempub => execKempub s
  | .kekset => execKekset s
  | .linkkey => execLinkkey s
  | .cnkey => execCnkey s
  | .cnkeyclr => execCnkeyclr s
  | .spareret => execSpareret s
  | .quote => execQuote s
  | .mailboxComplete => execMailboxComplete s
  | .flitSend p d => execFlitSend p d s
  | .flitReceive p d f => execFlitReceive p d f s
  | .nakReceive p d ack => execNakReceive p d ack s
  | .retrainDone p d => execRetrainDone p d s
  | .retrainTimeout p d til => execRetrainTimeout p d til s
  | .laneRepair p tx d => execLaneRepair p tx d s
  | .write d x => execWrite d x s
  | .read d x => execRead d x s
  | .readresp x => execReadresp x s
  | .atomic d x => execAtomic d x s
  | .atomresp x => execAtomresp x s
  | .signal d x => execSignal d x s
  | .ack x => execAck x s
  | .steal p x => execSteal p x s
  | .heldRequestTimeout d n => execHeldRequestTimeout d n s
  | .remoteTimeout t => execRemoteTimeout t s
  | .clusterNetworkFlitFailure w => execClusterNetworkFlitFailure w s
  | .coolantBelowLimit d => execCoolantBelowLimit d s
  | .contentNamedOperation x => execContentNamedOperation x s
  | .vldgLanesArrive w d mask => execVldgLanesArrive w d mask s
  | .replicaAcknowledge d => execReplicaAcknowledge d s

/-- The first step due, if any. -/
def State.nextEvent (s : State) : Option (Event × State) :=
  match s.agenda with
  | [] => none
  | e :: r => some (e, { s with agenda := r })

end Sys2Proof.Machine
end

