-- ==== Sys2Proof/Machine/Int.lean ====
section
/-!
DEFINITION. Integer and address arithmetic and the constants (R89 to R93).
-/

namespace Sys2Proof.Machine

/-- An R-format integer instruction: `g[D]` from `g[A]` and `g[B]` (R87, R89). -/
def intR (d a b : GReg) (ta tb : Bool) (f : Dword → Dword → Dword) : State → Out :=
  issue (useR d a b ta tb) (writeG d fun z => f (z.rg a) (z.rg b))

/-- One `g` source. -/
def intR1 (d a : GReg) (ta : Bool) (f : Dword → Dword) : State → Out :=
  issue (useR1 d a ta) (writeG d fun z => f (z.rg a))

/-- An immediate form, of 1 or 2 halfwords, whose source has no trap bit (R92, R108). -/
def intI (len : Nat) (d a : GReg) (f : Dword → Dword) : State → Out :=
  issue (useI len d a) (writeG d fun z => f (z.rg a))

/-- The high 64 bits of the signed product (R89). -/
def mulhs (x y : Dword) : Dword := BitVec.ofInt 64 (x.toInt * y.toInt / 2 ^ 64)
/-- The high 64 bits of the unsigned product (R89). -/
def mulhu (x y : Dword) : Dword := dw (x.toNat * y.toNat / 2 ^ 64)

/-- Quotients and remainders (R90). -/
def divs (x y : Dword) : Dword := if y = 0 then BitVec.allOnes 64 else BitVec.ofInt 64 (Int.tdiv x.toInt y.toInt)
def divu (x y : Dword) : Dword := if y = 0 then BitVec.allOnes 64 else dw (x.toNat / y.toNat)
def rems (x y : Dword) : Dword := if y = 0 then x else BitVec.ofInt 64 (Int.tmod x.toInt y.toInt)
def remu (x y : Dword) : Dword := if y = 0 then x else dw (x.toNat % y.toNat)

/-- A put-off step ends a division of a strand. -/
def Event.divides (w : Who) : Event → Bool
  | .resultReady x _ _ f _ => x == w && f == fIDZ
  | _ => false

/-- The strand's divider is taken: a division whose flag has yet to come is under way (R90). -/
def State.dividing (s : State) : Bool := s.timers.any fun e => Event.divides s.turn e.2

/-- A division or remainder: the result, and with it, 34 cycles after the issue, IDZ for a zero divisor (R22, R90). -/
def divR (d a b : GReg) (ta tb : Bool) (f : Dword → Dword → Dword) : State → Out :=
  issue { useR d a b ta tb with hold := fun s => interlockWhile s.dividing } fun s =>
    let z := s.me
    .next ((s.setMe (z.wg d (f (z.rg a) (z.rg b)))).arrives (some d) none 34 (divFlags (z.rg b)) 0)

/-- The shift amount of a register (R89). -/
def amount (x : Dword) : Nat := x.toNat % 64

/-- Zero bits above the highest one bit of the low `n` bits (R89). -/
def clzN (x : Dword) : Nat → Nat
  | 0 => 0
  | n + 1 => if x.getLsbD n then 0 else clzN x n + 1

/-- Zero bits below the lowest one bit, from bit `64 - n` on (R89). -/
def ctzN (x : Dword) : Nat → Nat
  | 0 => 0
  | n + 1 => if x.getLsbD (63 - n) then 0 else ctzN x n + 1

/-- One bits among the low `n`. -/
def popN (x : Dword) : Nat → Nat
  | 0 => 0
  | n + 1 => (if x.getLsbD n then 1 else 0) + popN x n

/-- Field control of BFX and BFI: position and the part of the width inside the register (R91). -/
def bfPos (c : Dword) : Nat := c.toNat % 64
def bfWidth (c : Dword) : Nat := min (min (fld c 14 8) 64) (64 - bfPos c)
/-- The field's mask (R91). -/
def bfMask (c : Dword) : Dword := dw ((2 ^ bfWidth c - 1) * 2 ^ bfPos c)
def bfx (x c : Dword) : Dword := (x &&& bfMask c) >>> bfPos c
def bfi (old x c : Dword) : Dword := (old &&& ~~~(bfMask c)) ||| ((x <<< bfPos c) &&& bfMask c)

def execAdd (d a b : GReg) (ta tb : Bool) : State → Out := intR d a b ta tb (· + ·)
def execSub (d a b : GReg) (ta tb : Bool) : State → Out := intR d a b ta tb (· - ·)
def execMul (d a b : GReg) (ta tb : Bool) : State → Out := intR d a b ta tb (· * ·)
def execMulhs (d a b : GReg) (ta tb : Bool) : State → Out := intR d a b ta tb mulhs
def execMulhu (d a b : GReg) (ta tb : Bool) : State → Out := intR d a b ta tb mulhu
def execDivs (d a b : GReg) (ta tb : Bool) : State → Out := divR d a b ta tb divs
def execDivu (d a b : GReg) (ta tb : Bool) : State → Out := divR d a b ta tb divu
def execRems (d a b : GReg) (ta tb : Bool) : State → Out := divR d a b ta tb rems
def execRemu (d a b : GReg) (ta tb : Bool) : State → Out := divR d a b ta tb remu
def execAnd (d a b : GReg) (ta tb : Bool) : State → Out := intR d a b ta tb (· &&& ·)
def execOr (d a b : GReg) (ta tb : Bool) : State → Out := intR d a b ta tb (· ||| ·)
def execXor (d a b : GReg) (ta tb : Bool) : State → Out := intR d a b ta tb (· ^^^ ·)
def execAndn (d a b : GReg) (ta tb : Bool) : State → Out := intR d a b ta tb fun x y => x &&& ~~~y
def execShl (d a b : GReg) (ta tb : Bool) : State → Out := intR d a b ta tb fun x y => x <<< amount y
def execShr (d a b : GReg) (ta tb : Bool) : State → Out := intR d a b ta tb fun x y => x >>> amount y
def execSra (d a b : GReg) (ta tb : Bool) : State → Out := intR d a b ta tb fun x y => x.sshiftRight (amount y)
def execMins (d a b : GReg) (ta tb : Bool) : State → Out := intR d a b ta tb fun x y => if y.toInt < x.toInt then y else x
def execMinu (d a b : GReg) (ta tb : Bool) : State → Out := intR d a b ta tb fun x y => if y.toNat < x.toNat then y else x
def execMaxs (d a b : GReg) (ta tb : Bool) : State → Out := intR d a b ta tb fun x y => if x.toInt < y.toInt then y else x
def execMaxu (d a b : GReg) (ta tb : Bool) : State → Out := intR d a b ta tb fun x y => if x.toNat < y.toNat then y else x
def execClz (d a : GReg) (ta : Bool) : State → Out := intR1 d a ta fun x => dw (clzN x 64)
def execCtz (d a : GReg) (ta : Bool) : State → Out := intR1 d a ta fun x => dw (ctzN x 64)
def execPopc (d a : GReg) (ta : Bool) : State → Out := intR1 d a ta fun x => dw (popN x 64)
def execRol (d a b : GReg) (ta tb : Bool) : State → Out := intR d a b ta tb fun x y => x.rotateLeft (amount y)
def execBfx (d a b : GReg) (ta tb : Bool) : State → Out := intR d a b ta tb bfx
/-- BFI reads `g[D]` as a third source without a trap bit (R91). -/
def execBfi (d a b : GReg) (ta tb : Bool) : State → Out :=
  issue { len := 2, on := anyStrand, src := [(a, ta), (b, tb), (d, false)], dst := [d] }
    (writeG d fun z => bfi (z.rg d) (z.rg a) (z.rg b))
def execShli (d a : GReg) (n : BitVec 6) (ta : Bool) : State → Out := intR1 d a ta fun x => x <<< n.toNat
def execShri (d a : GReg) (n : BitVec 6) (ta : Bool) : State → Out := intR1 d a ta fun x => x >>> n.toNat
def execSrai (d a : GReg) (n : BitVec 6) (ta : Bool) : State → Out := intR1 d a ta fun x => x.sshiftRight n.toNat
def execAddx8 (d a b : GReg) (ta tb : Bool) : State → Out := intR d a b ta tb fun x y => x + (y <<< 3)
def execAddi (d a : GReg) (i : BitVec 12) : State → Out := intI 2 d a fun x => x + sext64 i
def execAndi (d a : GReg) (i : BitVec 12) : State → Out := intI 2 d a fun x => x &&& sext64 i
def execOri (d a : GReg) (i : BitVec 12) : State → Out := intI 2 d a fun x => x ||| sext64 i
def execXori (d a : GReg) (i : BitVec 12) : State → Out := intI 2 d a fun x => x ^^^ sext64 i
/-- LUI (R92). -/
def execLui (d : GReg) (i : BitVec 18) : State → Out := issue (useD 2 d) (writeG d fun _ => luiValue i)
/-- LIT, one unit of six halfwords (R93). -/
def execLit (d : GReg) (x : Dword) : State → Out := issue (useD 6 d) (writeG d fun _ => x)

/-! ### Compact forms (R51, R108) -/

/-- `C.MOV` is `OR gD, gA, g0`. -/
def execCMov (d a : GReg) : State → Out := intI 1 d a fun x => x ||| 0
def execCAddi (d : BitVec 4) (i : Byte) : State → Out := intI 1 (g4 d) (g4 d) fun x => x + sext64 i
/-- `C.ADD` is `ADD gD, gD, gB`. -/
def execCAdd (d b : GReg) : State → Out :=
  issue { len := 1, on := anyStrand, src := [(d, false), (b, false)], dst := [d] } (writeG d fun z => z.rg d + z.rg b)
/-- `C.SUB` is `SUB gD, gD, gB`. -/
def execCSub (d b : GReg) : State → Out :=
  issue { len := 1, on := anyStrand, src := [(d, false), (b, false)], dst := [d] } (writeG d fun z => z.rg d - z.rg b)
def execCShli (d : GReg) (n : BitVec 6) : State → Out := intI 1 d d fun x => x <<< n.toNat
/-- `C.LI` is `ORI gD, g0, IMM8` with the immediate zero-extended. -/
def execCLi (d : BitVec 4) (i : Byte) : State → Out :=
  issue (useI 1 (g4 d) 0) (writeG (g4 d) fun z => z.rg 0 ||| i.setWidth 64)

end Sys2Proof.Machine
end

