-- ==== Sys2Proof/Machine/Pred.lean ====
section
/-!
DEFINITION. Compares and predicate logic (R94, R95).
-/

namespace Sys2Proof.Machine

/-- A register compare (R94). -/
def cmpR (d : PReg) (a b : GReg) (ta tb : Bool) (f : Dword → Dword → Bool) : State → Out :=
  issue (useS 2 [(a, ta), (b, tb)]) (writeP d fun z => f (z.rg a) (z.rg b))

/-- Predicate logic (R94). -/
def predR (d a b : PReg) (f : Bool → Bool → Bool) : State → Out :=
  issue (use0 2) (writeP d fun z => f (z.rp a) (z.rp b))

def execCmpeq (d : PReg) (a b : GReg) (ta tb : Bool) : State → Out := cmpR d a b ta tb (· == ·)
def execCmpne (d : PReg) (a b : GReg) (ta tb : Bool) : State → Out := cmpR d a b ta tb (· != ·)
def execCmplt (d : PReg) (a b : GReg) (ta tb : Bool) : State → Out := cmpR d a b ta tb fun x y => decide (x.toInt < y.toInt)
def execCmpltu (d : PReg) (a b : GReg) (ta tb : Bool) : State → Out := cmpR d a b ta tb fun x y => decide (x.toNat < y.toNat)
def execCmple (d : PReg) (a b : GReg) (ta tb : Bool) : State → Out := cmpR d a b ta tb fun x y => decide (x.toInt ≤ y.toInt)
def execCmpleu (d : PReg) (a b : GReg) (ta tb : Bool) : State → Out := cmpR d a b ta tb fun x y => decide (x.toNat ≤ y.toNat)
def execPand (d a b : PReg) : State → Out := predR d a b (· && ·)
def execPor (d a b : PReg) : State → Out := predR d a b (· || ·)
def execPxor (d a b : PReg) : State → Out := predR d a b (· ^^ ·)
def execPandn (d a b : PReg) : State → Out := predR d a b fun x y => x && !y
def execPnot (d a : PReg) : State → Out := issue (use0 2) (writeP d fun z => !z.rp a)
def execPmov (d a : PReg) : State → Out := issue (use0 2) (writeP d fun z => z.rp a)
/-- PGET: bit 0 is `p0`, which reads 1 (R94). -/
def execPget (d : GReg) : State → Out := issue (useD 2 d) (writeG d fun z => z.p ||| 1)
/-- PSET ignores bit 0 (R94). -/
def execPset (a : GReg) (ta : Bool) : State → Out :=
  issue (useS 2 [(a, ta)]) fun s => .next (s.setMe { s.me with p := s.me.rg a ||| 1 })

/-- The condition of CMPI (R95). -/
def condHolds (c : Cond) (x y : Dword) : Bool :=
  match c with
  | .eq => x == y
  | .ne => x != y
  | .lt => decide (x.toInt < y.toInt)
  | .ltu => decide (x.toNat < y.toNat)
  | .le => decide (x.toInt ≤ y.toInt)
  | .leu => decide (x.toNat ≤ y.toNat)
  | .gt => decide (y.toInt < x.toInt)
  | .gtu => decide (y.toNat < x.toNat)

def execCmpi (p : PReg) (a : GReg) (c : Cond) (i : BitVec 9) : State → Out :=
  issue (useS 2 [(a, false)]) (writeP p fun z => condHolds c (z.rg a) (sext64 i))

end Sys2Proof.Machine
end

