-- ==== Sys2Proof/Machine/Dispatch.lean ====
section
/-!
DEFINITION. The meaning of each instruction, command and step: one arm per constructor of `Instr`.
-/

namespace Sys2Proof.Machine

/-- What an instruction, a command or a step does. -/
def exec (i : Instr) (s : State) : Host.Outcome State Fault Refusal :=
  match i with
  | .add d a b ta tb => Sys2Proof.Machine.execAdd d a b ta tb s
  | .sub d a b ta tb => Sys2Proof.Machine.execSub d a b ta tb s
  | .mul d a b ta tb => Sys2Proof.Machine.execMul d a b ta tb s
  | .mulhs d a b ta tb => Sys2Proof.Machine.execMulhs d a b ta tb s
  | .mulhu d a b ta tb => Sys2Proof.Machine.execMulhu d a b ta tb s
  | .divs d a b ta tb => Sys2Proof.Machine.execDivs d a b ta tb s
  | .divu d a b ta tb => Sys2Proof.Machine.execDivu d a b ta tb s
  | .rems d a b ta tb => Sys2Proof.Machine.execRems d a b ta tb s
  | .remu d a b ta tb => Sys2Proof.Machine.execRemu d a b ta tb s
  | .and d a b ta tb => Sys2Proof.Machine.execAnd d a b ta tb s
  | .or d a b ta tb => Sys2Proof.Machine.execOr d a b ta tb s
  | .xor d a b ta tb => Sys2Proof.Machine.execXor d a b ta tb s
  | .andn d a b ta tb => Sys2Proof.Machine.execAndn d a b ta tb s
  | .shl d a b ta tb => Sys2Proof.Machine.execShl d a b ta tb s
  | .shr d a b ta tb => Sys2Proof.Machine.execShr d a b ta tb s
  | .sra d a b ta tb => Sys2Proof.Machine.execSra d a b ta tb s
  | .mins d a b ta tb => Sys2Proof.Machine.execMins d a b ta tb s
  | .minu d a b ta tb => Sys2Proof.Machine.execMinu d a b ta tb s
  | .maxs d a b ta tb => Sys2Proof.Machine.execMaxs d a b ta tb s
  | .maxu d a b ta tb => Sys2Proof.Machine.execMaxu d a b ta tb s
  | .clz d a ta => Sys2Proof.Machine.execClz d a ta s
  | .ctz d a ta => Sys2Proof.Machine.execCtz d a ta s
  | .popc d a ta => Sys2Proof.Machine.execPopc d a ta s
  | .rol d a b ta tb => Sys2Proof.Machine.execRol d a b ta tb s
  | .bfx d a b ta tb => Sys2Proof.Machine.execBfx d a b ta tb s
  | .bfi d a b ta tb => Sys2Proof.Machine.execBfi d a b ta tb s
  | .shli d a n ta => Sys2Proof.Machine.execShli d a n ta s
  | .shri d a n ta => Sys2Proof.Machine.execShri d a n ta s
  | .srai d a n ta => Sys2Proof.Machine.execSrai d a n ta s
  | .addx8 d a b ta tb => Sys2Proof.Machine.execAddx8 d a b ta tb s
  | .addi d a im => Sys2Proof.Machine.execAddi d a im s
  | .andi d a im => Sys2Proof.Machine.execAndi d a im s
  | .ori d a im => Sys2Proof.Machine.execOri d a im s
  | .xori d a im => Sys2Proof.Machine.execXori d a im s
  | .lui d im => Sys2Proof.Machine.execLui d im s
  | .cmpeq d a b ta tb => Sys2Proof.Machine.execCmpeq d a b ta tb s
  | .cmpne d a b ta tb => Sys2Proof.Machine.execCmpne d a b ta tb s
  | .cmplt d a b ta tb => Sys2Proof.Machine.execCmplt d a b ta tb s
  | .cmpltu d a b ta tb => Sys2Proof.Machine.execCmpltu d a b ta tb s
  | .cmple d a b ta tb => Sys2Proof.Machine.execCmple d a b ta tb s
  | .cmpleu d a b ta tb => Sys2Proof.Machine.execCmpleu d a b ta tb s
  | .pand d a b => Sys2Proof.Machine.execPand d a b s
  | .por d a b => Sys2Proof.Machine.execPor d a b s
  | .pxor d a b => Sys2Proof.Machine.execPxor d a b s
  | .pandn d a b => Sys2Proof.Machine.execPandn d a b s
  | .pnot d a => Sys2Proof.Machine.execPnot d a s
  | .pmov d a => Sys2Proof.Machine.execPmov d a s
  | .pget d => Sys2Proof.Machine.execPget d s
  | .pset a ta => Sys2Proof.Machine.execPset a ta s
  | .cmpi p a c im => Sys2Proof.Machine.execCmpi p a c im s
  | .br n p o => Sys2Proof.Machine.execBr n p o s
  | .call o => Sys2Proof.Machine.execCall o s
  | .jr a ta => Sys2Proof.Machine.execJr a ta s
  | .jalr d a ta => Sys2Proof.Machine.execJalr d a ta s
  | .ret => Sys2Proof.Machine.execRet s
  | .spawn d a b ta tb => Sys2Proof.Machine.execSpawn d a b ta tb s
  | .halt => Sys2Proof.Machine.execHalt s
  | .yield => Sys2Proof.Machine.execYield s
  | .setrpt a ta => Sys2Proof.Machine.execSetrpt a ta s
  | .trap n => Sys2Proof.Machine.execTrap n s
  | .brk n => Sys2Proof.Machine.execBrk n s
  | .nop => Sys2Proof.Machine.execNop s
  | .waitstr m => Sys2Proof.Machine.execWaitstr m s
  | .mfs d n => Sys2Proof.Machine.execMfs d n s
  | .mts n a ta => Sys2Proof.Machine.execMts n a ta s
  | .safe mask => Sys2Proof.Machine.execSafe mask s
  | .lit d x => Sys2Proof.Machine.execLit d x s
  | .trel t => Sys2Proof.Machine.execTrel t s
  | .tmark t => Sys2Proof.Machine.execTmark t s
  | .tstat d t => Sys2Proof.Machine.execTstat d t s
  | .tclr t => Sys2Proof.Machine.execTclr t s
  | .lds d a sz o => Sys2Proof.Machine.execLds d a sz o s
  | .sts d a sz o => Sys2Proof.Machine.execSts d a sz o s
  | .ldg d h a sz o => Sys2Proof.Machine.execLdg d h a sz o s
  | .stg d h a sz o => Sys2Proof.Machine.execStg d h a sz o s
  | .xlate h a ta => Sys2Proof.Machine.execXlate h a ta s
  | .probe a b ta tb => Sys2Proof.Machine.execProbe a b ta tb s
  | .hrel h => Sys2Proof.Machine.execHrel h s
  | .hinfo d h => Sys2Proof.Machine.execHinfo d h s
  | .hrenew h => Sys2Proof.Machine.execHrenew h s
  | .amo d h a op sc z r => Sys2Proof.Machine.execAmo d h a op sc z r s
  | .fence sc => Sys2Proof.Machine.execFence sc s
  | .flush a b ta tb => Sys2Proof.Machine.execFlush a b ta tb s
  | .push a q ta => Sys2Proof.Machine.execPush a q ta s
  | .qroom d q => Sys2Proof.Machine.execQroom d q s
  | .wmark d q => Sys2Proof.Machine.execWmark d q s
  | .wmwait a q ta => Sys2Proof.Machine.execWmwait a q ta s
  | .bacq d n => Sys2Proof.Machine.execBacq d n s
  | .brel a n ta => Sys2Proof.Machine.execBrel a n ta s
  | .ksig g k amt tg => Sys2Proof.Machine.execKsig g k amt tg s
  | .kwait g k amt tg => Sys2Proof.Machine.execKwait g k amt tg s
  | .ktwait g k amt tg => Sys2Proof.Machine.execKtwait g k amt tg s
  | .kread g k => Sys2Proof.Machine.execKread g k s
  | .kset g k tg => Sys2Proof.Machine.execKset g k tg s
  | .carv g b => Sys2Proof.Machine.execCarv g b s
  | .cwait g b tg => Sys2Proof.Machine.execCwait g b tg s
  | .ctwait g b tg => Sys2Proof.Machine.execCtwait g b tg s
  | .cbset g b tg => Sys2Proof.Machine.execCbset g b tg s
  | .vadd d a b k ty => Sys2Proof.Machine.execVadd d a b k ty s
  | .vsub d a b k ty => Sys2Proof.Machine.execVsub d a b k ty s
  | .vmul d a b k ty => Sys2Proof.Machine.execVmul d a b k ty s
  | .vfma d a b k ty => Sys2Proof.Machine.execVfma d a b k ty s
  | .vmin d a b k ty => Sys2Proof.Machine.execVmin d a b k ty s
  | .vmax d a b k ty => Sys2Proof.Machine.execVmax d a b k ty s
  | .vsadd d a b k ty => Sys2Proof.Machine.execVsadd d a b k ty s
  | .vssub d a b k ty => Sys2Proof.Machine.execVssub d a b k ty s
  | .vand d a b k => Sys2Proof.Machine.execVand d a b k s
  | .vor d a b k => Sys2Proof.Machine.execVor d a b k s
  | .vxor d a b k => Sys2Proof.Machine.execVxor d a b k s
  | .vshl d a b k ty => Sys2Proof.Machine.execVshl d a b k ty s
  | .vshr d a b k ty => Sys2Proof.Machine.execVshr d a b k ty s
  | .vsra d a b k ty => Sys2Proof.Machine.execVsra d a b k ty s
  | .vabs d a k ty => Sys2Proof.Machine.execVabs d a k ty s
  | .vneg d a k ty => Sys2Proof.Machine.execVneg d a k ty s
  | .vcmpeq d a b k ty => Sys2Proof.Machine.execVcmpeq d a b k ty s
  | .vcmplt d a b k ty => Sys2Proof.Machine.execVcmplt d a b k ty s
  | .vcmple d a b k ty => Sys2Proof.Machine.execVcmple d a b k ty s
  | .vsel d a b k => Sys2Proof.Machine.execVsel d a b k s
  | .vmov d a k => Sys2Proof.Machine.execVmov d a k s
  | .vbcast d b k ty => Sys2Proof.Machine.execVbcast d b k ty s
  | .vext d a b k ty => Sys2Proof.Machine.execVext d a b k ty s
  | .vperm d a b k => Sys2Proof.Machine.execVperm d a b k s
  | .vcvt d a rm src k ty => Sys2Proof.Machine.execVcvt d a rm src k ty s
  | .vrcp d a k => Sys2Proof.Machine.execVrcp d a k s
  | .vrsq d a k => Sys2Proof.Machine.execVrsq d a k s
  | .vexp2 d a k => Sys2Proof.Machine.execVexp2 d a k s
  | .vlut d a b k ty => Sys2Proof.Machine.execVlut d a b k ty s
  | .vunpk3 d a sub h k => Sys2Proof.Machine.execVunpk3 d a sub h k s
  | .vtacc d a b k ty => Sys2Proof.Machine.execVtacc d a b k ty s
  | .vdot4 d a b k ty => Sys2Proof.Machine.execVdot4 d a b k ty s
  | .vlds d a im k => Sys2Proof.Machine.execVlds d a im k s
  | .vsts d a im k => Sys2Proof.Machine.execVsts d a im k s
  | .vldt d t b k => Sys2Proof.Machine.execVldt d t b k s
  | .vstt d t b k => Sys2Proof.Machine.execVstt d t b k s
  | .vldg d h b k => Sys2Proof.Machine.execVldg d h b k s
  | .vstg d h b k => Sys2Proof.Machine.execVstg d h b k s
  | .vgaths d a b k => Sys2Proof.Machine.execVgaths d a b k s
  | .vscats d a b k => Sys2Proof.Machine.execVscats d a b k s
  | .vrsum d a k ty => Sys2Proof.Machine.execVrsum d a k ty s
  | .vrmax d a k ty => Sys2Proof.Machine.execVrmax d a k ty s
  | .vrmin d a k ty => Sys2Proof.Machine.execVrmin d a k ty s
  | .vpfx d a k ty => Sys2Proof.Machine.execVpfx d a k ty s
  | .vmsk d a b f => Sys2Proof.Machine.execVmsk d a b f s
  | .vpop d a => Sys2Proof.Machine.execVpop d a s
  | .vcomp d a k => Sys2Proof.Machine.execVcomp d a k s
  | .viota d k => Sys2Proof.Machine.execViota d k s
  | .nset n a ta => Sys2Proof.Machine.execNset n a ta s
  | .nclr => Sys2Proof.Machine.execNclr s
  | .msrc n a ta => Sys2Proof.Machine.execMsrc n a ta s
  | .mdst d a b ta tb => Sys2Proof.Machine.execMdst d a b ta tb s
  | .mepi n a ta => Sys2Proof.Machine.execMepi n a ta s
  | .mmode c w ord asg => Sys2Proof.Machine.execMmode c w ord asg s
  | .mgo fa fb acc v tv => Sys2Proof.Machine.execMgo fa fb acc v tv s
  | .mwait => Sys2Proof.Machine.execMwait s
  | .mdrain n ds quant act bias a ipl satm ta => Sys2Proof.Machine.execMdrain n ds quant act bias a ipl satm ta s
  | .mazero n => Sys2Proof.Machine.execMazero n s
  | .mscacc n sfa sfb nsa nsb a b ta tb => Sys2Proof.Machine.execMscacc n sfa sfb nsa nsb a b ta tb s
  | .mstat d => Sys2Proof.Machine.execMstat d s
  | .mlut a ta => Sys2Proof.Machine.execMlut a ta s
  | .rst d a sz ta => Sys2Proof.Machine.execRst d a sz ta s
  | .rld d a sz ta => Sys2Proof.Machine.execRld d a sz ta s
  | .cnlaL d a h ta => Sys2Proof.Machine.execCnlaL d a h ta s
  | .cnlaI d a h ta => Sys2Proof.Machine.execCnlaI d a h ta s
  | .cnld d a h ta => Sys2Proof.Machine.execCnld d a h ta s
  | .cnhold d h => Sys2Proof.Machine.execCnhold d h s
  | .cndrop d h => Sys2Proof.Machine.execCndrop d h s
  | .rswap d a h ta => Sys2Proof.Machine.execRswap d a h ta s
  | .rget d hr hc => Sys2Proof.Machine.execRget d hr hc s
  | .cnhash d a h ta => Sys2Proof.Machine.execCnhash d a h ta s
  | .fst d a b ta tb => Sys2Proof.Machine.execFst d a b ta tb s
  | .fld d a b ta tb => Sys2Proof.Machine.execFld d a b ta tb s
  | .famo d a b ta tb => Sys2Proof.Machine.execFamo d a b ta tb s
  | .ffence => Sys2Proof.Machine.execFfence s
  | .fwait d => Sys2Proof.Machine.execFwait d s
  | .glaunch a b ta tb => Sys2Proof.Machine.execGlaunch a b ta tb s
  | .cNop => Sys2Proof.Machine.execCNop s
  | .cHalt => Sys2Proof.Machine.execCHalt s
  | .cYield => Sys2Proof.Machine.execCYield s
  | .cBrk => Sys2Proof.Machine.execCBrk s
  | .cIf p => Sys2Proof.Machine.execCIf p s
  | .cIfn p => Sys2Proof.Machine.execCIfn p s
  | .cMov d a => Sys2Proof.Machine.execCMov d a s
  | .cAddi d im => Sys2Proof.Machine.execCAddi d im s
  | .cAdd d b => Sys2Proof.Machine.execCAdd d b s
  | .cSub d b => Sys2Proof.Machine.execCSub d b s
  | .cLdsD d a o => Sys2Proof.Machine.execCLdsD d a o s
  | .cStsD d a o => Sys2Proof.Machine.execCStsD d a o s
  | .cBr o => Sys2Proof.Machine.execCBr o s
  | .cKsig k amt => Sys2Proof.Machine.execCKsig k amt s
  | .cKwait k amt => Sys2Proof.Machine.execCKwait k amt s
  | .cTrel t => Sys2Proof.Machine.execCTrel t s
  | .cTmark t => Sys2Proof.Machine.execCTmark t s
  | .cShli d n => Sys2Proof.Machine.execCShli d n s
  | .cLi d im => Sys2Proof.Machine.execCLi d im s
  | .copyin c q => Sys2Proof.Machine.execCopyin c q s
  | .copyout c q => Sys2Proof.Machine.execCopyout c q s
  | .decode c q => Sys2Proof.Machine.execDecode c q s
  | .encode c q => Sys2Proof.Machine.execEncode c q s
  | .fill c q => Sys2Proof.Machine.execFill c q s
  | .compact c q => Sys2Proof.Machine.execCompact c q s
  | .qfence c q => Sys2Proof.Machine.execQfence c q s
  | .layset c q => Sys2Proof.Machine.execLayset c q s
  | .laysync c q => Sys2Proof.Machine.execLaysync c q s
  | .resume c q => Sys2Proof.Machine.execResume c q s
  | .gather c q => Sys2Proof.Machine.execGather c q s
  | .scatter c q => Sys2Proof.Machine.execScatter c q s
  | .scatadd c q => Sys2Proof.Machine.execScatadd c q s
  | .madd c q => Sys2Proof.Machine.execMadd c q s
  | .mpfx c q => Sys2Proof.Machine.execMpfx c q s
  | .munion c q => Sys2Proof.Machine.execMunion c q s
  | .rsend c q => Sys2Proof.Machine.execRsend c q s
  | .rfetch c q => Sys2Proof.Machine.execRfetch c q s
  | .rsignal c q => Sys2Proof.Machine.execRsignal c q s
  | .cnout c q => Sys2Proof.Machine.execCnout c q s
  | .cnin c q => Sys2Proof.Machine.execCnin c q s
  | .cndiff c q => Sys2Proof.Machine.execCndiff c q s
  | .jobPop c q => Sys2Proof.Machine.execJobPop c q s
  | .semaphoreCycle c => Sys2Proof.Machine.execSemaphoreCycle c s
  | .ktwaitTimeout w til => Sys2Proof.Machine.execKtwaitTimeout w til s
  | .tileBitApply c => Sys2Proof.Machine.execTileBitApply c s
  | .leaveGrant d => Sys2Proof.Machine.execLeaveGrant d s
  | .jobComplete c q => Sys2Proof.Machine.execJobComplete c q s
  | .jobsDropped c q => Sys2Proof.Machine.execJobsDropped c q s
  | .gregFill w d x => Sys2Proof.Machine.execGregFill w d x s
  | .walkComplete w h x => Sys2Proof.Machine.execWalkComplete w h x s
  | .walkRestart w h x => Sys2Proof.Machine.execWalkRestart w h x s
  | .engineLeaseRenew c q => Sys2Proof.Machine.execEngineLeaseRenew c q s
  | .codeFetch w va => Sys2Proof.Machine.execCodeFetch w va s
  | .homeAccess a => Sys2Proof.Machine.execHomeAccess a s
  | .crossdieWriteApply d => Sys2Proof.Machine.execCrossdieWriteApply d s
  | .appliedCountReport d => Sys2Proof.Machine.execAppliedCountReport d s
  | .atomicWriteback sc point loc => Sys2Proof.Machine.execAtomicWriteback sc point loc s
  | .flushComplete w => Sys2Proof.Machine.execFlushComplete w s
  | .hostAccess pa n wr x => Sys2Proof.Machine.execHostAccess pa n wr x s
  | .clusterAccess w tgt off n x d => Sys2Proof.Machine.execClusterAccess w tgt off n x d s
  | .barrierApply k => Sys2Proof.Machine.execBarrierApply k s
  | .ctwaitTimeout w til => Sys2Proof.Machine.execCtwaitTimeout w til s
  | .multicastTimeout c til => Sys2Proof.Machine.execMulticastTimeout c til s
  | .multicastLoad c => Sys2Proof.Machine.execMulticastLoad c s
  | .stepBegin c => Sys2Proof.Machine.execStepBegin c s
  | .laneEvaluate c lane => Sys2Proof.Machine.execLaneEvaluate c lane s
  | .windowLoad c => Sys2Proof.Machine.execWindowLoad c s
  | .rodTakeItem c rod => Sys2Proof.Machine.execRodTakeItem c rod s
  | .itemArrival c rod => Sys2Proof.Machine.execItemArrival c rod s
  | .frameJobComplete c => Sys2Proof.Machine.execFrameJobComplete c s
  | .frameJobPause c => Sys2Proof.Machine.execFrameJobPause c s
  | .drainRowWrite c => Sys2Proof.Machine.execDrainRowWrite c s
  | .mlutCopyDone c => Sys2Proof.Machine.execMlutCopyDone c s
  | .reclaimLine => Sys2Proof.Machine.execReclaimLine s
  | .instanceDispatch => Sys2Proof.Machine.execInstanceDispatch s
  | .preemptRequest => Sys2Proof.Machine.execPreemptRequest s
  | .instanceSave k => Sys2Proof.Machine.execInstanceSave k s
  | .instanceResume k => Sys2Proof.Machine.execInstanceResume k s
  | .suspendTimeout k => Sys2Proof.Machine.execSuspendTimeout k s
  | .instanceRetire k => Sys2Proof.Machine.execInstanceRetire k s
  | .safepointOverrun w => Sys2Proof.Machine.execSafepointOverrun w s
  | .deadlockFault c => Sys2Proof.Machine.execDeadlockFault c s
  | .doorbellRecord n x => Sys2Proof.Machine.execDoorbellRecord n x s
  | .restart n => Sys2Proof.Machine.execRestart n s
  | .reload n => Sys2Proof.Machine.execReload n s
  | .wqConsume q => Sys2Proof.Machine.execWqConsume q s
  | .devqConsume q => Sys2Proof.Machine.execDevqConsume q s
  | .launch q e => Sys2Proof.Machine.execLaunch q e s
  | .struct q e => Sys2Proof.Machine.execStruct q e s
  | .conditionalRead r im => Sys2Proof.Machine.execConditionalRead r im s
  | .replayDone r => Sys2Proof.Machine.execReplayDone r s
  | .loadFigure => Sys2Proof.Machine.execLoadFigure s
  | .stealRequest => Sys2Proof.Machine.execStealRequest s
  | .stealGrant p slots => Sys2Proof.Machine.execStealGrant p slots s
  | .stolenArrival p x => Sys2Proof.Machine.execStolenArrival p x s
  | .stealRetireReport k => Sys2Proof.Machine.execStealRetireReport k s
  | .lcuMeasure d ofs => Sys2Proof.Machine.execLcuMeasure d ofs s
  | .skewResync d => Sys2Proof.Machine.execSkewResync d s
  | .skewResyncTimeout d => Sys2Proof.Machine.execSkewResyncTimeout d s
  | .dieFence d => Sys2Proof.Machine.execDieFence d s
  | .masterElection => Sys2Proof.Machine.execMasterElection s
  | .migrationArm d e x => Sys2Proof.Machine.execMigrationArm d e x s
  | .migrationRemove d e => Sys2Proof.Machine.execMigrationRemove d e s
  | .migrationLineCopy d e => Sys2Proof.Machine.execMigrationLineCopy d e s
  | .moduleStart u => Sys2Proof.Machine.execModuleStart u s
  | .tamperAlarm => Sys2Proof.Machine.execTamperAlarm s
  | .voltageGlitch => Sys2Proof.Machine.execVoltageGlitch s
  | .clockGlitch => Sys2Proof.Machine.execClockGlitch s
  | .coolantThrottle d => Sys2Proof.Machine.execCoolantThrottle d s
  | .pwrcapWrite d x => Sys2Proof.Machine.execPwrcapWrite d x s
  | .secstatAdv => Sys2Proof.Machine.execSecstatAdv s
  | .alarmpolWrite x => Sys2Proof.Machine.execAlarmpolWrite x s
  | .registerWrite off x host => Sys2Proof.Machine.execRegisterWrite off x host s
  | .fabrd => Sys2Proof.Machine.execFabrd s
  | .fabwr => Sys2Proof.Machine.execFabwr s
  | .kempub => Sys2Proof.Machine.execKempub s
  | .kekset => Sys2Proof.Machine.execKekset s
  | .linkkey => Sys2Proof.Machine.execLinkkey s
  | .cnkey => Sys2Proof.Machine.execCnkey s
  | .cnkeyclr => Sys2Proof.Machine.execCnkeyclr s
  | .spareret => Sys2Proof.Machine.execSpareret s
  | .quote => Sys2Proof.Machine.execQuote s
  | .mailboxComplete => Sys2Proof.Machine.execMailboxComplete s
  | .flitSend p d => Sys2Proof.Machine.execFlitSend p d s
  | .flitReceive p d f => Sys2Proof.Machine.execFlitReceive p d f s
  | .nakReceive p d ack => Sys2Proof.Machine.execNakReceive p d ack s
  | .retrainDone p d => Sys2Proof.Machine.execRetrainDone p d s
  | .retrainTimeout p d til => Sys2Proof.Machine.execRetrainTimeout p d til s
  | .laneRepair p tx d => Sys2Proof.Machine.execLaneRepair p tx d s
  | .write d x => Sys2Proof.Machine.execWrite d x s
  | .read d x => Sys2Proof.Machine.execRead d x s
  | .readresp x => Sys2Proof.Machine.execReadresp x s
  | .atomic d x => Sys2Proof.Machine.execAtomic d x s
  | .atomresp x => Sys2Proof.Machine.execAtomresp x s
  | .signal d x => Sys2Proof.Machine.execSignal d x s
  | .ack x => Sys2Proof.Machine.execAck x s
  | .steal p x => Sys2Proof.Machine.execSteal p x s
  | .heldRequestTimeout d n => Sys2Proof.Machine.execHeldRequestTimeout d n s
  | .remoteTimeout t => Sys2Proof.Machine.execRemoteTimeout t s
  | .clusterNetworkFlitFailure w => Sys2Proof.Machine.execClusterNetworkFlitFailure w s
  | .coolantBelowLimit d => Sys2Proof.Machine.execCoolantBelowLimit d s
  | .contentNamedOperation x => Sys2Proof.Machine.execContentNamedOperation x s
  | .vldgLanesArrive w d mask => Sys2Proof.Machine.execVldgLanesArrive w d mask s
  | .replicaAcknowledge d => Sys2Proof.Machine.execReplicaAcknowledge d s

end Sys2Proof.Machine
end

