-- ==== Sys2Proof/Machine/Step.lean ====
section
/-!
DEFINITION. One step: a step that is due, or the turn of one strand.
-/

namespace Sys2Proof.Machine

/-- An instruction, and after a guard the instruction it guards: they issue as one unit (R36). -/
def execUnit (i : Instr) (s : State) : Out :=
  match exec i s with
  | .next u =>
    if u.me.guard.isSome then
      match fetch u with
      | .stay t => .next t
      | .run j t => exec j t
    else .next u
  | r => r

/-- The turn of a strand: it fetches, and executes what it fetched. A strand that is held or does not run does
nothing. -/
def strandTurn (s : State) : Out :=
  if s.me.issues then
    match fetch s with
    | .stay t => .next t
    | .run i t => execUnit i t
  else .next s

/-- The machine's step: the first step due, or the turn of a strand and the end of its cycle. -/
def step (s : State) : Host.Outcome State Fault Refusal :=
  match s.nextEvent with
  | some (e, t) => runEvent e t
  | none =>
    match strandTurn s with
    | .next t => .next t.tick
    | r => r

/-- The strand that executes the class of a first halfword: V for the V-class majors, M for `MTX.R`, S otherwise
(R17). -/
def strandFor (h : Half) : StrandId :=
  if h.toNat / 8192 = 7 then
    let major := h.toNat / 256 % 32
    if 0x18 ≤ major ∧ major ≤ 0x1D then .v else if major = 0x1E then .m else .s
  else .s

/-- The state with an instruction where `step` fetches next: on core 0, in the loop buffer of the strand of its class,
at the strand's PC inside a body that holds it. -/
def State.withFetchWord (s : State) (nbits w : Nat) : State :=
  let hs := tableHalfwords nbits w
  let sid := strandFor ((hs.head?).getD 0)
  let who : Who := ⟨0, sid⟩
  let z := s.strand who
  let pc := lineBase z.pc
  let z := { z with
    life := .running, held := .no, cond := .issuing, pc := pc, guard := none,
    block := { inBody := true, start := pc, len := 32, remain := 1 }
    lines := [{ addr := pc, halves := hs ++ List.replicate 26 0 }] }
  let k := ((s.core 0).inst).getD 0
  let s := s.setInst k { s.getInst k with status := .running, cores := [0], stop := false, preq := false }
  let s := s.setCore 0 { s.core 0 with inst := some k }
  { s.setStrand who z with agenda := [], turn := who, roster := [] }

end Sys2Proof.Machine
end

