-- ==== Sys2Proof/Certificates/Slice0/Obligations.lean ====
section
/-!
DEFINITION. The statements for the provers, and the words they are stated in.
-/

open Sys2Proof Sys2Proof.Machine

namespace Sys2Proof.Claims

/-! ### Words of the statements -/

/-- All three strands execute the instruction (R17). -/
abbrev everyStrand : List StrandId := [.s, .v, .m]

/-- SPCNT has reached its bound while a pre-emption is asked for: the next unit is the overrun of R119. -/
abbrev Overrun (s : State) : Prop := s.myInst.preq = true ∧ 4096 ≤ s.me.spr.spcnt.toNat

/-- The strand whose turn it is can issue an instruction of the strands `on`: it runs and is not held, its guard did not
fail, and the registers named are full, with no earlier result on its way into one (R17, R23, R24, R25, R36). -/
abbrev CanIssue (s : State) (on : List StrandId) (regs : List GReg) : Prop :=
  s.me.issues = true ∧ s.turn.strand ∈ on ∧ s.me.guard ≠ some false ∧ (∀ r ∈ regs, s.me.isFull r = true) ∧ s.resultDue regs [] = false

/-- It can issue, and no safe-point overrun comes first (R119). -/
abbrev Ready (s : State) (on : List StrandId) (regs : List GReg) : Prop := CanIssue s on regs ∧ ¬Overrun s

/-- SPCNT after one more unit (R55, R118). -/
def unitsAfter (n : BitVec 13) : BitVec 13 := BitVec.ofNat 13 (min 8191 (n.toNat + 1))

/-- The address of the halfword after a unit of `len` halfwords. -/
def after (z : Strand) (len : Nat) : Dword := z.pc + BitVec.ofNat 64 (2 * len)

/-- The unit ends with the last halfword of its body (R31). -/
abbrev EndsPass (z : Strand) (len : Nat) : Prop := after z len = z.block.start + BitVec.ofNat 64 (2 * z.block.len)

/-- Where the strand goes on after a unit of `len` halfwords (R31). -/
def passed (z : Strand) (len : Nat) : Strand :=
  if EndsPass z len ∧ 1 < z.block.remain then
    { z with pc := z.block.start, block := { z.block with remain := z.block.remain - 1 }, guard := none, cond := .issuing }
  else if EndsPass z len then
    { z with pc := after z len, block := { z.block with inBody := false, remain := 0 }, guard := none, cond := .issuing }
  else { z with pc := after z len, guard := none, cond := .issuing }

/-- The strand counts one unit in SPCNT. -/
def counted (z : Strand) : Strand := { z with spr := { z.spr with spcnt := unitsAfter z.spr.spcnt } }

/-- A strand past a unit of `len` halfwords that left it as `z`. -/
def gone (z : Strand) (len : Nat) : Strand := passed (counted z) len

/-- The next state when all that the instruction changes is its strand, which it leaves as `z`. -/
def leaves (s : State) (len : Nat) (z : Strand) : Out := .next (s.setMe (gone z len))

/-- The next state when the instruction writes `x` to `g[d]`, where a write of `g0` is discarded, and nothing else (R87). -/
def puts (s : State) (len : Nat) (d : GReg) (x : Dword) : Out := leaves s len (s.me.wg d x)

/-- The next state when the instruction writes `b` to `p[d]`, where a write of `p0` is discarded, and nothing else (R87). -/
def putsP (s : State) (d : PReg) (b : Bool) : Out := leaves s 2 (s.me.wp d b)

/-- The strand in front of the block header at `target` (R32). -/
def entered (z : Strand) (target : Dword) : Strand :=
  { counted z with pc := target, guard := none, cond := .issuing, block := { z.block with inBody := false, remain := 0 } }

/-- Bits of a field of `n` bits from `pos` up. -/
def inField (pos n i : Nat) : Bool := decide (pos ≤ i ∧ i < pos + n)

/-- A precise fault of the strand whose turn it is, at its unit (R111). -/
def traps (s : State) (cause : BitVec 16) : Out := .next (s.trap cause 0 0)

/-- The strand has not moved past its unit, and its registers stand. -/
def Stays (s t : State) (c : StrandCond) : Prop :=
  t.me.pc = s.me.unitPc ∧ t.me.guard = none ∧ t.me.cond = c ∧ (∀ r, t.me.rg r = s.me.rg r) ∧ t.me.full = s.me.full ∧
  t.me.p = s.me.p ∧ t.mem = s.mem

/-- The strand waits: it has not moved, and nothing else has changed. -/
def Waits (s : State) (i : Instr) (c : StrandCond) : Prop := ∃ t, exec i s = .next t ∧ Stays s t c

/-- The strand issues, with no guard before the instruction. -/
abbrev Begins (s : State) : Prop := s.me.issues = true ∧ s.me.guard = none

end Sys2Proof.Claims

open Sys2Proof.Claims

/-! ### Strand instructions (05) -/

/-- R89: the integer instructions of two `g` sources, shifts by an immediate and counts, on every strand. -/
def Obligations.IntegerResults : Prop :=
  ∀ (s : State) (d a b : GReg) (n : BitVec 6) (ta tb : Bool), Ready s everyStrand [a, b, d] →
    let x := s.me.rg a
    let y := s.me.rg b
    exec (.add d a b ta tb) s = puts s 2 d (x + y) ∧
    exec (.sub d a b ta tb) s = puts s 2 d (x - y) ∧
    exec (.mul d a b ta tb) s = puts s 2 d (BitVec.ofNat 64 (x.toNat * y.toNat)) ∧
    exec (.mulhs d a b ta tb) s = puts s 2 d ((x.signExtend 128 * y.signExtend 128).extractLsb' 64 64) ∧
    exec (.mulhu d a b ta tb) s = puts s 2 d ((x.setWidth 128 * y.setWidth 128).extractLsb' 64 64) ∧
    exec (.and d a b ta tb) s = puts s 2 d (x &&& y) ∧
    exec (.or d a b ta tb) s = puts s 2 d (x ||| y) ∧
    exec (.xor d a b ta tb) s = puts s 2 d (x ^^^ y) ∧
    exec (.andn d a b ta tb) s = puts s 2 d (x &&& ~~~y) ∧
    exec (.shl d a b ta tb) s = puts s 2 d (x <<< (y.toNat % 64)) ∧
    exec (.shr d a b ta tb) s = puts s 2 d (x >>> (y.toNat % 64)) ∧
    exec (.sra d a b ta tb) s = puts s 2 d (BitVec.ofInt 64 (x.toInt / 2 ^ (y.toNat % 64))) ∧
    exec (.mins d a b ta tb) s = puts s 2 d (if y.toInt ≤ x.toInt then y else x) ∧
    exec (.minu d a b ta tb) s = puts s 2 d (if y.toNat ≤ x.toNat then y else x) ∧
    exec (.maxs d a b ta tb) s = puts s 2 d (if x.toInt ≤ y.toInt then y else x) ∧
    exec (.maxu d a b ta tb) s = puts s 2 d (if x.toNat ≤ y.toNat then y else x) ∧
    exec (.rol d a b ta tb) s = puts s 2 d (x <<< (y.toNat % 64) ||| x >>> (64 - y.toNat % 64)) ∧
    exec (.addx8 d a b ta tb) s = puts s 2 d (x + 8 * y) ∧
    exec (.shli d a n ta) s = puts s 2 d (x <<< n.toNat) ∧
    exec (.shri d a n ta) s = puts s 2 d (x >>> n.toNat) ∧
    exec (.srai d a n ta) s = puts s 2 d (BitVec.ofInt 64 (x.toInt / 2 ^ n.toNat)) ∧
    exec (.popc d a ta) s = puts s 2 d (BitVec.ofNat 64 ((List.range 64).countP fun i => x.getLsbD i)) ∧
    (∃ k, k ≤ 64 ∧ exec (.clz d a ta) s = puts s 2 d (BitVec.ofNat 64 k) ∧ (∀ i, 64 - k ≤ i → x.getLsbD i = false) ∧
      (k < 64 → x.getLsbD (63 - k) = true)) ∧
    (∃ k, k ≤ 64 ∧ exec (.ctz d a ta) s = puts s 2 d (BitVec.ofNat 64 k) ∧ (∀ i, i < k → x.getLsbD i = false) ∧
      (k < 64 → x.getLsbD k = true))

/-- R90: division and remainder, with the zero divisor's result, and its IDZ flag when the result comes; the one quotient that
does not fit. A division waits while one whose flag has yet to come is under way. R91: field extract and insert, bit by bit; BFI
keeps the bits of `g[D]` outside the field, and an empty `g[D]` blocks it. -/
def Obligations.DivisionsAndFields : Prop :=
  ((∀ (s : State) (d a b : GReg) (ta tb : Bool), Ready s everyStrand [a, b, d] → s.dividing = false →
     let x := s.me.rg a
     let y := s.me.rg b
     let q := if x.toInt = -2 ^ 63 ∧ y.toInt = -1 then 0x8000000000000000#64 else BitVec.ofInt 64 (x.toInt.tdiv y.toInt)
     let r := if x.toInt = -2 ^ 63 ∧ y.toInt = -1 then 0#64 else x - q * y
     let byZero (v : Dword) : Out := .next ((s.setMe (gone (s.me.wg d v) 2)).timer (s.time.toNat + 34)
       (.resultReady s.turn (if d = 0 then none else some d) none 0x100 0))
     (y ≠ 0 →
       exec (.divs d a b ta tb) s = puts s 2 d q ∧
       exec (.divu d a b ta tb) s = puts s 2 d (BitVec.ofNat 64 (x.toNat / y.toNat)) ∧
       exec (.rems d a b ta tb) s = puts s 2 d r ∧
       exec (.remu d a b ta tb) s = puts s 2 d (x - BitVec.ofNat 64 (x.toNat / y.toNat) * y)) ∧
     (y = 0 →
       exec (.divs d a b ta tb) s = byZero 0xFFFFFFFFFFFFFFFF ∧
       exec (.divu d a b ta tb) s = byZero 0xFFFFFFFFFFFFFFFF ∧
       exec (.rems d a b ta tb) s = byZero x ∧
       exec (.remu d a b ta tb) s = byZero x)) ∧
   (∀ (s : State) (d a b : GReg) (ta tb : Bool) (e : Nat × Event) (g : Option GReg) (v : Option VReg) (n : Nat),
      Begins s → (∀ r ∈ [a, b, d], s.me.isFull r = true) → s.resultDue [a, b, d] [] = false →
      e ∈ s.timers → e.2 = .resultReady s.turn g v 0x100 n →
      Waits s (.divs d a b ta tb) .interlock ∧ Waits s (.divu d a b ta tb) .interlock ∧ Waits s (.rems d a b ta tb) .interlock ∧
      Waits s (.remu d a b ta tb) .interlock)) ∧
  ((∀ (s : State) (d a b : GReg) (ta tb : Bool), Ready s everyStrand [a, b, d] →
      let x := s.me.rg a
      let y := s.me.rg b
      let pos := y.toNat % 64
      let wid := min (y.toNat / 256 % 128) 64
      let n := min wid (64 - pos)
      (∃ v, exec (.bfx d a b ta tb) s = puts s 2 d v ∧
        ∀ i, i < 64 → v.getLsbD i = (decide (i < n) && x.getLsbD (pos + i))) ∧
      (∃ v, exec (.bfi d a b ta tb) s = puts s 2 d v ∧
        ∀ i, i < 64 → v.getLsbD i = if inField pos n i then x.getLsbD (i - pos) else (s.me.rg d).getLsbD i)) ∧
   (∀ (s : State) (d a b : GReg) (ta tb : Bool), Begins s → s.me.isFull d = false → Waits s (.bfi d a b ta tb) .fullEmpty))

/-- R92 and R93: the immediate forms and the constants. R108: each compact form of one halfword has the effect of the
instruction it aliases. -/
def Obligations.ConstantsAndCompacts : Prop :=
  (∀ (s : State) (d a : GReg) (i : BitVec 12) (u : BitVec 18) (v : Dword), Ready s everyStrand [a, d] →
     let x := s.me.rg a
     exec (.addi d a i) s = puts s 2 d (BitVec.ofInt 64 (x.toInt + i.toInt)) ∧
     exec (.andi d a i) s = puts s 2 d (x &&& BitVec.ofInt 64 i.toInt) ∧
     exec (.ori d a i) s = puts s 2 d (x ||| BitVec.ofInt 64 i.toInt) ∧
     exec (.xori d a i) s = puts s 2 d (x ^^^ BitVec.ofInt 64 i.toInt) ∧
     exec (.lui d u) s = puts s 2 d (BitVec.ofInt 64 (u.toInt * 2 ^ 12)) ∧
     exec (.lit d v) s = puts s 6 d v) ∧
  (∀ (s : State) (d a : GReg) (e : BitVec 4) (i : Byte) (n : BitVec 6), Ready s everyStrand [d, a, e.setWidth 6] →
     let x := s.me.rg a
     let y := s.me.rg d
     let w : GReg := e.setWidth 6
     exec (.cMov d a) s = puts s 1 d x ∧
     exec (.cAddi e i) s = puts s 1 w (BitVec.ofInt 64 ((s.me.rg w).toInt + i.toInt)) ∧
     exec (.cAdd d a) s = puts s 1 d (y + x) ∧
     exec (.cSub d a) s = puts s 1 d (y - x) ∧
     exec (.cShli d n) s = puts s 1 d (y <<< n.toNat) ∧
     exec (.cLi e i) s = puts s 1 w (BitVec.ofNat 64 i.toNat) ∧
     exec .cNop s = leaves s 1 s.me ∧
     exec .nop s = leaves s 2 s.me)

/-- R94 and R95: compares of registers and with a sign-extended immediate, whose empty source blocks. R94: predicate logic, and
the moves between the predicates and a `g` register. -/
def Obligations.ComparesAndPredicates : Prop :=
  ((∀ (s : State) (d : PReg) (a b : GReg) (i : BitVec 9) (ta tb : Bool), Ready s everyStrand [a, b] →
      let x := s.me.rg a
      let y := s.me.rg b
      let k : Dword := BitVec.ofInt 64 i.toInt
      exec (.cmpeq d a b ta tb) s = putsP s d (decide (x = y)) ∧
      exec (.cmpne d a b ta tb) s = putsP s d (decide (x ≠ y)) ∧
      exec (.cmplt d a b ta tb) s = putsP s d (decide (x.toInt < y.toInt)) ∧
      exec (.cmpltu d a b ta tb) s = putsP s d (decide (x.toNat < y.toNat)) ∧
      exec (.cmple d a b ta tb) s = putsP s d (decide (x.toInt ≤ y.toInt)) ∧
      exec (.cmpleu d a b ta tb) s = putsP s d (decide (x.toNat ≤ y.toNat)) ∧
      exec (.cmpi d a .eq i) s = putsP s d (decide (x = k)) ∧
      exec (.cmpi d a .ne i) s = putsP s d (decide (x ≠ k)) ∧
      exec (.cmpi d a .lt i) s = putsP s d (decide (x.toInt < i.toInt)) ∧
      exec (.cmpi d a .ltu i) s = putsP s d (decide (x.toNat < k.toNat)) ∧
      exec (.cmpi d a .le i) s = putsP s d (decide (x.toInt ≤ i.toInt)) ∧
      exec (.cmpi d a .leu i) s = putsP s d (decide (x.toNat ≤ k.toNat)) ∧
      exec (.cmpi d a .gt i) s = putsP s d (decide (i.toInt < x.toInt)) ∧
      exec (.cmpi d a .gtu i) s = putsP s d (decide (k.toNat < x.toNat))) ∧
   (∀ (s : State) (d : PReg) (a : GReg) (c : Cond) (i : BitVec 9), Begins s → s.me.isFull a = false → Waits s (.cmpi d a c i) .fullEmpty)) ∧
  (∀ (s : State) (d a b : PReg) (r : GReg) (ta : Bool), Ready s everyStrand [r] →
     let x := s.me.rp a
     let y := s.me.rp b
     exec (.pand d a b) s = putsP s d (x && y) ∧
     exec (.por d a b) s = putsP s d (x || y) ∧
     exec (.pxor d a b) s = putsP s d (x != y) ∧
     exec (.pandn d a b) s = putsP s d (x && !y) ∧
     exec (.pnot d a) s = putsP s d (!x) ∧
     exec (.pmov d a) s = putsP s d x ∧
     (∃ v, exec (.pget r) s = puts s 2 r v ∧ ∀ i : Fin 64, v.getLsbD i = s.me.rp (BitVec.ofFin i)) ∧
     (∃ q, exec (.pset r ta) s = leaves s 2 { s.me with p := q } ∧
       ∀ i : Fin 64, i ≠ 0 → q.getLsbD i = (s.me.rg r).getLsbD i))

/-- R96, R97 and R98: branches, the call and the register jumps, with the targets that trap and change nothing; an empty `g63`
holds CALL and RET up. -/
def Obligations.Branches : Prop :=
  (∀ (s : State) (n : Bool) (p : PReg) (o : BitVec 17) (c : BitVec 24) (w : BitVec 12) (d a : GReg) (ta : Bool),
     Ready s everyStrand [a, d, 63] →
     let go (off : Int) (z : Strand) : Out :=
       let t : Int := s.me.pc.toNat + 2 * off
       if 0 ≤ t ∧ t < 2 ^ 45 then .next (s.setMe (entered z (BitVec.ofInt 64 t))) else traps s 0x0002
     let jump (t : Dword) (z : Strand) : Out :=
       if t.toNat % 2 = 0 ∧ t.toNat < 2 ^ 45 then .next (s.setMe (entered z t)) else traps s 0x0002
     exec (.br n p o) s = (if s.me.rp p ≠ n then go o.toInt s.me else leaves s 2 s.me) ∧
     exec (.cBr w) s = go w.toInt s.me ∧
     exec (.call c) s = go c.toInt (s.me.wg 63 (s.me.pc + 4)) ∧
     exec (.jr a ta) s = jump (s.me.rg a) s.me ∧
     exec (.jalr d a ta) s = jump (s.me.rg a) (s.me.wg d (s.me.pc + 4)) ∧
     exec .ret s = jump (s.me.rg 63) s.me) ∧
  (∀ (s : State) (c : BitVec 24), Begins s → s.me.isFull 63 = false → Waits s (.call c) .interlock ∧ Waits s .ret .fullEmpty)

namespace Sys2Proof.Claims

/-- The strand an SPAWN of strand number `n` starts (R99). -/
def spawned (s : State) (n : Dword) : Who := ⟨s.turn.core, if n = 1 then .v else .m⟩

/-- A strand as its instance start or its SPAWN leaves it (R20, R35, R37, R118). -/
def Fresh (z : Strand) (entry arg : Dword) (i : Inst) (now : Dword) : Prop :=
  z.life = .running ∧ z.held = .no ∧ z.pc = entry ∧ z.block.inBody = false ∧ z.rg 1 = arg ∧ (z.rg 2).toNat = i.iid.toNat ∧
  (z.rg 3).toNat = i.count.toNat ∧ (∀ r : GReg, r ≠ 1 → r ≠ 2 → r ≠ 3 → z.rg r = 0) ∧ (∀ r, z.isFull r = true) ∧
  (∀ n : PReg, n ≠ 0 → z.rp n = false) ∧ (∀ h, (z.rh h).state = .invalid) ∧ (∀ k : MReg, k ≠ 0 → z.rm k = 0) ∧
  (∀ r, z.rv r = Vector.replicate 64 0) ∧ z.spr.rc = 0 ∧ z.spr.vc = 64 ∧ z.spr.fst = 0 ∧ z.spr.corr = 0 ∧ z.spr.drop = 0 ∧
  z.spr.cyc0 = now ∧ z.spr.spcnt = 0 ∧ z.spr.space = i.space ∧ z.lines = []

/-- Nothing the strand `w` issued is on its way, and it does not run (R38, R101). -/
abbrev Through (s : State) (w : Who) : Prop := (s.strand w).life ≠ .running ∧ s.inFlight w = false

/-- What MFS reads of each register but SPCNT (R21, R22, R55). -/
def mfsValue (s : State) (n : Nat) : Dword :=
  let z := s.me
  let i := s.myInst
  match n with
  | 0 => s.dieTime (dieOf s.turn.core)
  | 1 => s.now - z.spr.cyc0
  | 2 => match s.turn.strand with | .s => 0 | .v => 1 | .m => 2
  | 3 => BitVec.ofNat 64 (s.peer.toNat * 2 ^ 9 + s.turn.core.val)
  | 4 => BitVec.ofNat 64 i.iid.toNat
  | 5 => BitVec.ofNat 64 z.spr.rc.toNat
  | 6 => BitVec.ofNat 64 z.spr.vc.toNat
  | 7 => BitVec.ofNat 64 z.spr.fst.toNat
  | 8 => BitVec.ofNat 64 (z.spr.corr.toNat + z.spr.drop.toNat * 2 ^ 32)
  | 9 => BitVec.ofNat 64 z.spr.cnst.toNat
  | 10 => BitVec.ofNat 64 s.peer.toNat
  | 11 => BitVec.ofNat 64 z.spr.space.toNat
  | 12 => i.frec
  | 13 => BitVec.ofNat 64 z.spr.tcause.toNat
  | 15 => if i.preq then 1 else 0
  | 16 => BitVec.ofNat 64 z.spr.fwst.toNat
  | 17 => BitVec.ofNat 64 i.epri.toNat
  | 18 => BitVec.ofNat 64 i.leaf.toNat
  | _ => 0

/-- FST with the flags that the device raises for the strand in this cycle (R22). -/
def raised (s : State) (f : Flags) : Flags :=
  (s.cycle.flags.filter fun e => e.1 == s.turn).foldl (fun f e => f ||| e.2) f

/-- What the device counts for the strand in this cycle (R22). -/
def met (s : State) (n : Who × Nat × Nat → Nat) : Nat := ((s.cycle.errs.filter fun e => e.1 == s.turn).map n).sum

/-- A count of 32 bits that holds at its largest value (R22). -/
def heldSum (x n : Nat) : Word := BitVec.ofNat 32 (min 0xFFFFFFFF (x + n))

/-- What a change of a tile bit leaves put off (R28, R107). -/
def putOffTile (s : State) (len : Nat) (t : TReg) (full : Bool) : Out :=
  let x := s.here
  let u := s.setHere { x with tileChanges := x.tileChanges ++ [{ strand := s.turn.strand, tile := t, full := full }] }
  .next ((u.setMe (gone s.me len)).due (.tileBitApply s.turn.core))

end Sys2Proof.Claims

/-- R99 and R20: SPAWN of an IDLE strand, and the traps of its checks, which change nothing. R39 and R100: HALT ends the
strand's issue, leaves its registers, the other strands and memory, and lets the instance retire. R38 and R101: WAITSTR
completes as soon as every strand it names is through, and waits before then; an access, a result or a barrier operation of a
strand that is on its way keeps it from being through. -/
def Obligations.StrandLife : Prop :=
  (∀ (s : State) (d a b : GReg) (ta tb : Bool), Ready s [.s] [a, b, d] →
     let n := s.me.rg d
     let entry := s.me.rg a
     let w := spawned s n
     ((n = 1 ∨ n = 2) → (s.strand w).life = .idle → entry.toNat % 2 = 0 → entry.toNat < 2 ^ 45 →
       ∃ z, Fresh z entry (s.me.rg b) s.myInst s.now ∧
         exec (.spawn d a b ta tb) s =
           .next (({ s.setStrand w z with roster := s.roster ++ [w] } : State).setMe (gone s.me 2))) ∧
     (n ≠ 1 → n ≠ 2 → exec (.spawn d a b ta tb) s = traps s 0x0002) ∧
     ((n = 1 ∨ n = 2) → (s.strand w).life ≠ .idle → exec (.spawn d a b ta tb) s = traps s 0x0002) ∧
     ((n = 1 ∨ n = 2) → (entry.toNat % 2 = 1 ∨ 2 ^ 45 ≤ entry.toNat) → exec (.spawn d a b ta tb) s = traps s 0x0002)) ∧
  (∀ (s : State), Ready s everyStrand [] → ∀ i ∈ [Instr.halt, Instr.cHalt],
     ∃ t, exec i s = .next t ∧ t.me.life = .halted ∧ (∀ r, t.me.rg r = s.me.rg r) ∧ t.me.full = s.me.full ∧
       t.me.p = s.me.p ∧ (∀ w, w ≠ s.turn → t.strand w = s.strand w) ∧ t.mem = s.mem ∧
       ∀ k, s.here.inst = some k → Event.instanceRetire k ∈ t.agenda) ∧
  (∀ (s : State) (m : BitVec 2), Ready s [.s] [] →
     let v : Who := ⟨s.turn.core, .v⟩
     let w : Who := ⟨s.turn.core, .m⟩
     ((m.getLsbD 0 = true → Through s v) → (m.getLsbD 1 = true → Through s w) →
       exec (.waitstr m) s = leaves s 2 s.me) ∧
     ((m.getLsbD 0 = true ∧ ¬Through s v ∨ m.getLsbD 1 = true ∧ ¬Through s w) →
       ∃ t, exec (.waitstr m) s = .next t ∧ Stays s t .strandWait) ∧
     (∀ x : Who, ((∃ a : Access, a.who = x ∧ Event.homeAccess a ∈ s.agenda) ∨
         (∃ e ∈ s.timers, ∃ g v f n, e.2 = .resultReady x g v f n) ∨ (∃ o ∈ (s.cluster (clusterOf x.core)).ops, o.who = x)) →
       ¬Through s x))

/-- R102 and R106: a safe point with nothing to stop for makes SPCNT 0; while the instance is to stop, for a pre-emption or for
a fault of another of its strands (R115), the strand stops there with the registers of its mask live. R104: TRAP and BRK
complete, and then raise their trap with n, the PC at the halfword after them. -/
def Obligations.SafePointsAndTraps : Prop :=
  (∀ (s : State) (mask : Dword), CanIssue s everyStrand [] →
     let z : Strand := { s.me with spr := { s.me.spr with spcnt := 0 } }
     ((s.myInst.preq = false ∧ s.myInst.stop = false) →
       exec (.safe mask) s = .next (s.setMe (passed z 6)) ∧
       exec .yield s = .next (s.setMe (passed z 2)) ∧
       exec .cYield s = .next (s.setMe (passed z 1))) ∧
     ((s.myInst.preq = true ∨ s.myInst.stop = true) →
       (∃ t, exec (.safe mask) s = .next t ∧ t.me.held = .atSafe mask ∧ t.me.spr.spcnt = 0 ∧ t.me.pc = (passed z 6).pc ∧ ∀ r, t.me.rg r = s.me.rg r) ∧
       (∃ t, exec .yield s = .next t ∧ t.me.held = .atSafe (BitVec.allOnes 64) ∧ t.me.spr.spcnt = 0 ∧ t.me.pc = (passed z 2).pc ∧
         ∀ r, t.me.rg r = s.me.rg r) ∧
       (∃ t, exec .cYield s = .next t ∧ t.me.held = .atSafe (BitVec.allOnes 64) ∧ t.me.spr.spcnt = 0 ∧ t.me.pc = (passed z 1).pc ∧
         ∀ r, t.me.rg r = s.me.rg r))) ∧
  (∀ (s : State) (n : BitVec 6), Ready s everyStrand [] →
     exec (.trap n) s = .next ((s.setMe (gone s.me 2)).faultAt s.turn 0x0004 (n.setWidth 8) 0 0) ∧
     exec (.brk n) s = .next ((s.setMe (gone s.me 2)).faultAt s.turn 0x0005 (n.setWidth 8) 0 0) ∧
     exec .cBrk s = .next ((s.setMe (gone s.me 1)).faultAt s.turn 0x0005 0 0 0))

/-- R21, R22, R103 and R105: what MFS reads of each special register (of SPCNT, log entry 12, only that a value is written),
what SETRPT and MTS write to RC, VC, FST, ERRC and SPACE, with what the device adds to FST and ERRC in the same cycle, SPACE in
a privileged instance alone, and the numbers that trap. -/
def Obligations.SpecialRegisters : Prop :=
  ∀ (s : State) (d a : GReg) (n : BitVec 6) (ta : Bool), Ready s everyStrand [a, d] →
    let z := s.me
    let x := s.me.rg a
    (n.toNat ≤ 18 → n ≠ 14 → (n = 9 → s.namesOut s.turn = false) → exec (.mfs d n) s = puts s 2 d (mfsValue s n.toNat)) ∧
    (n.toNat = 14 → ∃ v, exec (.mfs d n) s = puts s 2 d v) ∧
    (18 < n.toNat → exec (.mfs d n) s = traps s 0x0001) ∧
    exec (.setrpt a ta) s = leaves s 2 { z with spr := { z.spr with rc := BitVec.ofNat 32 x.toNat } } ∧
    exec (.mts 5 a ta) s = leaves s 2 { z with spr := { z.spr with rc := BitVec.ofNat 32 x.toNat } } ∧
    exec (.mts 6 a ta) s = leaves s 2 { z with spr := { z.spr with vc := if 64 < x.toNat then 64 else BitVec.ofNat 7 x.toNat } } ∧
    exec (.mts 7 a ta) s = leaves s 2 { z with spr := { z.spr with fst := raised s (BitVec.ofNat 9 x.toNat) } } ∧
    exec (.mts 8 a ta) s =
      leaves s 2 { z with spr := { z.spr with
        corr := heldSum (x.toNat % 2 ^ 32) (met s fun e => e.2.1)
        drop := heldSum (x.toNat / 2 ^ 32) (met s fun e => e.2.2) } } ∧
    (s.myInst.priv = true → exec (.mts 11 a ta) s =
      leaves s 2 { z with spr := { z.spr with space := BitVec.ofNat 16 x.toNat }, h := Vector.replicate 16 Handle.none, lease := none }) ∧
    (s.myInst.priv = false → exec (.mts 11 a ta) s = traps s 0x0001) ∧
    (n ∉ [5, 6, 7, 8, 11] → exec (.mts n a ta) s = traps s 0x0001)

/-- R28 and R107: the tile bits. A put-off change is applied in the order S, V, M; TCLR clears rows and bit. -/
def Obligations.TileBits : Prop :=
  (∀ (s : State) (d : GReg) (t : TReg), Ready s everyStrand [d] →
    exec (.trel t) s = putOffTile s 2 t false ∧
    exec (.tmark t) s = putOffTile s 2 t true ∧
    exec (.cTrel t) s = putOffTile s 1 t false ∧
    exec (.cTmark t) s = putOffTile s 1 t true ∧
    exec (.tstat d t) s = puts s 2 d (if s.here.tileFull.getLsbD t.toNat then 1 else 0) ∧
    (s.here.tileChanges = [] → s.here.frame.drain = none → (∀ q : QueueId, ∀ j ∈ (s.here.queue q).jobs, j.state ≠ .running) →
      ∃ u, exec (.tclr t) s = .next u ∧ u.me = gone s.me 2 ∧ (∀ w, w ≠ s.turn → u.strand w = s.strand w) ∧ u.mem = s.mem ∧
        u.here.tileFull = s.here.tileFull &&& ~~~(1#16 <<< t.toNat) ∧
        ∀ a, u.here.tiles.get a = if a / 16384 = t.toNat then 0 else s.here.tiles.get a)) ∧
  (∀ (s : State) (c : CoreId),
    let of (i : StrandId) := (s.core c).tileChanges.filter fun x => x.strand == i
    let order := of .s ++ of .v ++ of .m
    ∃ u, exec (.tileBitApply c) s = .next u ∧ (u.core c).tileChanges = [] ∧ u.mem = s.mem ∧ (∀ w, u.strand w = s.strand w) ∧
      ∀ t : TReg, (u.core c).tileFull.getLsbD t.toNat =
        match (order.filter fun x => x.tile == t).getLast? with
        | some x => x.full
        | none => (s.core c).tileFull.getLsbD t.toNat)

namespace Sys2Proof.Claims

/-- Bytes of an access size (R42). -/
def width : Size → Nat
  | .b => 1 | .h => 2 | .w => 4 | .d => 8

/-- The scratchpad offset of R43: the base's low 32 bits and a scaled offset, modulo 2^32. -/
def spadOffset (s : State) (a : GReg) (off : Int) : Nat := (((s.me.rg a).toNat + off) % 2 ^ 32).toNat

/-- The access is aligned and lies within the 1.5 MiB of the scratchpad (R212). -/
abbrev SpadFits (x n : Nat) : Prop := x % n = 0 ∧ x + n ≤ 0x180000

/-- Two byte ranges have no byte in common. -/
abbrev Apart (a n b k : Nat) : Prop := a + n ≤ b ∨ b + k ≤ a

/-- No range of the scoreboard holds the access: a load meets write ranges, a store any range (R141). -/
abbrev Unclaimed (c : Core) (store : Bool) (x n : Nat) : Prop :=
  ∀ r ∈ c.board, (store = true ∨ r.write = true) → Apart x n r.base r.len

/-- Byte `i` of a dword. -/
def byteOf (x : Dword) (i : Nat) : Byte := x.extractLsb' (8 * i) 8

/-- `m'` is `m` with the low `n` bytes of `v` at `x`, low byte first, and every other byte as it was. -/
def Stored (m m' : Mem) (x n : Nat) (v : Dword) : Prop :=
  ∀ a, m'.get a = if x ≤ a ∧ a < x + n then byteOf v (a - x) else m.get a

/-- The next state when a store put `m'` into the scratchpad of its core. -/
def storesSpad (s : State) (len : Nat) (m' : Mem) : Out :=
  .next ((s.setHere { s.here with spad := m' }).setMe (gone s.me len))

/-- An access of `n` bytes at the offset `off`, which is exact, passes the checks of its handle but for the lease (R216). -/
abbrev HandleFits (s : State) (hr : HReg) (off n : Nat) (store : Bool) : Prop :=
  let h := s.me.rh hr
  off % n = 0 ∧ h.kind ≠ 3 ∧ h.state = .valid ∧ off + n ≤ pageBytes h.psz ∧ (store = true → h.wr = true)

/-- The handle's lease runs (R216, R288). -/
abbrev LeaseRuns (s : State) (h : Handle) : Prop := (s.dieTime (dieOf s.turn.core)).toNat < h.expiry.toNat

/-- All the checks of an access through a handle hold (R216). -/
abbrev HandleServes (s : State) (hr : HReg) (off n : Nat) (store : Bool) : Prop :=
  HandleFits s hr off n store ∧ LeaseRuns s (s.me.rh hr)

/-- An access on its way to its home under the translation of a handle (R267, R289). -/
def sent (s : State) (h : Handle) (hr : HReg) (off n : Nat) (store : Bool) (op : AccessOp) : Event :=
  .homeAccess { who := s.turn, h := hr, off := off, pa := h.frame.toNat + off, n := n, expiry := h.expiry, wr := store,
                space := s.me.spr.space, va := h.base, kind := h.kind, at_ := s.time.toNat, op := op }

/-- A page that a walk found serves an access. -/
abbrev LeaseServes (l : Lease) (off n : Nat) (store : Bool) : Prop :=
  (store = true → l.wr = true) ∧ l.kind ≠ 3 ∧ off + n ≤ pageBytes l.psz

/-- The access of an instruction is sent through the handle while its lease runs. Once it has ended, a new walk decides: it
waits while the die's walkers stall, sends the access under the translation it finds, which the handle then holds, and is
fatal where the page is not present or may not be written (R216). `z` gives what else becomes of the strand. -/
def Sends (s : State) (i : Instr) (hr : HReg) (off n : Nat) (store : Bool) (op : AccessOp) (z : Strand → Strand) : Prop :=
  let h := s.me.rh hr
  let d := dieOf s.turn.core
  let u := s.setMe (counted s.me)
  let y := u.walk d s.me.spr.space h.base.toNat
  (HandleServes s hr off n store →
    exec i s = .next ((s.setMe (gone (z s.me) 2)).due (sent s h hr off n store op))) ∧
  (HandleFits s hr off n store → ¬LeaseRuns s h → u.walkStalls d s.me.spr.space h.base.toNat = true →
    ∃ t, exec i s = .next t ∧ Stays s t .interlock) ∧
  (HandleFits s hr off n store → ¬LeaseRuns s h → u.walkStalls d s.me.spr.space h.base.toNat = false →
    (∀ l c, y.2.found = some (l, c) → LeaseServes l off n store →
      exec i s = .next (((y.1.keepTrans d s.me.spr.space y.2).setMe (gone (z (s.me.wh hr (Handle.ofLease l c))) 2)).due
        (sent s (Handle.ofLease l c) hr off n store op))) ∧
    (y.2.found = none ∨ (∃ l c, y.2.found = some (l, c) ∧ store = true ∧ l.wr = false) →
      exec i s = .next ((y.1.setMe s.me).fatal s.turn 0x0022 (h.base + BitVec.ofNat 64 off) 0)))

/-- A handle for whose page a walk runs. -/
def resolving (va : Nat) : Handle :=
  { Handle.none with state := .resolving, base := BitVec.ofNat 64 (va / 0x10000 * 0x10000) }

/-- What XLATE and HRENEW of a page leave: the translation its die keeps, or a walk begun, which takes a free time and starts
again after 1000 ns (R11, R217, R288). -/
def resolves (s : State) (hr : HReg) (va : Nat) : Out :=
  match s.cachedTrans (dieOf s.turn.core) s.me.spr.space va with
  | some t => leaves s 2 (s.me.wh hr (Handle.ofLease t.lease t.cls))
  | none =>
    let u := ({ s with fresh := s.fresh + 1 } : State).setMe (gone (s.me.wh hr (resolving va)) 2)
    let n := 1 + Config.delay s.fresh
    .next (if n ≤ 1000 then u.timer (s.time.toNat + n) (.walkComplete s.turn hr ⟨BitVec.ofNat 64 va, s.me.spr.space⟩)
      else u.timer (s.time.toNat + 1000) (.walkRestart s.turn hr ⟨BitVec.ofNat 64 va, s.me.spr.space⟩))

/-- A step has been put off: it is due, or its time is still to come. -/
abbrev OnItsWay (s : State) (e : Event) : Prop := e ∈ s.agenda ∨ ∃ t ∈ s.timers, t.2 = e

/-- A queue is halted on a job (R136). -/
def HaltedOn (q : Queue) (h : Job) : Prop :=
  ∃ pre post, q.jobs = pre ++ h :: post ∧ h.state = .halted ∧ ∀ x ∈ pre, x.state ≠ .halted

/-- A fatal error of the strand whose turn it is (R112). -/
def fatally (s : State) (cause : BitVec 16) (addr : Dword) : Out := .next (s.fatal s.turn cause addr 0)

end Sys2Proof.Claims

/-! ### Memory, handles and synchronisation (11, 14) -/

/-- R212 and R214: scratchpad loads, zero-extended, with the address error that changes nothing and the wait behind a claimed
write range. R212, R214 and R221: scratchpad stores write their bytes, low byte first, at the address that R43 gives, and no
other byte, once the strand's flushes have completed; the premise on the scratchpad's list is kept by every step
(MemoryStaysCanonical). -/
def Obligations.Scratchpad : Prop :=
  (∀ (s : State) (d a : GReg) (sz : Size) (o : BitVec 10) (e f k : BitVec 4),
     Ready s everyStrand [a, d, e.setWidth 6, f.setWidth 6] →
     let n := width sz
     let x := spadOffset s a (o.toInt * n)
     let y := spadOffset s (f.setWidth 6) (8 * k.toNat)
     (SpadFits x n → Unclaimed s.here false x n →
       exec (.lds d a sz o) s = puts s 2 d (BitVec.ofNat 64 (s.here.spad.nat x n))) ∧
     (¬SpadFits x n → exec (.lds d a sz o) s = traps s 0x0006) ∧
     (SpadFits x n → (∃ r ∈ s.here.board, r.write = true ∧ 0 < r.len ∧ ¬Apart x n r.base r.len) →
       ∃ t, exec (.lds d a sz o) s = .next t ∧ Stays s t .rangeBoard) ∧
     (SpadFits y 8 → Unclaimed s.here false y 8 →
       exec (.cLdsD e f k) s = puts s 1 (e.setWidth 6) (BitVec.ofNat 64 (s.here.spad.nat y 8)))) ∧
  (∀ (s : State) (d a : GReg) (sz : Size) (o : BitVec 10) (e f k : BitVec 4),
     Ready s everyStrand [a, d, e.setWidth 6, f.setWidth 6] → s.here.spad.wf = true →
     let n := width sz
     let x := spadOffset s a (o.toInt * n)
     let y := spadOffset s (f.setWidth 6) (8 * k.toNat)
     (SpadFits x n → Unclaimed s.here true x n → s.me.flushes = [] →
       ∃ m, exec (.sts d a sz o) s = storesSpad s 2 m ∧ Stored s.here.spad m x n (s.me.rg d)) ∧
     (¬SpadFits x n → exec (.sts d a sz o) s = traps s 0x0006) ∧
     (SpadFits x n → (∃ r ∈ s.here.board, 0 < r.len ∧ ¬Apart x n r.base r.len) →
       ∃ t, exec (.sts d a sz o) s = .next t ∧ Stays s t .rangeBoard) ∧
     (SpadFits x n → Unclaimed s.here true x n → s.me.flushes ≠ [] →
       ∃ t, exec (.sts d a sz o) s = .next t ∧ Stays s t .interlock) ∧
     (SpadFits y 8 → Unclaimed s.here true y 8 → s.me.flushes = [] →
       ∃ m, exec (.cStsD e f k) s = storesSpad s 1 m ∧ Stored s.here.spad m y 8 (s.me.rg (e.setWidth 6))))

/-- R25, R44, R216 and R276: a global load, store or atomic is sent to its home through its handle, whose lease a new walk
renews where it has ended; a load and an atomic that returns a value leave their destination empty, and an empty register holds
the instruction up. R216: what the checks of a load or a store raise, in their order; the offset is exact. -/
def Obligations.GlobalAccess : Prop :=
  ((∀ (s : State) (d a : GReg) (hr : HReg) (sz : Size) (o : BitVec 6) (op : AmoOp) (sc : Scope) (z r : Bool),
     Ready s everyStrand [a, d, d + 1] →
     let n := width sz
     let off := (s.me.rg a).toNat + o.toNat * n
     Sends s (.ldg d hr a sz o) hr off n false (.load d) (fun z => z.empty d) ∧
     Sends s (.stg d hr a sz o) hr off n true (.store (s.me.rg d)) id ∧
     ((Instr.amo d hr a op sc z r).wf = true →
       Sends s (.amo d hr a op sc z r) hr (s.me.rg a).toNat (if z then 8 else 4) true
         (.atomic d op sc r (s.me.rg d) (if op = .cas then s.me.rg (d + 1) else 0)) (fun z => if r then z.empty d else z)) ∧
     ((Instr.amo d hr a op sc z r).wf = false → exec (.amo d hr a op sc z r) s = traps s 0x0001)) ∧
   (∀ (s : State) (d a : GReg) (hr : HReg) (sz : Size) (o : BitVec 6) (op : AmoOp) (sc : Scope) (z r : Bool),
     Begins s → (Instr.amo d hr a op sc z r).wf = true →
     (s.me.isFull a = false → ∀ i ∈ [Instr.ldg d hr a sz o, .stg d hr a sz o, .amo d hr a op sc z r], Waits s i .fullEmpty) ∧
     (s.me.isFull a = true → s.me.isFull d = false →
       Waits s (.ldg d hr a sz o) .interlock ∧ Waits s (.stg d hr a sz o) .fullEmpty ∧ Waits s (.amo d hr a op sc z r) .fullEmpty))) ∧
  (∀ (s : State) (d a : GReg) (hr : HReg) (sz : Size) (o : BitVec 6), Ready s everyStrand [a, d] →
     let n := width sz
     let off := (s.me.rg a).toNat + o.toNat * n
     let h := s.me.rh hr
     let addr : Dword := h.base + BitVec.ofNat 64 off
     let both (x : Out) : Prop := exec (.ldg d hr a sz o) s = x ∧ exec (.stg d hr a sz o) s = x
     (off % n ≠ 0 → both (traps s 0x0002)) ∧
     (off % n = 0 → h.kind = 3 → both (traps s 0x0002)) ∧
     (off % n = 0 → h.kind ≠ 3 → h.state = .resolving → ∃ t, both (.next t) ∧ Stays s t .interlock) ∧
     (off % n = 0 → h.kind ≠ 3 → h.state = .invalid → both (fatally s 0x0020 (BitVec.ofNat 64 off))) ∧
     (off % n = 0 → h.kind ≠ 3 → h.state = .absent → both (fatally s 0x0020 addr)) ∧
     (off % n = 0 → h.kind ≠ 3 → h.state = .valid → pageBytes h.psz < off + n → both (fatally s 0x0021 addr)) ∧
     (off % n = 0 → h.kind ≠ 3 → h.state = .valid → off + n ≤ pageBytes h.psz → h.wr = false →
       exec (.stg d hr a sz o) s = fatally s 0x0021 addr))

/-- R217, R218 and R219: XLATE resolves a handle, HREL makes it invalid, HINFO reads its word, HRENEW walks again for one that
is valid or absent, each but HINFO after a walk that is under way for it; PROBE asks, once all that the strand issued has
completed, which pages of a range are present. -/
def Obligations.HandleInstructions : Prop :=
  ∀ (s : State) (d a b : GReg) (hr : HReg) (ta tb : Bool), Ready s everyStrand [a, b, d] →
    let h := s.me.rh hr
    let x := s.me.rg a
    let len := (s.me.rg b).toNat
    let u := s.setMe (counted s.me)
    let probed := probePages u (dieOf s.turn.core) s.me.spr.space x.toNat 65538 x.toNat (x.toNat + len)
    (h.state ≠ .resolving → x.toNat < 2 ^ 45 → exec (.xlate hr a ta) s = resolves s hr x.toNat) ∧
    (h.state ≠ .resolving → 2 ^ 45 ≤ x.toNat → exec (.xlate hr a ta) s = traps s 0x0002) ∧
    (h.state = .valid ∨ h.state = .absent → exec (.hrenew hr) s = resolves s hr h.base.toNat) ∧
    (h.state = .resolving → ∀ i ∈ [Instr.xlate hr a ta, .hrenew hr, .hrel hr], ∃ t, exec i s = .next t ∧ Stays s t .interlock) ∧
    (h.state = .invalid → exec (.hrenew hr) s = traps s 0x0002) ∧
    (h.state ≠ .resolving → ∃ z, (z.rh hr).state = .invalid ∧ (∀ k, k ≠ hr → z.rh k = s.me.rh k) ∧ z.g = s.me.g ∧ z.p = s.me.p ∧
      exec (.hrel hr) s = leaves s 2 z) ∧
    (∃ v, exec (.hinfo d hr) s = puts s 2 d v ∧
      fld v 1 0 = (match h.state with | .invalid => 0 | .valid => 1 | .resolving => 2 | .absent => 3) ∧
      (h.state ≠ .valid → fld v 15 2 = 0 ∧ fld v 63 45 = 0) ∧
      (h.state = .valid → (fld v 2 2 = 1 ↔ h.wr = true) ∧ fld v 5 3 = h.kind.toNat ∧ fld v 7 6 = h.psz.toNat ∧
        fld v 11 8 = h.lclass.toNat ∧ fld v 44 16 = fld h.base 44 16 ∧
        fld v 59 45 = min 32767 ((h.expiry.toNat - (s.dieTime (dieOf s.turn.core)).toNat) / 1000))) ∧
    (s.inFlight s.turn = false → len = 0 → exec (.probe a b ta tb) s = leaves s 2 s.me) ∧
    (s.inFlight s.turn = false → len ≠ 0 → (2 ^ 32 < len ∨ 2 ^ 45 < x.toNat + len) → exec (.probe a b ta tb) s = traps s 0x0002) ∧
    (s.inFlight s.turn = false → len ≠ 0 → len ≤ 2 ^ 32 → x.toNat + len ≤ 2 ^ 45 →
      (∀ y, probed = some (y, none) → exec (.probe a b ta tb) s = .next (y.setMe (gone s.me 2))) ∧
      (∀ y va, probed = some (y, some va) → exec (.probe a b ta tb) s =
        .next ((y.setMe (counted s.me).rewind).faultAt s.turn 0x0010 0 (BitVec.ofNat 64 va) 0)) ∧
      (probed = none → ∃ t, exec (.probe a b ta tb) s = .next t ∧ Stays s t .interlock)) ∧
    (s.inFlight s.turn = true → ∃ t, exec (.probe a b ta tb) s = .next t ∧ Stays s t .interlock)

/-- R220 and R221: a fence goes on once all it covers has been performed, and waits before then: the strand's accesses and
flushes on their way, for the whole package its writes that cross to another die, for its cluster its stores to other cores, and
the locations that an ordering point nearer than the fence's scope holds for it; a flush does not stall, and is kept until it
completes. -/
def Obligations.FencesAndFlushes : Prop :=
  ∀ (s : State) (sc : Scope) (a b : GReg) (ta tb : Bool), Ready s everyStrand [a, b] →
    let base := (s.me.rg a).toNat
    let len := (s.me.rg b).toNat
    (s.fenced s.turn sc = true → exec (.fence sc) s = leaves s 2 s.me) ∧
    (s.fenced s.turn sc = false → ∃ t, exec (.fence sc) s = .next t ∧ Stays s t .interlock) ∧
    (s.agenda = [] → s.timers = [] → s.held = [] → (∀ d, (s.die d).xwrites = []) → s.fenced s.turn sc = true) ∧
    (∀ e, OnItsWay s e → (e = .flushComplete s.turn ∨ ∃ x : Access, e = .homeAccess x ∧ x.who = s.turn) → s.fenced s.turn sc = false) ∧
    (∀ t c off n st r, (t, Event.clusterAccess s.turn c off n st r) ∈ s.timers → (st = none ∨ sc ≠ .core ∨ c = s.turn.core) →
      s.fenced s.turn sc = false) ∧
    (∀ d, ∀ x ∈ (s.die d).xwrites, s.turn ∈ x.by_ → s.fenced s.turn .package = false) ∧
    (∀ x ∈ s.held, scopeRank x.scope < scopeRank sc → x.point = pointOf s.turn.core x.scope → s.fenced s.turn sc = false) ∧
    (len = 0 → exec (.flush a b ta tb) s = leaves s 2 s.me) ∧
    (len ≠ 0 → 2 ^ 45 < base + len → exec (.flush a b ta tb) s = traps s 0x0002) ∧
    (len ≠ 0 → base + len ≤ 2 ^ 45 →
      let begun : Strand := { s.me with flushes := s.me.flushes ++ [(s.me.spr.space, base, len, s.time.toNat)] }
      exec (.flush a b ta tb) s = .next ((s.setMe (gone begun 2)).due (.flushComplete s.turn)))

/-- R138, R223 and R224: the queue's word, its watermark, and the wait for a job, which also ends on a queue halted at that job
or an earlier one. R142 and R225: acquire and release of a buffer ring's slots. -/
def Obligations.QueuesAndRings : Prop :=
  (∀ (s : State) (d a : GReg) (q : BitVec 3) (ta : Bool), Ready s everyStrand [a, d] →
     let qu := s.here.queue q.toFin
     let j : Word := BitVec.ofNat 32 (s.me.rg a).toNat
     let w := qu.watermark
     let retired : Prop := 1 ≤ (w - j).toNat ∧ (w - j).toNat ≤ 2 ^ 31
     let outstanding : Prop := (j - w).toNat < (qu.next - w).toNat
     exec (.wmark d q) s = puts s 2 d (BitVec.ofNat 64 (match qu.jobs with | [] => qu.next | x :: _ => x.id).toNat) ∧
     (qu.jobs.length ≤ 32 → s.here.board.length ≤ 16 →
       ∃ v, exec (.qroom d q) s = puts s 2 d v ∧ fld v 7 0 = 32 - qu.jobs.length ∧ fld v 15 8 = 16 - s.here.board.length ∧
         (fld v 16 16 = 1 ↔ ∃ x ∈ qu.jobs, x.state = .halted) ∧ (fld v 17 17 = 1 ↔ ∃ x ∈ qu.jobs, fld x.d0 7 0 = 0x0A) ∧
         fld v 31 18 = 0 ∧ ((∀ x ∈ qu.jobs, x.state ≠ .halted) → fld v 63 32 = 0) ∧ ∀ h, HaltedOn qu h → fld v 63 32 = h.id.toNat) ∧
     (retired → exec (.wmwait a q ta) s = leaves s 2 s.me) ∧
     (¬retired → ¬outstanding → exec (.wmwait a q ta) s = traps s 0x0002) ∧
     (¬retired → outstanding → (∀ x ∈ qu.jobs, x.state ≠ .halted) →
       ∃ t, exec (.wmwait a q ta) s = .next t ∧ Stays s t .queueWait) ∧
     (∀ h, HaltedOn qu h → ¬retired → outstanding →
       ((j - h.id).toNat < 2 ^ 31 → exec (.wmwait a q ta) s = leaves s 2 s.me) ∧
       (2 ^ 31 ≤ (j - h.id).toNat → ∃ t, exec (.wmwait a q ta) s = .next t ∧ Stays s t .queueWait))) ∧
  (∀ (s : State) (d a : GReg) (n : BitVec 3) (ta : Bool), Ready s everyStrand [a, d] →
     let r := s.here.ring n
     let base := fld r.desc 23 0
     let ssize := fld r.desc 35 24 * 32
     let nslot := fld r.desc 47 36
     let usable : Prop := nslot ≠ 0 ∧ base % 32 = 0 ∧ ssize ≠ 0 ∧ base + nslot * ssize ≤ 0x180000
     let kept (r' : Ring) (z : Strand) : Out := .next ((s.setHere (s.here.setRing n r')).setMe (gone z 2))
     (¬usable → exec (.bacq d n) s = traps s 0x0002 ∧ exec (.brel a n ta) s = traps s 0x0002) ∧
     (usable → r.free = 0 → exec (.bacq d n) s = puts s 2 d 0xFFFFFFFFFFFFFFFF) ∧
     (usable → r.free ≠ 0 → exec (.bacq d n) s =
       kept { r with acq := BitVec.ofNat 12 ((r.acq.toNat + 1) % nslot), free := r.free - 1 }
         (s.me.wg d (BitVec.ofNat 64 (base + r.acq.toNat * ssize)))) ∧
     (usable → (r.free.toNat = nslot ∨ (s.me.rg a).toNat ≠ base + r.rel.toNat * ssize) → exec (.brel a n ta) s = traps s 0x0002) ∧
     (usable → r.free.toNat ≠ nslot → (s.me.rg a).toNat = base + r.rel.toNat * ssize → exec (.brel a n ta) s =
       kept { r with rel := BitVec.ofNat 12 ((r.rel.toNat + 1) % nslot), free := r.free + 1 } s.me))

namespace Sys2Proof.Claims

/-- The amount of a semaphore instruction: AMT, or `g[G]`[15:0] where AMT is 0 (R226). -/
def amountOf (s : State) (g : GReg) (amt : BitVec 4) : Nat := if amt = 0 then (s.me.rg g).toNat % 2 ^ 16 else amt.toNat

/-- The count of a semaphore of the strand's core. -/
def countOf (s : State) (k : BitVec 8) : Nat := s.here.semCount k

/-- A signal of a core is held: a store to a neighbour that it follows is on its way, or it is a KSIG of M that waits for the rows of a
drain (R226, R247). -/
abbrev HeldSignal (s : State) (c : CoreId) (x : Signal) : Prop :=
  x.set = false ∧ ((x.src = .strand .m ∧ (s.core c).frame.drain.isSome = true) ∨ ∃ e ∈ x.after, OnItsWay s e)

/-- Nobody waits at a semaphore, no signal comes before, and its count covers an amount (R140). -/
abbrev Acquirable (s : State) (k : BitVec 8) (n : Nat) : Prop :=
  n ≤ countOf s k ∧ (∀ w ∈ s.here.semWait, w.k ≠ k) ∧ ∀ x ∈ s.here.signals, HeldSignal s s.turn.core x

/-- The next state when a signal or a KSET joins those of the core's next semaphore cycle. -/
def signals (s : State) (len : Nat) (x : Signal) : Out :=
  let u := s.setHere { s.here with signals := s.here.signals ++ [x] }
  .next ((u.setMe (gone s.me len)).due (.semaphoreCycle s.turn.core))

/-- The next state when an acquire lowers a count in its own cycle. -/
def acquires (s : State) (len : Nat) (k : BitVec 8) (n : Nat) (z : Strand) : Out :=
  .next ((s.setHere (s.here.setSem k (countOf s k - n))).setMe (gone z len))

/-- The strand waits at a semaphore as the last of its waiters. -/
def Joined (s t : State) (k : BitVec 8) (n : Nat) (til : Option Nat) : Prop :=
  Stays s t .semWait ∧ t.here.semWait = s.here.semWait ++ [{ k := k, n := n, party := .strand s.turn.strand }] ∧
    t.me.wait = .sem til ∧ Event.semaphoreCycle s.turn.core ∈ t.agenda

end Sys2Proof.Claims

/-- R226: signals, which follow the strand's stores to neighbours, acquires, reads and sets of a semaphore. R227: KTWAIT, whose
register says how its wait ended; an acquire in the last cycle of its time still succeeds, so the wait is given up after that
cycle. -/
def Obligations.Semaphores : Prop :=
  (∀ (s : State) (g : GReg) (k : BitVec 8) (amt : BitVec 4) (tg : Bool), Ready s everyStrand [g] →
     let n := amountOf s g amt
     let sig (n : Nat) : Signal :=
       { set := false, k := k, n := n, src := .strand s.turn.strand, after := s.remoteStores s.turn }
     (∀ e, e ∈ s.remoteStores s.turn ↔ ∃ t c off b v r, e = .clusterAccess s.turn c off b (some v) r ∧ (t, e) ∈ s.timers) ∧
     ((Instr.ksig g k amt tg).wf = true → exec (.ksig g k amt tg) s = signals s 2 (sig n)) ∧
     (amt ≠ 0 → exec (.cKsig k amt) s = signals s 1 (sig amt.toNat)) ∧
     exec (.kset g k tg) s = signals s 2 { set := true, k := k, n := (s.me.rg g).toNat % 2 ^ 16, src := .strand s.turn.strand } ∧
     exec (.kread g k) s = puts s 2 g (BitVec.ofNat 64 (countOf s k)) ∧
     (s.me.wait = .none → amt ≠ 0 → Acquirable s k amt.toNat → exec (.cKwait k amt) s = acquires s 1 k amt.toNat s.me) ∧
     ((Instr.kwait g k amt tg).wf = true →
       (s.me.wait = .none → n = 0 → exec (.kwait g k amt tg) s = leaves s 2 s.me) ∧
       (s.me.wait = .none → n ≠ 0 → Acquirable s k n → exec (.kwait g k amt tg) s = acquires s 2 k n s.me) ∧
       (s.me.wait = .none → n ≠ 0 → ¬Acquirable s k n → s.myInst.preq = false → s.myInst.stop = false →
         ∃ t, exec (.kwait g k amt tg) s = .next t ∧ Joined s t k n none) ∧
       (s.me.wait = .got → exec (.kwait g k amt tg) s = leaves s 2 { s.me with wait := .none }))) ∧
  (∀ (s : State) (g : GReg) (k : BitVec 8) (amt : BitVec 4) (tg : Bool), Ready s everyStrand [g] →
     (Instr.ktwait g k amt tg).wf = true →
     let t := (s.me.rg g).toNat % 2 ^ 32
     (s.me.wait = .none → Acquirable s k amt.toNat → exec (.ktwait g k amt tg) s = acquires s 2 k amt.toNat (s.me.wg g 1)) ∧
     (s.me.wait = .none → ¬Acquirable s k amt.toNat → t = 0 → exec (.ktwait g k amt tg) s = puts s 2 g 0) ∧
     (s.me.wait = .none → ¬Acquirable s k amt.toNat → t ≠ 0 → s.myInst.preq = false → s.myInst.stop = false →
       ∃ u, exec (.ktwait g k amt tg) s = .next u ∧ Joined s u k amt.toNat (some (s.time.toNat + t)) ∧
         (s.time.toNat + t + 1, Event.ktwaitTimeout s.turn (s.time.toNat + t)) ∈ u.timers) ∧
     (s.me.wait = .got → exec (.ktwait g k amt tg) s = leaves s 2 { s.me.wg g 1 with wait := .none }) ∧
     (s.me.wait = .timedOut → exec (.ktwait g k amt tg) s = leaves s 2 { s.me.wg g 0 with wait := .none }))

namespace Sys2Proof.Claims

/-- The sum of a core's signals to a semaphore. -/
def sumTo (xs : List Signal) (k : BitVec 8) : Nat := ((xs.filter fun x => x.k == k).map fun x => x.n).sum

end Sys2Proof.Claims

/-- R139, R140 and R227: the semaphore cycle adds the core's signals, which hold at 65535, and then serves the waiter at the
head of a queue; a wait whose time is over leaves its queue. -/
def Obligations.SemaphoreCycles : Prop :=
  (∀ (s : State) (c : CoreId), (∀ x ∈ (s.core c).signals, x.set = false ∧ ¬HeldSignal s c x) → (s.core c).semWait = [] →
    ∃ t, exec (.semaphoreCycle c) s = .next t ∧ (t.core c).signals = [] ∧ (t.core c).semWait = [] ∧ t.mem = s.mem ∧
      ∀ k, (t.core c).semCount k = min 65535 ((s.core c).semCount k + sumTo (s.core c).signals k)) ∧
  (∀ (s : State) (c : CoreId) (k : BitVec 8) (n : Nat) (i : StrandId),
    (s.core c).signals = [] → (s.core c).semWait = [{ k := k, n := n, party := .strand i }] → n ≤ (s.core c).semCount k →
    ∃ t, exec (.semaphoreCycle c) s = .next t ∧ (t.core c).semWait = [] ∧ (t.core c).semCount k = (s.core c).semCount k - n ∧
      t.strand ⟨c, i⟩ = { s.strand ⟨c, i⟩ with wait := .got }) ∧
  (∀ (s : State) (c : CoreId), (∀ x ∈ (s.core c).signals, HeldSignal s c x) →
    ∃ t, exec (.semaphoreCycle c) s = .next t ∧ (t.core c).signals = (s.core c).signals) ∧
  (∀ (s : State) (w : Who) (til : Nat), (s.strand w).wait = .sem (some til) →
    ∃ t, exec (.ktwaitTimeout w til) s = .next t ∧ (t.strand w).wait = .timedOut ∧
      (t.core w.core).semWait = (s.core w.core).semWait.filter fun x => x.party != .strand w.strand)

namespace Sys2Proof.Claims

/-- Phase `p` of a barrier is complete (R252). -/
abbrev PhaseDone (b : Barrier) (p : Word) : Prop := 1 ≤ (b.phase - p).toNat ∧ (b.phase - p).toNat ≤ 2 ^ 31

/-- The state in which an operation is on its way to a barrier of the cluster, which applies it four cycles on, and its strand past its
unit (R250). -/
def sendsBar (s : State) (b : BitVec 4) (arrive : Option GReg) (n : Byte) : State :=
  let k := clusterOf s.turn.core
  let x := s.cluster k
  let til := s.time.toNat + 4
  let op : BarOp := { who := s.turn, bar := b, arrive := arrive, n := n, at_ := til }
  ((s.setCluster k { x with ops := x.ops ++ [op] }).setMe (gone s.me 2)).timer til (.barrierApply k)

end Sys2Proof.Claims

/-- R249 to R253: the barrier instructions of a cluster-scope instance, which are illegal in any other. An arrival and a CBSET
are sent to the barrier; a wait is sent, and completes once the barrier's answer has come, which says for CTWAIT how it ended.
R251 to R254: an arrival is counted and its strand learns its phase, and the last arrival of a phase begins the next; CBSET sets
the number of arrivals, and ends a phase that has that many; each barrier cycle then answers those that are registered for a
phase that is complete, whose instructions complete four cycles on; a wait past its time has failed. -/
def Obligations.Barriers : Prop :=
  (∀ (s : State) (g : GReg) (b : BitVec 4) (tg : Bool), Ready s everyStrand [g] →
     let x := s.me.rg g
     let p : Word := BitVec.ofNat 32 x.toNat
     let k := clusterOf s.turn.core
     let reg := s.time.toNat + 4
     let til := reg + x.toNat / 2 ^ 32
     (s.myInst.cluster = false → ∀ i ∈ [Instr.carv g b, .cbset g b tg, .cwait g b tg, .ctwait g b tg], exec i s = traps s 0x0002) ∧
     (s.myInst.cluster = true →
       (s.fenced s.turn .cluster = true → exec (.carv g b) s = .next ((sendsBar s b (some g) 0).timer (s.time.toNat + 8)
         (.resultReady s.turn (if g = 0 then none else some g) none 0 0))) ∧
       (s.fenced s.turn .cluster = false → ∃ t, exec (.carv g b) s = .next t ∧ Stays s t .interlock) ∧
       (x.toNat % 256 = 0 → exec (.cbset g b tg) s = traps s 0x0002) ∧
       (x.toNat % 256 ≠ 0 → exec (.cbset g b tg) s = .next (sendsBar s b none (BitVec.ofNat 8 x.toNat))) ∧
       (s.me.wait = .none → s.myInst.preq = false → s.myInst.stop = false →
         (∃ t, exec (.cwait g b tg) s = .next t ∧ Stays s t .barrierWait ∧ t.me.wait = .barrier b p reg none ∧
           (reg, Event.barrierApply k) ∈ t.timers) ∧
         (∃ t, exec (.ctwait g b tg) s = .next t ∧ Stays s t .barrierWait ∧ t.me.wait = .barrier b p reg (some til) ∧
           (reg, Event.barrierApply k) ∈ t.timers ∧ (til + 1, Event.ctwaitTimeout s.turn til) ∈ t.timers)) ∧
       (∀ r e, s.me.wait = .barrier b p r e → s.myInst.preq = false → s.myInst.stop = false →
         ∀ i ∈ [Instr.cwait g b tg, .ctwait g b tg], ∃ t, exec i s = .next t ∧ Stays s t .barrierWait ∧ t.me.wait = s.me.wait) ∧
       (∀ r e, s.me.wait = .none ∨ s.me.wait = .barrier b p r e → s.myInst.preq = true ∨ s.myInst.stop = true →
         ∀ i ∈ [Instr.cwait g b tg, .ctwait g b tg], ∃ t, exec i s = .next t ∧ t.me.wait = .none ∧ t.me.held = .live ∧
           t.me.pc = s.me.unitPc) ∧
       (∀ ok at_, s.me.wait = .answered ok at_ →
         (at_ ≤ s.time.toNat → exec (.cwait g b tg) s = leaves s 2 { s.me with wait := .none } ∧
           exec (.ctwait g b tg) s = leaves s 2 { s.me.wg g (if ok then 1 else 0) with wait := .none }) ∧
         (s.time.toNat < at_ → s.myInst.preq = false → s.myInst.stop = false →
           ∀ i ∈ [Instr.cwait g b tg, .ctwait g b tg], ∃ t, exec i s = .next t ∧ Stays s t .barrierWait ∧ t.me.wait = s.me.wait)))) ∧
  ((∀ (s : State) (k : ClusterId) (w : Who) (b : BitVec 4) (g : GReg) (til : Nat),
     (s.cluster k).ops = [{ who := w, bar := b, arrive := some g, n := 0, at_ := til }] → til ≤ s.time.toNat →
     let bar := (s.cluster k).bar b
     ∃ t, exec (.barrierApply k) s = .next t ∧ (t.cluster k).ops = [] ∧ t.mem = s.mem ∧
       (∀ r, (t.strand w).rg r = if r = g ∧ r ≠ 0 then BitVec.ofNat 64 bar.phase.toNat else (s.strand w).rg r) ∧
       (∀ c, c ≠ b → (t.cluster k).bar c = (s.cluster k).bar c) ∧
       (bar.arr.toNat + 1 < bar.n.toNat → (t.cluster k).bar b = { bar with arr := bar.arr + 1 }) ∧
       (bar.arr.toNat < 255 → bar.n.toNat ≤ bar.arr.toNat + 1 → (t.cluster k).bar b = { bar with phase := bar.phase + 1, arr := 0 })) ∧
   (∀ (s : State) (k : ClusterId) (w : Who) (b : BitVec 4) (n : Byte) (til : Nat),
     (s.cluster k).ops = [{ who := w, bar := b, arrive := none, n := n, at_ := til }] → til ≤ s.time.toNat →
     let bar := (s.cluster k).bar b
     ∃ t, exec (.barrierApply k) s = .next t ∧ (t.cluster k).ops = [] ∧ t.mem = s.mem ∧ (∀ x, (t.strand x).g = (s.strand x).g) ∧
       (∀ c, c ≠ b → (t.cluster k).bar c = (s.cluster k).bar c) ∧
       (t.cluster k).bar b = if n.toNat ≤ bar.arr.toNat then { n := n, phase := bar.phase + 1, arr := 0 } else { bar with n := n }) ∧
   (∀ (s : State) (k : ClusterId), (∀ op ∈ (s.cluster k).ops, s.time.toNat < op.at_) →
     ∃ t, exec (.barrierApply k) s = .next t ∧ t.clusters = s.clusters ∧ t.mem = s.mem) ∧
   (∀ (s : State) (k : ClusterId), ∃ t, exec (.barrierApply k) s = .next t ∧
     ∀ (x : Who) (b : BitVec 4) (p : Word) (reg : Nat) (e : Option Nat), clusterOf x.core = k → (s.strand x).wait = .barrier b p reg e →
       (t.strand x).wait = if reg ≤ s.time.toNat ∧ PhaseDone ((t.cluster k).bar b) p then .answered true (s.time.toNat + 4)
         else .barrier b p reg e) ∧
   (∀ (s : State) (w : Who) (b : BitVec 4) (p : Word) (reg til : Nat), (s.strand w).wait = .barrier b p reg (some til) →
     exec (.ctwaitTimeout w til) s = .next (s.setStrand w { s.strand w with wait := .answered false (til + 4) })))

/-! ### The vector unit (10) -/

namespace Sys2Proof.Claims

/-- Lane `i` is active under mask `m[k]` (R189). -/
def lit (s : State) (k : MReg) (i : Nat) : Bool :=
  decide (i < s.me.spr.vc.toNat) && (k == 0 || (s.me.m[k.toNat]'k.isLt).getLsbD i)

/-- The strand can issue a V-class instruction that reads or writes these registers: none of them has yet to take an earlier result
(R17, R190, R192). -/
abbrev VReady (s : State) (regs : List GReg) (vs : List VReg) : Prop := Ready s [.v] regs ∧ s.vPending vs = false

/-- A lane of a vector register. -/
def lane (s : State) (r : VReg) (i : Fin 64) : Word := (s.me.rv r)[i]

/-- A state in which the strand has gone past its unit, and a result whose flags and drops it raises comes `n` cycles after the issue
(R22, R192). -/
def brings (s : State) (z : Strand) (n : Nat) (g : Option GReg) (v : Option VReg) (f : Flags) (drop : Nat) : Out :=
  let t := s.setMe (gone z 2)
  .next (if f = 0 ∧ drop = 0 then t else t.timer (s.time.toNat + n) (.resultReady s.turn g v f drop))

/-- An instruction of element width `w` and latency `n` writes the active lanes of `v[d]`, element by element, raises the flags of the
elements it writes when its result comes, and changes nothing else. -/
def Writes (s : State) (i : Instr) (k : MReg) (d : VReg) (w : Nat) (f : Fin 64 → Nat → Nat × Flags) (n : Nat := 1) : Prop :=
  ∃ x fl, exec i s = brings s (s.me.wv d x) n none (some d) fl 0 ∧
    (∀ l : Fin 64, lit s k l.val = false → x[l] = lane s d l) ∧
    (∀ l : Fin 64, lit s k l.val = true → ∀ j, j < 32 / w → laneElem w x[l] j = (f l j).1 % 2 ^ w) ∧
    ∀ b, fl.getLsbD b = true ↔ ∃ l : Fin 64, lit s k l.val = true ∧ ∃ j, j < 32 / w ∧ (f l j).2.getLsbD b = true

/-- The signed or unsigned value of an element (R50). -/
def valueOf (t : VType) (x : Nat) : Int :=
  match t with
  | .i32 | .i16 | .i8 => if x < 2 ^ (t.width - 1) then x else (x : Int) - 2 ^ t.width
  | _ => x

/-- A type of integers (R50). -/
abbrev IntegerType (t : VType) : Prop := t ∈ [VType.i32, .ui32, .i16, .i8, .ui8]

/-- The pattern of a value modulo 2^w. -/
def wrap (t : VType) (x : Int) : Nat × Flags := ((x % 2 ^ t.width).toNat, 0)

/-- A value held to the range of its type, with SAT when it lies outside (R193, R197). -/
def held (t : VType) (x : Int) : Nat × Flags :=
  let lo : Int := if t ∈ [VType.i32, .i16, .i8] then -2 ^ (t.width - 1) else 0
  let hi : Int := if t ∈ [VType.i32, .i16, .i8] then 2 ^ (t.width - 1) - 1 else 2 ^ t.width - 1
  (((max lo (min hi x)) % 2 ^ t.width).toNat, if x < lo ∨ hi < x then 0x020 else 0)

/-- A lane as a single element. -/
def whole (f : Fin 64 → Word) (l : Fin 64) (_ : Nat) : Nat × Flags := ((f l).toNat, 0)

end Sys2Proof.Claims

/-- R193 and R194: sums, differences, products, fused products, extremes, saturating sums and differences, shifts, absolute
value and negation of the integer types, and the bitwise operations: each active element of the destination takes the exact
result, wrapped or held at the type's range with SAT, and the other elements stand. -/
def Obligations.VectorIntegers : Prop :=
  ∀ (s : State) (d a b : VReg) (k : MReg) (t : VType), VReady s [] [d, a, b] → IntegerType t →
    let w := t.width
    let x (l : Fin 64) (j : Nat) := laneElem w (lane s a l) j
    let y (l : Fin 64) (j : Nat) := laneElem w (lane s b l) j
    let o (l : Fin 64) (j : Nat) := laneElem w (lane s d l) j
    Writes s (.vadd d a b k t) k d w (fun l j => wrap t (x l j + y l j)) ∧
    Writes s (.vsub d a b k t) k d w (fun l j => wrap t ((x l j : Int) - y l j)) ∧
    Writes s (.vmul d a b k t) k d w (fun l j => wrap t (x l j * y l j)) ∧
    Writes s (.vfma d a b k t) k d w (fun l j => wrap t (o l j + x l j * y l j)) ∧
    Writes s (.vmin d a b k t) k d w (fun l j => wrap t (min (valueOf t (x l j)) (valueOf t (y l j)))) ∧
    Writes s (.vmax d a b k t) k d w (fun l j => wrap t (max (valueOf t (x l j)) (valueOf t (y l j)))) ∧
    Writes s (.vsadd d a b k t) k d w (fun l j => held t (valueOf t (x l j) + valueOf t (y l j))) ∧
    Writes s (.vssub d a b k t) k d w (fun l j => held t (valueOf t (x l j) - valueOf t (y l j))) ∧
    Writes s (.vshl d a b k t) k d w (fun l j => wrap t (x l j * 2 ^ (y l j % w))) ∧
    Writes s (.vshr d a b k t) k d w (fun l j => (x l j / 2 ^ (y l j % w), 0)) ∧
    (t ∈ [VType.i32, .i16, .i8] →
      Writes s (.vsra d a b k t) k d w (fun l j => wrap t (valueOf t (x l j) / 2 ^ (y l j % w))) ∧
      Writes s (.vabs d a k t) k d w (fun l j => wrap t (valueOf t (x l j)).natAbs) ∧
      Writes s (.vneg d a k t) k d w (fun l j => wrap t (-valueOf t (x l j)))) ∧
    Writes s (.vand d a b k) k d 32 (whole fun l => lane s a l &&& lane s b l) ∧
    Writes s (.vor d a b k) k d 32 (whole fun l => lane s a l ||| lane s b l) ∧
    Writes s (.vxor d a b k) k d 32 (whole fun l => lane s a l ^^^ lane s b l)

namespace Sys2Proof.Claims

/-- One element converted from a type to another (R73, R74, R197). -/
def converted (src ty : VType) (mode : RMode) (x : Nat) : Nat × Flags :=
  match src.float, ty.float with
  | some f, some g => g.encode mode (f.decode x)
  | some f, none => let (v, fl) := floatToInt mode ty.lo ty.hi (f.decode x); (wrapInt ty.width v, fl)
  | none, some g => intToFloat g mode (valueOf src x)
  | none, none => held ty (valueOf src x)

/-- Element `e` of a register under a type (R188). -/
def element (s : State) (r : VReg) (t : VType) (e : Nat) : Nat :=
  laneElem t.width (lane s r ⟨e / t.perLane % 64, Nat.mod_lt _ (by decide)⟩) (e % t.perLane)

/-- The bytes of a lane as signed or unsigned values. -/
def byteValue (t : VType) (x : Word) (j : Nat) : Int := valueOf t (laneElem 8 x j)

end Sys2Proof.Claims

/-- R191, R193, R194 and R198: the floating types, in the operations of the number formats, which FloatResults gives, and the
estimates; their flags come with the result. R197, R201 and R202: conversions between element types, and the byte sums. -/
def Obligations.VectorArithmetic : Prop :=
  (∀ (s : State) (d a b : VReg) (k : MReg) (t : VType) (f : FFmt), VReady s [] [d, a, b] → t.float = some f →
     let w := t.width
     let x (l : Fin 64) (j : Nat) := laneElem w (lane s a l) j
     let y (l : Fin 64) (j : Nat) := laneElem w (lane s b l) j
     let o (l : Fin 64) (j : Nat) := laneElem w (lane s d l) j
     let one (l : Fin 64) := (lane s a l).toNat
     Writes s (.vadd d a b k t) k d w (fun l j => fAdd f (x l j) (y l j)) 4 ∧
     Writes s (.vsub d a b k t) k d w (fun l j => fSub f (x l j) (y l j)) 4 ∧
     Writes s (.vmul d a b k t) k d w (fun l j => fMul f (x l j) (y l j)) 4 ∧
     Writes s (.vfma d a b k t) k d w (fun l j => fFma f (o l j) (x l j) (y l j)) 4 ∧
     Writes s (.vmin d a b k t) k d w (fun l j => (fminmax f false (x l j) (y l j), 0)) ∧
     Writes s (.vmax d a b k t) k d w (fun l j => (fminmax f true (x l j) (y l j), 0)) ∧
     Writes s (.vabs d a k t) k d w (fun l j => (if f.decode (x l j) = .nan then packNan f else x l j % 2 ^ (w - 1), 0)) ∧
     Writes s (.vneg d a k t) k d w (fun l j =>
       (if f.decode (x l j) = .nan then packNan f else if x l j < 2 ^ (w - 1) then x l j + 2 ^ (w - 1) else x l j - 2 ^ (w - 1), 0)) ∧
     Writes s (.vrcp d a k) k d 32 (fun l _ => estRcp (one l)) 8 ∧
     Writes s (.vrsq d a k) k d 32 (fun l _ => estRsq (one l)) 8 ∧
     Writes s (.vexp2 d a k) k d 32 (fun l _ => estExp2 (one l)) 8) ∧
  (∀ (s : State) (d a b : VReg) (k : MReg) (rm : BitVec 2) (src t : VType), VReady s [] [d, a, b] →
     let ns := src.perLane
     let nd := t.perLane
     let sum (f : Nat → Int) : Int := f 0 + f 1 + f 2 + f 3
     (vcvtLegal rm src t = true →
       Writes s (.vcvt d a rm src k t) k d t.width (fun l j =>
         let e := l.val * nd + j
         if nd < ns then converted src t .rne (element s a src (64 * nd * rm.toNat + e))
         else if e < 64 * ns then converted src t (RMode.ofCode rm.toNat) (element s a src e)
         else (laneElem t.width (lane s d l) j, 0)) 2) ∧
     (t ∈ [VType.i8, .ui8] →
       Writes s (.vtacc d a b k t) k d 32 (whole fun l => BitVec.ofInt 32 ((lane s d l).toInt + sum fun j =>
         (byteValue .i8 (lane s a l) j).sign * byteValue t (lane s b l) j)) ∧
       Writes s (.vdot4 d a b k t) k d 32 (whole fun l => BitVec.ofInt 32 ((lane s d l).toInt + sum fun j =>
         byteValue t (lane s a l) j * byteValue t (lane s b l) j))))

namespace Sys2Proof.Claims

/-- Weight `i` of a packed ternary byte: its trit less 1, as a byte (R72, R200). -/
def weight (b i : Nat) : Nat := match b / 3 ^ i % 3 with | 0 => 255 | 1 => 0 | _ => 1

/-- Byte `n` of a vector register (R188). -/
def byteAt (s : State) (r : VReg) (n : Nat) : Nat := element s r .ui8 n

end Sys2Proof.Claims

/-- R195 and R196: compares write the whole mask; selection, moves, broadcast, extraction and permutation. R199 and R200: table
lookup in the scratchpad, and the decoding of packed ternary bytes. -/
def Obligations.VectorMovesAndTables : Prop :=
  (∀ (s : State) (d a b : VReg) (e g : BitVec 5) (k m : MReg) (t : VType),
     VReady s [e.setWidth 6, g.setWidth 6] [d, a, b] →
     let gb := s.me.rg (g.setWidth 6)
     let from_ : Fin 64 := ⟨gb.toNat % 64, Nat.mod_lt _ (by decide)⟩
     let cmp (i : Instr) (c : Nat → Nat → Bool) : Prop :=
       ∃ x, exec i s = leaves s 2 (s.me.wm m x) ∧
         ∀ l : Fin 64, x.getLsbD l.val = (lit s k l.val && c (lane s a l).toNat (lane s b l).toNat)
     let real (x y : Nat) : Option Ordering := (FFmt.fp32.decode x).cmp (FFmt.fp32.decode y)
     (m ≠ 0 → t ∈ [VType.i32, .ui32] →
       cmp (.vcmpeq m a b k t) (fun x y => decide (valueOf t x = valueOf t y)) ∧
       cmp (.vcmplt m a b k t) (fun x y => decide (valueOf t x < valueOf t y)) ∧
       cmp (.vcmple m a b k t) (fun x y => decide (valueOf t x ≤ valueOf t y))) ∧
     (m ≠ 0 →
       cmp (.vcmpeq m a b k .f32) (fun x y => real x y == some .eq) ∧
       cmp (.vcmplt m a b k .f32) (fun x y => real x y == some .lt) ∧
       cmp (.vcmple m a b k .f32) (fun x y => real x y == some .lt || real x y == some .eq)) ∧
     (∃ x, exec (.vsel d a b k) s = leaves s 2 (s.me.wv d x) ∧ ∀ l : Fin 64, x[l] =
       if s.me.spr.vc.toNat ≤ l.val then lane s d l
       else if k = 0 ∨ (s.me.m[k.toNat]'k.isLt).getLsbD l.val = true then lane s a l else lane s b l) ∧
     Writes s (.vmov d a k) k d 32 (whole fun l => lane s a l) ∧
     Writes s (.vbcast d g k t) k d t.width (fun _ _ => (gb.toNat % 2 ^ t.width, 0)) ∧
     (t ∈ [VType.i32, .ui32, .f32] → exec (.vext e a g k t) s =
       puts s 2 (e.setWidth 6) (if lit s k from_.val = false then 0
         else if t = .i32 then BitVec.ofInt 64 (lane s a from_).toInt else BitVec.ofNat 64 (lane s a from_).toNat)) ∧
     Writes s (.vperm d a b k) k d 32 (whole fun l => lane s a ⟨(lane s b l).toNat % 64, Nat.mod_lt _ (by decide)⟩)) ∧
  (∀ (s : State) (d a : VReg) (g : BitVec 5) (h : BitVec 3) (k : MReg), VReady s [g.setWidth 6] [d, a] →
     let x := (s.me.rg (g.setWidth 6)).toNat % 2 ^ 32
     let src (q : Nat) := byteAt s a (51 * h.toNat + q)
     let wrong (q : Nat) : Bool := (lit s k (5 * q / 4) || lit s k ((5 * q + 4) / 4)) && decide (242 < src q)
     let n := (List.range 51).countP wrong
     (x % 1024 = 0 → x + 1024 ≤ 0x180000 → Unclaimed s.here false x 1024 →
       Writes s (.vlut d a g k .ui32) k d 32 (fun l _ => (s.here.spad.nat (x + 4 * ((lane s a l).toNat % 256)) 4, 0))) ∧
     (x % 256 = 0 → x + 256 ≤ 0x180000 → Unclaimed s.here false x 256 →
       Writes s (.vlut d a g k .ui8) k d 8 (fun l j => (s.here.spad.nat (x + laneElem 8 (lane s a l) j) 1, 0))) ∧
     (x % 1024 ≠ 0 → exec (.vlut d a g k .ui32) s = traps s 0x0006) ∧
     (h.toNat ≤ 4 → n = 0 → ∀ sub,
       Writes s (.vunpk3 d a sub h k) k d 8 (fun l j =>
         let e := 4 * l.val + j
         (if e = 255 then 0 else weight (src (e / 5)) (e % 5), 0))) ∧
     (h.toNat ≤ 4 → n ≠ 0 → exec (.vunpk3 d a false h k) s = traps s 0x0002) ∧
     (h.toNat ≤ 4 → n ≠ 0 → ∃ x,
       exec (.vunpk3 d a true h k) s = brings s (s.me.wv d x) 2 none (some d) 0x080 n ∧
       (∀ l : Fin 64, lit s k l.val = false → x[l] = lane s d l) ∧
       ∀ l : Fin 64, lit s k l.val = true → ∀ j, j < 4 → laneElem 8 x[l] j =
         let e := 4 * l.val + j
         if e = 255 ∨ 242 < src (e / 5) then 0 else weight (src (e / 5)) (e % 5)))

namespace Sys2Proof.Claims

/-- The value of a node of R207's tree: at level 0 a lane, above it what its two children give. -/
def node {α : Type} (comb : α → α → α) (leaf : Nat → Option α) : Nat → Nat → Option α
  | 0, j => leaf j
  | n + 1, j =>
    match node comb leaf n (2 * j), node comb leaf n (2 * j + 1) with
    | some x, some y => some (comb x y)
    | some x, none => some x
    | none, y => y

/-- An active lane's pattern. -/
def leafAt (s : State) (k : MReg) (a : VReg) (j : Nat) : Option Nat :=
  if h : j < 64 then (if lit s k j then some (lane s a ⟨j, h⟩).toNat else none) else none

/-- The active lanes up to lane `l`, rising. -/
def upTo (s : State) (k : MReg) (a : VReg) (l : Nat) : List Nat := (List.range (l + 1)).filterMap (leafAt s k a)

/-- The sum of a list from its first member on, in F32, with the flags of its last addition (R208). -/
def runningSum : List Nat → Nat × Flags
  | [] => (0, 0)
  | y :: ys => ys.foldl (fun p z => fAdd FFmt.fp32 p.1 z) (y, 0)

/-- The larger or smaller of two elements (R67, R193). -/
def extreme (t : VType) (big : Bool) (x y : Nat) : Nat :=
  if t = .f32 then fminmax FFmt.fp32 big x y
  else if big then (if valueOf t x < valueOf t y then y else x) else (if valueOf t y < valueOf t x then y else x)

end Sys2Proof.Claims

/-- R207 and R208: the reductions take the value at the root of the fixed tree, and the scan adds in rising lane order. R209 and
R210: the instructions on masks. -/
def Obligations.ReductionsAndMasks : Prop :=
  (∀ (s : State) (e : BitVec 5) (d a : VReg) (k : MReg) (t : VType), VReady s [e.setWidth 6] [d, a] →
     let r : GReg := e.setWidth 6
     let add (x y : Nat × Flags) : Nat × Flags := let z := fAdd FFmt.fp32 x.1 y.1; (z.1, x.2 ||| y.2 ||| z.2)
     let sum := node add (fun j => (leafAt s k a j).map fun x => (x, 0)) 6 0
     let best (big : Bool) := node (extreme t big) (leafAt s k a) 6 0
     let ext (i : Instr) (big : Bool) (none_ : Dword) : Prop :=
       exec i s = puts s 2 r (match best big with
         | some x => if t = .i32 then BitVec.ofInt 64 (valueOf .i32 x) else BitVec.ofNat 64 x
         | none => none_)
     (t ∈ [VType.i32, .ui32] → exec (.vrsum e a k t) s = puts s 2 r (BitVec.ofInt 64 ((upTo s k a 63).map (valueOf t)).sum)) ∧
     exec (.vrsum e a k .f32) s =
       brings s (s.me.wg r (BitVec.ofNat 64 ((sum.map fun x => x.1).getD 0))) 6 (if r = 0 then none else some r) none
         ((sum.map fun x => x.2).getD 0) 0 ∧
     (t = .i32 → ext (.vrmax e a k t) true 0xFFFFFFFF80000000 ∧ ext (.vrmin e a k t) false 0x7FFFFFFF) ∧
     (t = .ui32 → ext (.vrmax e a k t) true 0 ∧ ext (.vrmin e a k t) false 0xFFFFFFFF) ∧
     (t = .f32 → ext (.vrmax e a k t) true 0xFF800000 ∧ ext (.vrmin e a k t) false 0x7F800000) ∧
     (t ∈ [VType.i32, .ui32] → Writes s (.vpfx d a k t) k d 32 (fun l _ => ((upTo s k a l.val).sum % 2 ^ 32, 0))) ∧
     Writes s (.vpfx d a k .f32) k d 32 (fun l _ => runningSum (upTo s k a l.val)) 6) ∧
  (∀ (s : State) (d a b : BitVec 3) (e g : BitVec 5) (v w : VReg), VReady s [e.setWidth 6, g.setWidth 6] [v, w] →
     let x := s.me.rm a
     let y := s.me.rm b
     let n := (s.me.rg (g.setWidth 6)).toNat
     let md : BitVec 5 := d.setWidth 5
     let ma : BitVec 5 := a.setWidth 5
     let mb : BitVec 5 := b.setWidth 5
     let puttsM (r : Dword) : Out := leaves s 2 (s.me.wm d r)
     (d ≠ 0 →
       exec (.vmsk md ma mb .and) s = puttsM (x &&& y) ∧
       exec (.vmsk md ma mb .or) s = puttsM (x ||| y) ∧
       exec (.vmsk md ma mb .xor) s = puttsM (x ^^^ y) ∧
       exec (.vmsk md ma mb .andn) s = puttsM (x &&& ~~~y) ∧
       exec (.vmsk md ma 0 .not) s = puttsM (~~~x) ∧
       exec (.vmsk md g 0 .gtom) s = puttsM (s.me.rg (g.setWidth 6)) ∧
       exec (.vmsk md g 0 .first) s = puttsM (BitVec.ofNat 64 (2 ^ min n 64 - 1))) ∧
     exec (.vmsk e ma 0 .mtog) s = puts s 2 (e.setWidth 6) x ∧
     exec (.vpop e a) s = puts s 2 (e.setWidth 6)
       (BitVec.ofNat 64 ((List.range 64).countP fun i => decide (i < s.me.spr.vc.toNat) && x.getLsbD i)) ∧
     (∃ r, exec (.vcomp v w a) s = leaves s 2 (s.me.wv v r) ∧ ∀ l : Fin 64,
       r[l] = BitVec.ofNat 32 ((upTo s a w 63).getD l.val 0)) ∧
     Writes s (.viota v a) a v 32 (fun l _ => ((List.range l.val).countP fun i => lit s a i, 0)))

namespace Sys2Proof.Claims

/-- The scratchpad row of VLDS and VSTS (R203). -/
def rowAt (s : State) (g i : BitVec 5) : Nat := ((s.me.rg (g.setWidth 6)).toNat + 256 * i.toNat) % 2 ^ 32

/-- The word of a lane of VGATHS and VSCATS (R206). -/
def wordAt (s : State) (g : BitVec 5) (b : VReg) (l : Fin 64) : Nat :=
  ((s.me.rg (g.setWidth 6)).toNat + 4 * (lane s b l).toNat) % 2 ^ 32

/-- `m'` is `m` with the word of each active lane of `v[d]` at its address, of lanes that name one byte the highest, and
every other byte as it was. -/
def StoredLanes (s : State) (k : MReg) (d : VReg) (at_ : Fin 64 → Nat) (m m' : Mem) : Prop :=
  ∀ a, (∀ l : Fin 64, lit s k l.val = true → ¬(at_ l ≤ a ∧ a < at_ l + 4) ∨
      (∃ h : Fin 64, l < h ∧ lit s k h.val = true ∧ at_ h ≤ a ∧ a < at_ h + 4) ∨
      m'.get a = (lane s d l).extractLsb' (8 * (a - at_ l)) 8) ∧
    ((∀ l : Fin 64, lit s k l.val = true → ¬(at_ l ≤ a ∧ a < at_ l + 4)) → m'.get a = m.get a)

/-- The next state when a store put `m'` into the tile file of its core. -/
def storesTiles (s : State) (m' : Mem) : Out := .next ((s.setHere { s.here with tiles := m' }).setMe (gone s.me 2))

/-- The active lanes of a vector access through a handle, each on its way. -/
def laneAccesses (s : State) (h : Handle) (hr : HReg) (off : Nat) (k : MReg) (store : Bool) (op : Fin 64 → AccessOp) : List Event :=
  ((List.finRange 64).filter fun l => lit s k l.val).map fun l => sent s h hr (off + 4 * l.val) 4 store (op l)

/-- A claimed range of the scoreboard holds an access of `n` bytes at `x` up: a load meets write ranges, a store any (R141). -/
abbrev Claimed (c : Core) (store : Bool) (x n : Nat) : Prop :=
  ∃ r ∈ c.board, (store = true ∨ r.write = true) ∧ 0 < r.len ∧ ¬Apart x n r.base r.len

end Sys2Proof.Claims

/-- R141, R203, R204, R206 and R221: rows and words of the scratchpad and rows of tiles. Stores write the active lanes' words
and no other byte, once the strand's flushes have completed; an access waits behind a claimed range, and one out of its bounds
traps. R205: vector accesses of global memory send one access for each active lane, at an exact offset, through the handle or
through the translation a new walk finds; with no active lane they only pass, and the first active lane that fails a check of
its handle decides what they raise. R112 and R205: the register takes the loaded lanes once all have arrived, or once a fatal
error has ended the instance; the other lanes stand, and before then the load is looked at again in the next cycle. -/
def Obligations.VectorAccess : Prop :=
  (∀ (s : State) (d b : VReg) (g i : BitVec 5) (t : TReg) (k : MReg), VReady s [g.setWidth 6] [d, b] →
     s.here.spad.wf = true → s.here.tiles.wf = true →
     let x := rowAt s g i
     let row := (s.me.rg (g.setWidth 6)).toNat
     let tx := 16384 * t.toNat + 256 * row
     let fits : Prop := x % 4 = 0 ∧ x + 256 ≤ 0x180000
     let words : Prop := (s.me.rg (g.setWidth 6)).toNat % 4 = 0 ∧ ∀ l : Fin 64, lit s k l.val = true → wordAt s g b l + 4 ≤ 0x180000
     let free (store : Bool) : Prop := ∀ l : Fin 64, lit s k l.val = true → Unclaimed s.here store (wordAt s g b l) 4
     let claimed (store : Bool) : Prop := ∃ l : Fin 64, lit s k l.val = true ∧ Claimed s.here store (wordAt s g b l) 4
     let stays (j : Instr) (c : StrandCond) : Prop := ∃ u, exec j s = .next u ∧ Stays s u c
     (fits → Unclaimed s.here false x 256 →
       Writes s (.vlds d g i k) k d 32 (fun l _ => (s.here.spad.nat (x + 4 * l.val) 4, 0))) ∧
     (fits → Unclaimed s.here true x 256 → s.me.flushes = [] →
       ∃ m, exec (.vsts d g i k) s = storesSpad s 2 m ∧ StoredLanes s k d (fun l => x + 4 * l.val) s.here.spad m) ∧
     (¬fits → exec (.vlds d g i k) s = traps s 0x0006 ∧ exec (.vsts d g i k) s = traps s 0x0006) ∧
     (fits → Claimed s.here false x 256 → stays (.vlds d g i k) .rangeBoard) ∧
     (fits → Claimed s.here true x 256 → stays (.vsts d g i k) .rangeBoard) ∧
     (fits → Unclaimed s.here true x 256 → s.me.flushes ≠ [] → stays (.vsts d g i k) .interlock) ∧
     (s.here.tfull t = true → row < 64 →
       Writes s (.vldt d t g k) k d 32 (fun l _ => (s.here.tiles.nat (tx + 4 * l.val) 4, 0))) ∧
     (s.here.tfull t = false → row < 64 → s.me.flushes = [] →
       ∃ m, exec (.vstt d t g k) s = storesTiles s m ∧ StoredLanes s k d (fun l => tx + 4 * l.val) s.here.tiles m) ∧
     (s.here.tfull t = true → 64 ≤ row → exec (.vldt d t g k) s = traps s 0x0002) ∧
     (s.here.tfull t = false → 64 ≤ row → exec (.vstt d t g k) s = traps s 0x0002) ∧
     (s.here.tfull t = false → stays (.vldt d t g k) .fullEmpty) ∧
     (s.here.tfull t = true → stays (.vstt d t g k) .fullEmpty) ∧
     (words → free false →
       Writes s (.vgaths d g b k) k d 32 (fun l _ => (s.here.spad.nat (wordAt s g b l) 4, 0))) ∧
     (words → free true → s.me.flushes = [] →
       ∃ m, exec (.vscats d g b k) s = storesSpad s 2 m ∧ StoredLanes s k d (wordAt s g b) s.here.spad m) ∧
     (¬words → exec (.vgaths d g b k) s = traps s 0x0006 ∧ exec (.vscats d g b k) s = traps s 0x0006) ∧
     (words → claimed false → stays (.vgaths d g b k) .rangeBoard) ∧
     (words → claimed true → stays (.vscats d g b k) .rangeBoard)) ∧
  (∀ (s : State) (d : VReg) (hr : HReg) (g : BitVec 5) (k : MReg), VReady s [g.setWidth 6] [d] →
     let off := (s.me.rg (g.setWidth 6)).toNat
     let h := s.me.rh hr
     let die := dieOf s.turn.core
     let some_ : Prop := ∃ l : Fin 64, lit s k l.val = true
     let first (l : Fin 64) : Prop := lit s k l.val = true ∧ ∀ j : Fin 64, j < l → lit s k j.val = false
     let go (store : Bool) : Prop := ∀ l : Fin 64, lit s k l.val = true → HandleFits s hr (off + 4 * l.val) 4 store
     let both (x : Out) : Prop := exec (.vldg d hr g k) s = x ∧ exec (.vstg d hr g k) s = x
     let loads (mask : Dword) (h : Handle) : List Event := laneAccesses s h hr off k false (.laneLoad d) ++ [.vldgLanesArrive s.turn d mask]
     let stores (h : Handle) : List Event := laneAccesses s h hr off k true fun l => .store (BitVec.ofNat 64 (lane s d l).toNat)
     let u := s.setMe (counted s.me)
     let y := u.walk die s.me.spr.space h.base.toNat
     (off % 4 ≠ 0 → both (traps s 0x0002)) ∧
     (off % 4 = 0 → ¬some_ → both (leaves s 2 s.me)) ∧
     (some_ → LeaseRuns s h →
       (go false → ∃ mask, (∀ l : Fin 64, mask.getLsbD l.val = lit s k l.val) ∧
         exec (.vldg d hr g k) s = .next ((s.setMe (gone s.me 2)).dueAll (loads mask h))) ∧
       (go true → exec (.vstg d hr g k) s = .next ((s.setMe (gone s.me 2)).dueAll (stores h)))) ∧
     (some_ → ¬LeaseRuns s h → u.walkStalls die s.me.spr.space h.base.toNat = false →
       ∀ l c, y.2.found = some (l, c) → LeaseRuns s (Handle.ofLease l c) →
         let t := (y.1.keepTrans die s.me.spr.space y.2).setMe (gone (s.me.wh hr (Handle.ofLease l c)) 2)
         let serves (store : Bool) : Prop := go store ∧ ∀ i : Fin 64, lit s k i.val = true → LeaseServes l (off + 4 * i.val) 4 store
         (serves false → ∃ mask, (∀ l : Fin 64, mask.getLsbD l.val = lit s k l.val) ∧
           exec (.vldg d hr g k) s = .next (t.dueAll (loads mask (Handle.ofLease l c)))) ∧
         (serves true → exec (.vstg d hr g k) s = .next (t.dueAll (stores (Handle.ofLease l c))))) ∧
     (∀ l : Fin 64, off % 4 = 0 → first l →
       let at_ := off + 4 * l.val
       (h.kind = 3 → both (traps s 0x0002)) ∧
       (h.kind ≠ 3 → h.state = .invalid → both (fatally s 0x0020 (BitVec.ofNat 64 at_))) ∧
       (h.kind ≠ 3 → h.state = .absent → both (fatally s 0x0020 (h.base + BitVec.ofNat 64 at_))) ∧
       (h.kind ≠ 3 → h.state = .resolving → ∃ t, both (.next t) ∧ Stays s t .interlock) ∧
       (h.kind ≠ 3 → h.state = .valid → at_ + 4 ≤ pageBytes h.psz → h.wr = false →
         exec (.vstg d hr g k) s = fatally s 0x0021 (h.base + BitVec.ofNat 64 at_))) ∧
     (∀ l : Fin 64, off % 4 = 0 → lit s k l.val = true → h.kind ≠ 3 → h.state = .valid → pageBytes h.psz < off + 4 * l.val + 4 →
       (∀ j : Fin 64, j < l → lit s k j.val = true → HandleServes s hr (off + 4 * j.val) 4 true) →
       both (fatally s 0x0021 (h.base + BitVec.ofNat 64 (off + 4 * l.val))))) ∧
  (∀ (s : State) (w : Who) (d : VReg) (mask : Dword),
     let z := s.strand w
     let ended : Prop := (s.instOn w.core).status = .terminated
     let come (i : Nat) : Prop := (Table.find z.vload (64 * d.toNat + i)).isSome = true
     ((ended ∨ ∀ i, i < 64 → mask.getLsbD i = true → come i) →
       ∃ v, exec (.vldgLanesArrive w d mask) s =
           .next (s.setStrand w { z with v := z.v.set d.toNat v d.isLt, vload := z.vload.filter fun x => x.1 / 64 != d.toNat }) ∧
         ∀ i : Fin 64, v[i] = if mask.getLsbD i.val = true then Table.get 0 z.vload (64 * d.toNat + i.val) else (z.rv d)[i]) ∧
     (¬ended → (∃ i, i < 64 ∧ mask.getLsbD i = true ∧ ¬come i) →
       exec (.vldgLanesArrive w d mask) s = .next (s.timer (s.time.toNat + 1) (.vldgLanesArrive w d mask))))

/-! ### The matrix strand and the frame (08, 09) -/

namespace Sys2Proof.Claims

/-- The frame the matrix strand prepares. -/
def frameOf (s : State) : Frame := s.here.frame

/-- The next state when an instruction of the matrix strand leaves the frame of its core as `f`. -/
def framed (s : State) (f : Frame) : Out := .next ((s.setHere { s.here with frame := f }).setMe (gone s.me 2))

/-- The next state when the instruction leaves the shadow table as `t`. -/
def shadowed (s : State) (t : Vector Dword 48) : Out := framed s { frameOf s with shadow := t }

/-- The shadow table with the given dword replaced. -/
def withDword (t : Vector Dword 48) (i : Nat) (x : Dword) : Vector Dword 48 := t.setIfInBounds i x

/-- No drain and no copy of the drain table is in progress. -/
abbrev Undrained (s : State) : Prop := (frameOf s).drain = none ∧ (frameOf s).mlut = none

/-- M has nothing in progress on the frame: neither of these, nor an MAZERO or MSCACC (R176). -/
abbrev FrameIdle (s : State) : Prop := Undrained s ∧ (frameOf s).deckOp = none

/-- The instance on a core is looked at for its retirement (R39). -/
def looksAt (s : State) (c : CoreId) : State :=
  match (s.core c).inst with
  | some k => s.due (.instanceRetire k)
  | none => s

/-- The next state when an MAZERO or MSCACC begins: it leaves the deck as `d`, is done 64 cycles on, and raises its flags then
(R179, R180, R185). -/
def deckBegun (s : State) (n : BitVec 2) (d : Table DeckEntry) (f : Flags) : Out :=
  .next (((s.setHere { s.here with deck := d, frame := { frameOf s with deckOp := some (n, f) } }).setMe (gone s.me 2)).timer
    (s.time.toNat + 64) (.deckDone s.turn.core))

/-- A deck entry; one not listed is zero (R178). -/
def entryOf (d : Table DeckEntry) (k : Nat) : DeckEntry := Table.get { t := 0, p := 0, i := 0 } d k

/-- A table's keys rise. -/
abbrev Rising {α : Type} (d : Table α) : Prop := (d.map fun x => x.1).Pairwise (· < ·)

/-- What MDRAIN checks before a drain starts (R182). -/
abbrev DrainFits (s : State) (ds quant bias : Bool) (a : GReg) : Prop :=
  let t := (frameOf s).shadow
  let off := fld (s.me.rg a) 31 0
  let stride := fld t[38] 31 0
  fld t[35] 63 32 = 0 ∧ fld t[36] 63 47 = 0 ∧ fld t[38] 63 32 = 0 ∧ fld t[47] 63 33 = 0 ∧
    (bias = true → fld t[35] 31 0 % 4 = 0 ∧ fld t[35] 31 0 + 256 ≤ 0x180000) ∧
    (quant = true → 2 ≤ fld t[36] 43 40 ∧ fld t[36] 43 40 ≤ 5) ∧
    (ds = true → off % 32 = 0 ∧ stride % 32 = 0 ∧
      off + 63 * stride + (if quant = false then 256 else if fld t[36] 43 40 = 4 then 32 else 64) ≤ 0x180000)

end Sys2Proof.Claims

/-- R166 to R172: the writers of the shadow table and of the drain table write their dwords and nothing else. R173 to R177: MGO
copies the shadow table, numbers its job and lets the frame begin; the traps and the wait of its checks, which ends when the
frame job held has retired and no drain or deck operation uses a tile of the new table; what MSTAT reads and when MWAIT
completes. That a held MGO is in R24's queue wait is log entry 52. R78 and R178 to R181: MAZERO clears the entries of its tile
and no other; MSCACC folds the partials of its tile into T and clears them, and its flags reach M when it is done; both wait for
a deck tile in use. That the deck's keys rise is kept by every step (MemoryStaysCanonical). -/
def Obligations.MatrixInstructions : Prop :=
  ((∀ (s : State) (n e : BitVec 6) (k w : BitVec 2) (c : BitVec 3) (d a b : GReg) (ord asg ta tb : Bool),
     Ready s [.m] [a, b, d] →
     let t := (frameOf s).shadow
     let x := s.me.rg a
     let off := x.toNat % 2 ^ 32
     (n.toNat ≤ 23 → exec (.nset n a ta) s = shadowed s (withDword t n.toNat x)) ∧
     (24 ≤ n.toNat → exec (.nset n a ta) s = traps s 0x0001) ∧
     (e.toNat ≤ 5 → exec (.msrc e a ta) s = shadowed s (withDword t (24 + 4 * (e.toNat % 2) + e.toNat / 2) x)) ∧
     exec (.mdst d a b ta tb) s =
       shadowed s (withDword (withDword (withDword t 32 (s.me.rg d)) 33 x) 34 (s.me.rg b)) ∧
     (c.toNat ≤ 4 → w.toNat ≤ 2 → exec (.mmode c w ord asg) s = shadowed s (withDword t 32
       (BitVec.ofNat 64 (c.toNat + 16 * w.toNat + (if ord then 64 else 0) + (if asg then 128 else 0))))) ∧
     (Undrained s →
       exec (.mepi k a ta) s = shadowed s (withDword t (35 + k.toNat) x) ∧
       exec .nclr s = framed s { frameOf s with shadow := nestReset, lut := Vector.replicate 256 0 }) ∧
     (¬Undrained s → Waits s (.mepi k a ta) .interlock ∧ Waits s .nclr .interlock) ∧
     ((frameOf s).mlut = none → off % 8 = 0 → off + 2048 ≤ 0x180000 →
       exec (.mlut a ta) s = .next (((s.setHere { s.here with frame := { frameOf s with
         shadow := withDword t 47 (BitVec.ofNat 64 (off + 2 ^ 32)), mlut := some off } }).setMe (gone s.me 2)).due
           (.mlutCopyDone s.turn.core))) ∧
     ((frameOf s).mlut = none → (off % 8 ≠ 0 ∨ 0x180000 < off + 2048) → exec (.mlut a ta) s = traps s 0x0002)) ∧
   (∀ (s : State) (c : CoreId) (off : Nat), (s.core c).frame.mlut = some off → Unclaimed (s.core c) false off 2048 →
     ∃ l, exec (.mlutCopyDone c) s =
         .next (looksAt (s.setCore c { s.core c with frame := { (s.core c).frame with lut := l, mlut := none } }) c) ∧
       ∀ k : Fin 256, l[k] = (s.core c).spad.dword (off + 8 * k.val))) ∧
  (∀ (s : State) (fa fb : Fmt) (acc : Acc) (v d : GReg) (tv : Bool), Ready s [.m] [v, d] →
     let f := frameOf s
     let go : Instr := .mgo fa fb acc v tv
     (go.wf = false → exec go s = traps s 0x0001) ∧
     (go.wf = true → f.job = none → f.drain = none → f.deckOp = none → Nest.ok f.shadow fa fb acc = true →
       ∃ j : FrameJob, j.fa = fa ∧ j.fb = fb ∧ j.acc = acc ∧ j.vc = min (s.me.rg v).toNat 64 ∧ j.id = f.nextJ ∧ j.state = .queued ∧
         j.step = 0 ∧ j.run = none ∧ j.ending = none ∧
         exec go s = .next (((s.setHere { s.here with frame := { f with active := f.shadow, job := some j, nextJ := f.nextJ + 1 } }).setMe
           (gone s.me 2)).due (.stepBegin s.turn.core))) ∧
     (go.wf = true → f.job = none → f.drain = none → f.deckOp = none → Nest.ok f.shadow fa fb acc = false → exec go s = traps s 0x0002) ∧
     (go.wf = true → (f.job ≠ none ∨ (∃ x, f.drain = some x ∧ Nest.addresses f.shadow x.deck.toNat = true) ∨
         ∃ x, f.deckOp = some x ∧ Nest.addresses f.shadow x.1.toNat = true) →
       s.myInst.preq = false → s.myInst.stop = false → Waits s go .queueWait) ∧
     (f.job = none → FrameIdle s → exec .mwait s = leaves s 2 s.me) ∧
     ((f.job ≠ none ∨ ¬FrameIdle s) → s.myInst.preq = false → s.myInst.stop = false → Waits s .mwait .queueWait) ∧
     (∃ x, exec (.mstat d) s = puts s 2 d x ∧ fld x 31 0 = f.lid.toNat ∧ fld x 34 32 = f.lst.toNat ∧ fld x 35 35 = 0 ∧
       fld x 38 36 = (match f.job with
         | none => 0
         | some j => match j.state with | .queued => 1 | .awaitSem => 1 | .awaitTile => 2 | .awaitLeave => 3 | .halted => 3 | .running => 4) ∧
       (fld x 39 39 = 1 ↔ ¬FrameIdle s) ∧ fld x 47 40 = 0 ∧ fld x 63 48 = f.cause.toNat)) ∧
  ((∀ (s : State) (n : BitVec 2) (sfa sfb nsa nsb ta tb : Bool) (a b : GReg), Ready s [.m] [a, b] →
     let deck := s.here.deck
     let oa := (s.me.rg a).toNat % 2 ^ 32
     let ob := (s.me.rg b).toNat % 2 ^ 32
     let scale (no sf : Bool) (o i : Nat) : FVal := if no then .fin false 1 0 else scaleVal sf (s.here.spad.get (o + 2 * i)).toNat
     let scaled : Instr := .mscacc n sfa sfb nsa nsb a b ta tb
     let reads (no : Bool) (o : Nat) : Prop := no = true ∨ o % 2 = 0 ∧ o + 128 ≤ 0x180000
     ((frameOf s).drain = none → (frameOf s).deckOp = none → (frameOf s).job = none →
       (Rising deck → ∃ d, exec (.mazero n) s = deckBegun s n d 0 ∧
         ∀ k, entryOf d k = if k / 4096 = n.toNat then { t := 0, p := 0, i := 0 } else entryOf deck k) ∧
       (scaled.wf = true → reads nsa oa → reads nsb ob → (nsa = true ∨ Unclaimed s.here false oa 128) →
           (nsb = true ∨ Unclaimed s.here false ob 128) →
         ∃ d fl, exec scaled s = deckBegun s n d fl ∧
           ∀ k, entryOf d k =
             if k / 4096 = n.toNat ∧ (entryOf deck k).i ≠ 0 then
               { t := BitVec.ofNat 32 (scaledAdd (entryOf deck k).t.toNat (entryOf deck k).p.toNat
                   (scale nsa sfa oa (k / 64 % 64)) (scale nsb sfb ob (k % 64))).1, p := 0, i := 0 }
             else entryOf deck k) ∧
       (scaled.wf = true → ¬(reads nsa oa ∧ reads nsb ob) → exec scaled s = traps s 0x0002)) ∧
     (scaled.wf = false → exec scaled s = traps s 0x0001) ∧
     ((frameOf s).drain ≠ none ∨ (frameOf s).deckOp ≠ none →
       Waits s (.mazero n) .interlock ∧ (scaled.wf = true → Waits s scaled .interlock))) ∧
   (∀ (s : State) (c : CoreId) (n : BitVec 2) (f : Flags), (s.core c).frame.deckOp = some (n, f) →
     let u := (s.setCore c { s.core c with frame := { (s.core c).frame with deckOp := none } }).raise ⟨c, .m⟩ f
     runEvent (.deckDone c) s = .next (looksAt u c) ∧ (u.strand ⟨c, .m⟩).spr.fst = (s.strand ⟨c, .m⟩).spr.fst ||| f))

/-- R164 and R182 to R185: MDRAIN starts a drain with the epilogue of the shadow table; the drain writes one row of its tile at
a time and no other byte, and after the last row the tile is full and M has its flags. -/
def Obligations.DrainRows : Prop :=
  (∀ (s : State) (n : BitVec 2) (ds quant act bias ipl satm ta : Bool) (a : GReg), Ready s [.m] (if ds then [a] else []) →
    let t := (frameOf s).shadow
    let i : Instr := .mdrain n ds quant act bias a ipl satm ta
    let tile : Option TReg := if ds then none else some (a.setWidth 4)
    let idle : Prop := (frameOf s).drain = none ∧ (frameOf s).deckOp = none ∧ (frameOf s).job = none ∧ (act = true → (frameOf s).mlut = none)
    let open_ : Prop := ∀ q, tile = some q → s.here.tfull q = false
    (i.wf = false → exec i s = traps s 0x0001) ∧
    (i.wf = true → idle → open_ → DrainFits s ds quant bias a →
      ∃ d : Drain, exec i s =
          .next (((s.setHere { s.here with frame := { frameOf s with drain := some d } }).setMe (gone s.me 2)).due (.drainRowWrite s.turn.core)) ∧
        d.deck = n ∧ d.tile = tile ∧ d.off = fld (s.me.rg a) 31 0 ∧ d.quant = quant ∧ d.act = act ∧ d.bias = bias ∧ d.ipl = ipl ∧
        d.satm = satm ∧ d.epi = #v[t[35], t[36], t[37], t[38]] ∧ d.row = 0 ∧ d.flags = 0 ∧
        (bias = true → d.biases = (List.range 64).map fun j => s.here.spad.nat (fld t[35] 31 0 + 4 * j) 4)) ∧
    (i.wf = true → idle → open_ → ¬DrainFits s ds quant bias a → exec i s = traps s 0x0002) ∧
    (i.wf = true → idle → ¬open_ → Waits s i .fullEmpty)) ∧
  (∀ (s : State) (c : CoreId) (d : Drain) (t : TReg), (s.core c).frame.drain = some d → d.tile = some t → d.quant = false →
    (s.core c).tiles.wf = true → d.row < 64 →
    let value (j : Nat) := drainEntry d (s.core c).frame.lut (entryOf (s.core c).deck (4096 * d.deck.toNat + 64 * d.row + j)) j
    let at_ := 16384 * t.toNat + 256 * d.row
    ∃ u, exec (.drainRowWrite c) s = .next u ∧ (u.core c).spad = (s.core c).spad ∧ u.mem = s.mem ∧ (u.core c).deck = (s.core c).deck ∧
      (∀ x, (u.core c).tiles.get x = if at_ ≤ x ∧ x < at_ + 256 then BitVec.ofNat 8 ((value ((x - at_) / 4)).1 / 256 ^ ((x - at_) % 4))
        else (s.core c).tiles.get x) ∧
      (d.row < 63 → (u.core c).tileFull = (s.core c).tileFull ∧ ((u.core c).frame.drain.map fun e => e.row) = some (d.row + 1)) ∧
      (d.row = 63 → (u.core c).tfull t = true ∧ (u.core c).frame.drain = none ∧
        ∀ b, (u.strand ⟨c, .m⟩).spr.fst.getLsbD b = ((s.strand ⟨c, .m⟩).spr.fst.getLsbD b || d.flags.getLsbD b ||
          (List.range 64).any fun j => (value j).2.getLsbD b))) ∧
  (∀ (d : Drain) (l : Vector Dword 256) (e : DeckEntry) (j : Nat), d.bias = false → d.act = false → d.quant = false →
    (d.ipl = false → drainEntry d l e j = (e.t.toNat, 0)) ∧
    (d.ipl = true → d.satm = false → drainEntry d l e j = (e.i.toNat % 2 ^ 32, 0)) ∧
    (d.ipl = true → d.satm = true → drainEntry d l e j =
      (((max (-2 ^ 31) (min (2 ^ 31 - 1) e.i.toInt)) % 2 ^ 32).toNat, if e.i.toInt < -2 ^ 31 ∨ 2 ^ 31 - 1 < e.i.toInt then 0x020 else 0)))

namespace Sys2Proof.Claims

/-- The core's frame runs job `j` with `r`. -/
abbrev Runs (s : State) (c : CoreId) (j : FrameJob) (r : FrameRun) : Prop :=
  (s.core c).frame.job = some j ∧ j.ending = none ∧ j.run = some r

/-- A lane other than `but` has yet to evaluate the oldest chunk, which is none past the job's last: no chunk completes. -/
abbrev Unfinished (s : State) (c : CoreId) (r : FrameRun) (but : Option (Fin 64)) : Prop :=
  r.oldest < r.limit * Nest.chunks (s.core c).frame.active ∧ ∃ i : Fin 64, some i ≠ but ∧ r.lanes[i].next ≤ r.oldest

/-- Jobs of a core may go on: its instance runs and is not asked to stop (R115, R121). -/
abbrev Goes (s : State) (c : CoreId) : Prop :=
  ∃ k, (s.core c).inst = some k ∧ (s.getInst k).status = .running ∧ (s.getInst k).preq = false ∧ (s.getInst k).stop = false

/-- The frame job after a step, with what it runs. -/
def runAfter (t : State) (c : CoreId) : Option (Option FrameRun) := (t.core c).frame.job.map fun j => j.run

end Sys2Proof.Claims

/-- R145, R146, R153 and R180: a frame job passes its states in order, takes its semaphore, begins at its step with FPS partials
cleared, and ends with cause 0x0051 at a step that can read beyond a location. R154 to R156 and R160: a lane whose row yields
nothing goes on to its next chunk, a K-row that is too long faults every row, and a lane that holds an item places it in the
queue of its own rod under HOME; the B rows of a chunk land in the window once for the core, or for its multicast group. -/
def Obligations.FrameWork : Prop :=
  ((∀ (s : State) (c : CoreId) (j : FrameJob), (s.core c).frame.job = some j → j.ending = none → j.run = none → Goes s c →
     let t := (s.core c).frame.active
     let to_ (st : JobState) (f : FrameJob → FrameJob) (x : Core) : Out :=
       .next ((s.setCore c { x with frame := { x.frame with job := some (f { j with state := st }) } }).due (.stepBegin c))
     (j.state = .queued → (Nest.wen t = false ∨ Nest.wamt t = 0) → exec (.stepBegin c) s = to_ .awaitTile id (s.core c)) ∧
     (j.state = .queued → Nest.wen t = true → Nest.wamt t ≠ 0 → Nest.wamt t ≤ (s.core c).semCount (Nest.wsem t) →
         (s.core c).semWait = [] → (s.core c).signals = [] →
       exec (.stepBegin c) s = to_ .awaitTile id ((s.core c).setSem (Nest.wsem t) ((s.core c).semCount (Nest.wsem t) - Nest.wamt t))) ∧
     (j.state = .awaitTile → Nest.steps t ≠ 0 → (Nest.operand t false).loc ≠ 1 → (Nest.operand t true).loc ≠ 1 →
       exec (.stepBegin c) s = to_ .awaitLeave id (s.core c)) ∧
     (j.state = .awaitTile → Nest.steps t = 0 → ∃ u, exec (.stepBegin c) s = .next u ∧
       (u.core c).frame.job = some { j with ending := some { status := .ok, cause := 0, addr := 0, detail := 0, flags := 0, drop := 0 } } ∧
       Event.frameJobComplete c ∈ u.agenda) ∧
     (j.state = .awaitLeave → j.units ≠ 0 → ∃ u r, exec (.stepBegin c) s = .next u ∧ u.mem = s.mem ∧
       (u.core c).frame.job = some { j with state := .running, run := some r } ∧ r.oldest = j.step * Nest.chunks t ∧ r.limit = Nest.steps t ∧
       ∀ k, entryOf (u.core c).deck k =
         if j.acc = .fps ∧ k / 4096 = Nest.ctile t j.step then { entryOf (s.core c).deck k with p := 0, i := 0 } else entryOf (s.core c).deck k)) ∧
   (∀ (s : State) (c : CoreId) (j : FrameJob) (r : FrameRun), Runs s c j r → Goes s c → r.fault = none →
     let t := (s.core c).frame.active
     r.limit = Nest.steps t → Unfinished s c r none → j.step < r.limit → r.loaded = j.step * Nest.chunks t →
       r.loaded < r.oldest + Nest.window t →
     (Nest.rangeFault t j.fa j.fb j.vc j.step = none →
       ∃ u, exec (.stepBegin c) s = .next u ∧ (u.core c).frame.job = some { j with step := j.step + 1 } ∧ u.mem = s.mem))) ∧
  (∀ (s : State) (c : CoreId) (j : FrameJob) (r : FrameRun), Runs s c j r →
     let t := (s.core c).frame.active
     (∀ (i : Fin 64) (it : FrameItem), r.lanes[i].item = some it → Nest.home t = true → r.rods[i].length < 64 →
       let placed : FrameItem := { it with rod := i, at_ := s.time.toNat, seq := r.lanes[i].count }
       ∃ u, exec (.laneEvaluate c i) s = .next u ∧ u.mem = s.mem ∧
         runAfter u c = some (some { r with rods := r.rods.set i (r.rods[i] ++ [placed]),
                                            lanes := r.lanes.set i { r.lanes[i] with item := none, count := r.lanes[i].count + 1 } }) ∧
         (s.time.toNat + 1, Event.rodTakeItem c i) ∈ u.timers) ∧
     (∀ i : Fin 64, r.lanes[i].item = none → Unfinished s c r (some i) → (Nest.operand t false).loc ≠ 2 →
       r.lanes[i].next < r.loaded → r.lanes[i].next < r.oldest + Nest.window t → r.lanes[i].next < r.limit * Nest.chunks t →
       let long : Prop := ∃ x ∈ r.window, x.1 = r.lanes[i].next ∧ ∃ row ∈ x.2, row.long = true
       let after (dead : Bool) : Lane := { r.lanes[i] with next := r.lanes[i].next + 1, dead := dead }
       let goes (dead : Bool) : Prop := ∃ u, exec (.laneEvaluate c i) s = .next u ∧ u.mem = s.mem ∧
         runAfter u c = some (some { r with lanes := r.lanes.set i (after dead) }) ∧
         (dead = true → r.lanes[i].dead = false → (u.core c).frame.job.any (fun x => x.faulted.getLsbD i.val) = true)
       (r.lanes[i].dead = true → goes true) ∧
       (r.lanes[i].dead = false → long → goes true) ∧
       (r.lanes[i].dead = false → ¬long → j.vc ≤ i.val → goes false)) ∧
     (Unfinished s c r none → r.loaded < r.oldest + Nest.window t → r.loaded < min j.step r.limit * Nest.chunks t →
       let rows := s.chunkRows c j r.loaded
       (∀ x ∈ rows, x.long = false) →
       let landed (u : State) : Prop := runAfter u c =
         some (some { r with loaded := r.loaded + 1, window := r.window ++ [(r.loaded, rows)], mcTil := none })
       ((Nest.operand t true).mcast = 0 → (Nest.operand t true).loc ≠ 2 →
         ∃ u, exec (.windowLoad c) s = .next u ∧ landed u ∧ u.mem = s.mem) ∧
       ((Nest.operand t true).mcast ≠ 0 → (Nest.operand t true).loc ≠ 2 → j.left.getLsbD (coreInCluster c) = false →
         s.group c j = [c] →
         (∃ u, exec (.windowLoad c) s = .next u ∧ Event.multicastLoad c ∈ u.agenda ++ u.timers.map (·.2)) ∧
         ∃ u, exec (.multicastLoad c) s = .next u ∧ landed u ∧ u.mem = s.mem)) ∧
     (∀ til, r.mcTil = some til → ∃ u, exec (.multicastTimeout c til) s = .next u ∧ Event.frameJobComplete c ∈ u.agenda ∧
       ((u.core c).frame.job.map fun y => y.ending) = some (some
         { status := .fault, cause := 0x0053, addr := j.id.setWidth 64, detail := 0, flags := 0, drop := 0 })))

/-- R157 and R158: a rod takes the head of its queue and its partials reach the deck after its slots and 64 cycles more; an
arriving item is added to its row, in the columns it has partials of, in the plane of its job, and to no other entry. R112,
R136, R137, R159 and R162: a frame job that has ended retires with its id and status, its flags at M and its signal; one whose
instance has ended before it started is dropped, and one that had started goes on to its end; one that waits when its instance
stops leaves its line. -/
def Obligations.FrameResults : Prop :=
  (∀ (s : State) (c : CoreId) (j : FrameJob) (r : FrameRun), Runs s c j r →
     let t := (s.core c).frame.active
     let now := s.time.toNat
     (∀ (q : Fin 64) (it : FrameItem) (rest : List FrameItem), r.rods[q] = it :: rest → it.at_ < now → r.busyTil[q] ≤ now →
       (∀ x ∈ r.net, x.rod = q → now < x.at_) →
       let group := min (laneGroup j.fa) (laneGroup j.fb)
       let n := (it.ks.length + group - 1) / group
       ∃ u i, exec (.rodTakeItem c q) s = .next u ∧ u.mem = s.mem ∧ (now + n + 64, Event.itemArrival c q) ∈ u.timers ∧
         i.row = it.row ∧ i.chunk = it.chunk ∧ i.seq = it.seq ∧ i.rod = it.rod ∧ i.at_ = now + n + 64 ∧
         (i.parts.map fun p => p.1) = ((List.range 64).filter fun k => it.present.getLsbD k) ∧
         runAfter u c = some (some { r with rods := r.rods.set q rest, net := r.net ++ [i], busyTil := r.busyTil.set q (now + n) })) ∧
     (∀ (q : Fin 64) (it : FrameItem) (col : Nat) (p : Int), r.net = [it] → it.at_ ≤ now → it.row < 64 → it.parts = [(col, p)] →
       Nest.ordered t = false → Unfinished s c r none →
       let key := 4096 * Nest.ctile t (it.chunk / Nest.chunks t) + 64 * it.row + col
       let e := entryOf (s.core c).deck key
       ∃ u, exec (.itemArrival c q) s = .next u ∧ u.mem = s.mem ∧
         (∀ k, k ≠ key → entryOf (u.core c).deck k = entryOf (s.core c).deck k) ∧
         entryOf (u.core c).deck key = match j.acc with
           | .fp => { e with t := BitVec.ofNat 32 (fAdd FFmt.fp32 e.t.toNat p.toNat).1 }
           | .fps => { e with p := BitVec.ofInt 32 p, i := 1 }
           | .int => { e with i := BitVec.ofInt 64 (e.i.toInt + p) }) ∧
     (∀ (q : Fin 64) (it : FrameItem), r.net = [it] → it.at_ ≤ now → it.row < 64 → Nest.ordered t = true →
       it.seq ≠ r.added[it.row]! → r.buffer.length < 16 →
       ∃ u, exec (.itemArrival c q) s = .next u ∧ (u.core c).deck = (s.core c).deck ∧
         runAfter u c = some (some { r with net := [], buffer := r.buffer ++ [it] }))) ∧
  ((∀ (s : State) (c : CoreId) (j : FrameJob), (s.core c).frame.job = some j →
     j.ending = some { status := .ok, cause := 0, addr := 0, detail := 0, flags := 0, drop := 0 } →
     let t := (s.core c).frame.active
     ∃ u, exec (.frameJobComplete c) s = .next u ∧ (u.core c).frame.job = none ∧ (u.core c).frame.lid = j.id ∧ (u.core c).frame.lst = 1 ∧
       (u.core c).frame.cause = 0 ∧ u.mem = s.mem ∧ (u.core c).deck = (s.core c).deck ∧
       u.strand ⟨c, .m⟩ = (s.strand ⟨c, .m⟩).flags j.flags ∧ (∀ w : Who, w ≠ ⟨c, .m⟩ → u.strand w = s.strand w) ∧
       (u.core c).signals = (s.core c).signals ++
         if Nest.sen t = true then [{ set := false, k := Nest.ssem t, n := Nest.samt t, src := .frame }] else []) ∧
   (∀ (s : State) (c : CoreId) (j : FrameJob) (k : Nat), (s.core c).frame.job = some j → j.ending = none →
     (s.core c).inst = some k → (s.getInst k).status = .terminated → (j.run ≠ none ∨ j.step ≠ 0) →
     exec (.frameJobPause c) s = .next (s.due (.stepBegin c))) ∧
   (∀ (s : State) (c : CoreId) (j : FrameJob) (k : Nat), (s.core c).frame.job = some j → j.ending = none → j.run = none →
     (s.core c).inst = some k →
     ((s.getInst k).status = .terminated → j.step = 0 →
       ∃ u, exec (.frameJobPause c) s = .next u ∧ (u.core c).frame.job = none ∧ (u.core c).frame.lid = j.id ∧ (u.core c).frame.lst = 4 ∧
         (u.core c).deck = (s.core c).deck ∧ u.mem = s.mem) ∧
     ((s.getInst k).status = .suspended →
       ∃ u, exec (.frameJobPause c) s = .next u ∧ u.mem = s.mem ∧
         (u.core c).frame.job = some { j with state := if j.state = .awaitSem then .queued else j.state, units := 0 } ∧
         (u.core c).semWait = (s.core c).semWait.filter fun w => w.party != .frame)))

/-! ### Neighbours, content names and the fabric, as strands use them (14, 20, 22, 24) -/

namespace Sys2Proof.Claims

/-- The core that bits [33:32] of a word name in the strand's cluster (R246). -/
def target (s : State) (w : Dword) : CoreId := coreOf (clusterOf s.turn.core) (fld w 33 32)

/-- The access's word names a core of the instance (R246). -/
abbrev Names (s : State) (w : Dword) : Prop := fld w 63 34 = 0 ∧ target s w ∈ s.myInst.cores

/-- A result is on its way to a register (R25). -/
abbrev Arriving (t : State) (w : Who) (d : GReg) (x : Dword) : Prop := ∃ n, (n, Event.gregFill w d x) ∈ t.timers

/-- The handle holds a live lease of a region of content names (R360, R368). -/
abbrev RegionServes (s : State) (hr : HReg) : Prop := HandleServes s hr 0 1 false ∧ (s.me.rh hr).kind = 2

/-- An operation on its way to the content-named engine (R369). -/
def named (s : State) (hr : HReg) (k : CnKind) (minor : Nat) (d : GReg) (name off : Nat) (line : List Byte) : Event :=
  let h := s.me.rh hr
  .contentNamedOperation { who := s.turn, kind := k, h := hr, space := s.me.spr.space, frame := h.frame.toNat, expiry := h.expiry,
                           page := h.base, d := d, name := name, off := off, line := line, minor := minor,
                           at_ := s.time.toNat }

/-- A handle's lease still runs by the clock of the home that its access reaches (R289). -/
abbrev InTime (s : State) (h : Handle) (frame : Nat) : Prop := (s.dieTime (homeDie (s.homeOf frame))).toNat < h.expiry.toNat

/-- The name of a register pair (R362). -/
def pairOf (s : State) (d : GReg) : Nat := (s.me.rg d).toNat + (s.me.rg (d + 1)).toNat * 2 ^ 64

/-- No line of a scratchpad load, or store, of `n` bytes at `x` stands behind a claimed range; the access fits (R368). -/
abbrev LineFits (s : State) (store : Bool) (x n al : Nat) : Prop :=
  x % al = 0 ∧ x + n ≤ 0x180000 ∧ Unclaimed s.here store x n

/-- The strand at CNST code `n`. -/
def cnst (z : Strand) (n : BitVec 8) : Strand := { z with spr := { z.spr with cnst := n } }

/-- The strand `z` with four registers from `d` on empty. -/
def emptied (z : Strand) (d : GReg) : Strand := (((z.empty d).empty (d + 1)).empty (d + 2)).empty (d + 3)

end Sys2Proof.Claims

/-- R221, R245 to R247 and R264: an access of a core of the cluster is sent, a store once the strand's flushes have completed,
is served at its target once no range holds it, and writes its bytes there and no others; it waits behind an access of its
strand there, and behind one of another strand of its core to the same bytes; the traps of its checks; the count of a port's
failures. -/
def Obligations.ClusterAccesses : Prop :=
  (∀ (s : State) (d a : GReg) (sz : Size) (ta : Bool), Ready s everyStrand [a, d] →
    let n := width sz
    let x := s.me.rg a
    let off := fld x 31 0
    let go (v : Option Dword) (z : Strand) : Out := .next ((s.setMe (gone z 2)).due (.clusterAccess s.turn (target s x) off n v d))
    let both (o : Out) : Prop := exec (.rst d a sz ta) s = o ∧ exec (.rld d a sz ta) s = o
    (¬Names s x → both (traps s 0x0002)) ∧
    (Names s x → ¬SpadFits off n → both (traps s 0x0006)) ∧
    (Names s x → SpadFits off n → s.clusterOut s.turn < 16 →
      (s.me.flushes = [] → exec (.rst d a sz ta) s = go (some (s.me.rg d)) s.me) ∧
      (s.me.flushes ≠ [] → Waits s (.rst d a sz ta) .interlock) ∧
      exec (.rld d a sz ta) s = go none (s.me.empty d)) ∧
    (Names s x → SpadFits off n → 16 ≤ s.clusterOut s.turn →
      Waits s (.rst d a sz ta) .interlock ∧ Waits s (.rld d a sz ta) .interlock)) ∧
  (∀ (s : State) (w : Who) (tgt : CoreId) (off n : Nat) (x : Dword) (d : GReg), s.timers = [] → (s.core tgt).spad.wf = true →
    (Unclaimed (s.core tgt) true off n →
      ∃ t m, exec (.clusterAccess w tgt off n (some x) d) s = .next t ∧ t.mem = s.mem ∧ (t.core w.core).netFails = 0 ∧
        (t.core tgt).spad = m ∧ (n ≤ 8 → Stored (s.core tgt).spad m off n x) ∧ (∀ y, t.strand y = s.strand y) ∧
        ∀ c, c ≠ tgt → (t.core c).spad = (s.core c).spad) ∧
    (Unclaimed (s.core tgt) false off n →
      ∃ t, exec (.clusterAccess w tgt off n none d) s = .next t ∧ t.mem = s.mem ∧ (∀ c, (t.core c).spad = (s.core c).spad) ∧
        (∀ y, t.strand y = s.strand y) ∧ Arriving t w d (BitVec.ofNat 64 ((s.core tgt).spad.nat off n)))) ∧
  (∀ (s : State) (w y : Who) (tgt : CoreId) (off n o k u : Nat) (x v : Option Dword) (d f : GReg),
    (u, Event.clusterAccess y tgt o k v f) ∈ s.timers →
    y = w ∨ (y.core = w.core ∧ (v.isSome = true ∨ x.isSome = true) ∧ 0 < n ∧ 0 < k ∧ o < off + n ∧ off < o + k) →
    exec (.clusterAccess w tgt off n x d) s = .next (s.timer (s.time.toNat + 1) (.clusterAccess w tgt off n x d))) ∧
  (∀ (s : State) (w : Who), (∀ i < 4, (s.core (coreOf (clusterOf w.core) i)).inst = none) →
    let n := (s.core w.core).netFails + 1
    ∃ t, exec (.clusterNetworkFlitFailure w) s = .next t ∧ t.mem = s.mem ∧ (t.core w.core).netFails = n ∧
      (t.strand w).spr.corr.toNat = min 0xFFFFFFFF ((s.strand w).spr.corr.toNat + 1) ∧
      ((t.cluster (clusterOf w.core)).removed = true ↔ (s.cluster (clusterOf w.core)).removed = true ∨ 16 ≤ n))

/-- R362 and R367 to R372: the content-named instructions send their operation with the line or the name they read, and leave
the registers of a name they ask for empty; a name must stand in an even pair. R364, R374 and R375: RGET reads a cell and holds
its root in one step; RSWAP stores the new image where the cell holds the expected one, and changes nothing where it does not. -/
def Obligations.NameInstructionsAndRoots : Prop :=
  (∀ (s : State) (d a : GReg) (hr : HReg) (ta : Bool), RegionServes s hr →
     let x := fld (s.me.rg a) 31 0
     let y := fld (s.me.rg d) 31 0
     let line := s.here.spad.bytes x 128
     let pairs : Prop := d.toNat % 2 = 0 ∧ Ready s everyStrand [a, d, d + 1]
     (d.toNat % 2 = 1 → ∀ i ∈ [Instr.cnlaL d a hr ta, .cnlaI d a hr ta, .cnld d a hr ta, .cnhold d hr, .cndrop d hr],
       exec i s = traps s 0x0001) ∧
     (pairs → d ≠ 0 → LineFits s false x 128 128 →
       let z := (s.me.empty d).empty (d + 1)
       exec (.cnlaL d a hr ta) s = .next ((s.setMe (gone z 2)).due (named s hr (.alloc false) 2 d 0 0 line)) ∧
       exec (.cnlaI d a hr ta) s = .next ((s.setMe (gone z 2)).due (named s hr (.alloc true) 2 d 0 0 line))) ∧
     (pairs → LineFits s true x 128 128 →
       exec (.cnld d a hr ta) s = .next ((s.setMe (gone s.me 2)).due (named s hr .load 3 0 (pairOf s d) x []))) ∧
     (pairs → d ≠ 0 → (x % 128 ≠ 0 ∨ 0x180000 < x + 128) →
       exec (.cnlaL d a hr ta) s = traps s 0x0006 ∧ exec (.cnlaI d a hr ta) s = traps s 0x0006 ∧
       exec (.cnld d a hr ta) s = traps s 0x0006) ∧
     (pairs →
       exec (.cnhold d hr) s = .next ((s.setMe (gone s.me 2)).due (named s hr .hold 4 0 (pairOf s d) 0 [])) ∧
       exec (.cndrop d hr) s = .next ((s.setMe (gone s.me 2)).due (named s hr .drop 5 0 (pairOf s d) 0 []))) ∧
     (Ready s everyStrand [a, d] → LineFits s false x 128 128 → LineFits s true y 16 16 →
       exec (.cnhash d a hr ta) s = .next ((s.setMe (gone s.me 2)).due (named s hr .hash 8 0 0 y line)))) ∧
  (∀ (s : State) (d a : GReg) (hr hc : HReg) (ta : Bool),
     let four : Prop := d.toNat % 4 = 0 ∧ d ≠ 0 ∧ Ready s everyStrand [d, d + 1, d + 2, d + 3]
     let off := (s.me.rg d).toNat
     let blk := fld (s.me.rg a) 31 0
     let pa := (s.me.rh hc).frame.toNat + off
     let f (i : Nat) := s.mem.dword (pa + 8 * i)
     let w (i : Nat) := s.here.spad.dword (blk + 8 * i)
     let there : Prop := (∀ i < 4, s.homeOf (pa + 8 * i) = pa + 8 * i) ∧ s.cellWait pa = false ∧ s.flaws = [] ∧ InTime s (s.me.rh hc) pa
     (off % 32 ≠ 0 → four → exec (.rget d hr hc) s = traps s 0x0002) ∧
     ((d.toNat % 4 ≠ 0 ∨ d = 0) → exec (.rget d hr hc) s = traps s 0x0001) ∧
     (∀ r, four → RegionServes s hr → HandleServes s hc off 32 false → (s.me.rh hc).kind ≠ 2 →
       there → InTime s (s.me.rh hr) (s.me.rh hr).frame.toNat → s.nameRegion (s.me.rh hr).frame.toNat = some r →
       let name := (f 0).toNat + (f 1).toNat * 2 ^ 64
       let holds (code : BitVec 8) (m : Mem) : Prop := ∃ t, exec (.rget d hr hc) s = .next t ∧ t.mem = m ∧
         t.me = gone (cnst (emptied s.me d) code) 2 ∧ ∀ i : Fin 4, Arriving t s.turn (d + BitVec.ofFin (i.castLE (by decide))) (f i.val)
       (name = 0 → holds 4 s.mem) ∧
       (∀ e, name ≠ 0 → s.findName r name = some e → e.count < 0xFFFFFFFF →
         holds 5 (s.putEntry r { e with count := e.count + 1 }).mem)) ∧
     (Ready s everyStrand [a, d] → HandleServes s hc off 32 true → (s.me.rh hc).kind ≠ 2 → there → s.me.flushes = [] → s.mem.wf = true →
       pa + 32 ≤ 0xC100000000 →
       LineFits s false blk 64 32 → fld (w 6) 63 52 = 0 → fld (w 6) 51 48 ≤ 12 → fld (w 6) 47 0 ≤ 128 * 8 ^ fld (w 6) 51 48 →
       (f 0 = w 0 ∧ f 1 = w 1 ∧ f 3 = w 3 →
         ∃ t, exec (.rswap d a hc ta) s = .next t ∧ t.me = gone (cnst s.me 7) 2 ∧ (∀ i < 4, t.mem.dword (pa + 8 * i) = w (4 + i)) ∧
           ∀ x, (x < pa ∨ pa + 32 ≤ x) → t.mem.get x = s.mem.get x) ∧
       (¬(f 0 = w 0 ∧ f 1 = w 1 ∧ f 3 = w 3) →
         ∃ t, exec (.rswap d a hc ta) s = .next t ∧ t.me = gone (cnst s.me 8) 2 ∧ t.mem = s.mem)) ∧
     (Ready s everyStrand [a, d] → (blk % 32 ≠ 0 ∨ 0x180000 < blk + 64) → exec (.rswap d a hc ta) s = traps s 0x0006))

/-- R365, R366 and R369 to R373: what one operation of the content-named engine does to the counts of names, to the scratchpad
and to CNST, and how a freed interior line without children comes back; an operation whose translation has ended as it reaches
its region takes a new one (R289). -/
def Obligations.NameOperations : Prop :=
  (∀ (s : State) (x : CnReq) (r : NameRegion), s.namesWait x.who x.at_ = false → s.lateAt x.frame x.expiry = false → s.flaws = [] →
    s.nameRegion x.frame = some r →
    let answers (code : BitVec 8) (m : Mem) : Prop := ∃ t, exec (.contentNamedOperation x) s = .next t ∧ t.mem = m ∧
      t.strand x.who = cnst (s.strand x.who) code ∧ (∀ c, (t.core c).spad = (s.core c).spad)
    ((x.kind = .hold ∨ x.kind = .drop) → x.name = 0 → answers 4 s.mem) ∧
    (∀ e, x.kind = .hold → x.name ≠ 0 → s.findName r x.name = some e → e.count < 0xFFFFFFFF →
      answers 5 (s.putEntry r { e with count := e.count + 1 }).mem) ∧
    (∀ e, x.kind = .drop → x.name ≠ 0 → s.findName r x.name = some e → 1 < e.count → e.count < 0xFFFFFFFF →
      answers 5 (s.putEntry r { e with count := e.count - 1 }).mem) ∧
    (∀ e, x.kind = .load → x.name ≠ 0 → s.findName r x.name = some e → (s.core x.who.core).spad.wf = true →
      ∃ t, exec (.contentNamedOperation x) s = .next t ∧ t.mem = s.mem ∧ (t.strand x.who).spr.cnst = 5 ∧
        (∀ i < 128, (t.core x.who.core).spad.get (x.off + i) = BitVec.ofNat 8 (s.physNat (r.store + 128 * e.line) 128 / 256 ^ i)) ∧
        ∀ a, (a < x.off ∨ x.off + 128 ≤ a) → (t.core x.who.core).spad.get a = (s.core x.who.core).spad.get a) ∧
    (∀ i, x.kind = .alloc i → (∀ b ∈ x.line, b = 0) →
      ∃ t, exec (.contentNamedOperation x) s = .next t ∧ t.mem = s.mem ∧ (t.strand x.who).spr.cnst = 4 ∧
        Arriving t x.who x.d 0 ∧ Arriving t x.who (x.d + 1) 0)) ∧
  (∀ (s : State) (x : CnReq), s.namesWait x.who x.at_ = false → s.lateAt x.frame x.expiry = true →
    s.walkStalls (dieOf x.who.core) x.space x.page.toNat = false →
    let y := s.walk (dieOf x.who.core) x.space x.page.toNat
    (y.2.found = none → exec (.contentNamedOperation x) s = .next (y.1.fatal x.who 0x0022 x.page 0)) ∧
    (∀ l c, y.2.found = some (l, c) → l.kind = 2 → ∃ t, exec (.contentNamedOperation x) s = .next t ∧ t.mem = s.mem ∧
      (s.time.toNat + 1, Event.contentNamedOperation { x with frame := l.at x.page.toNat, expiry := l.expiry }) ∈ t.timers)) ∧
  (∀ (s : State) (x : Reclaim) (rest : List Reclaim) (r : NameRegion), s.reclaim = x :: rest → s.nameRegion x.frame = some r →
    s.physNat (r.store + 128 * x.line) 128 = 0 → s.flaws = [] →
    ∃ t, exec .reclaimLine s = .next t ∧ t.reclaim = rest ∧ (∀ w, t.strand w = s.strand w) ∧
      t.mem = ((s.mem.putNat (s.homeOf (r.store + 128 * x.line)) 4 (s.physNat (r.frame + 0x28) 4)).putNat
        (s.homeOf (r.frame + 0x28)) 4 (x.line + 1)))

namespace Sys2Proof.Claims

/-- Bytes of a remote access (R390). -/
def remoteWidth (pw : Dword) : Nat := 2 ^ fld pw 13 12

/-- The address and peer word of a remote access pass the checks all three make (R391). -/
abbrev RemoteFits (va pw : Dword) : Prop := va.toNat < 2 ^ 45 ∧ va.toNat % remoteWidth pw = 0 ∧ fld pw 31 19 = 0

/-- Those of a load or a store of the fabric as well. -/
abbrev PlainRemote (va pw : Dword) : Prop := RemoteFits va pw ∧ fld pw 18 14 = 0 ∧ fld pw 63 32 = 0

/-- The packet of a strand's access (R391, R399). -/
def packetOf (s : State) (k : PKind) (va pw : Dword) (tag : Word) : Packet :=
  { kind := k, status := 0, src := s.peer, dst := pw.extractLsb' 0 12, space := s.me.spr.space, va := va.toNat, len := remoteWidth pw,
    size := pw.extractLsb' 12 2, op := 0, tag := tag, aux := 0, data := [] }

/-- A remote operation is outstanding, with its tag and the 3 ms it has, and a packet to this package itself is on its way
to the die that its address names (R385, R386, R389). -/
def Outstanding (s t : State) (u : RemoteFor) (p : Packet) : Prop :=
  t.fab.remotes = s.fab.remotes ++ [{ tag := s.fab.nextTag, who := s.turn, use := u }] ∧ t.fab.nextTag = s.fab.nextTag + 1 ∧
    (s.time.toNat + 3000000, Event.remoteTimeout s.fab.nextTag) ∈ t.timers ∧ t.mem = s.mem ∧
    (s.fabricOn = true → s.peerExists p.dst = true → p.dst = s.peer →
      (∀ e ∈ arrivalOf p ⟨p.va / 2048 % 4, Nat.mod_lt _ (by decide)⟩, e ∈ t.agenda)) ∧
    (s.fabricOn = false → ∃ e ∈ t.agenda, e ∈ [Event.ack { p with kind := .ack, status := 3, dst := s.peer, src := p.dst, len := 0, data := [], aux := 0 },
      .readresp { p with kind := .readresp, status := 3, dst := s.peer, src := p.dst, len := 0, data := [], aux := 0 },
      .atomresp { p with kind := .atomresp, status := 3, dst := s.peer, src := p.dst, len := 0, data := [], aux := 0 }])

/-- Every access of the strand has been performed, and no remote operation of it is outstanding (R392). -/
abbrev Fenced (s : State) : Prop := s.remoteOut s.turn = 0 ∧ s.fenced s.turn .package = true

end Sys2Proof.Claims

/-- R24, R221, R385, R386, R389 to R392 and R338: the remote instructions and their checks, what FFENCE and FWAIT wait for and
what FWAIT reports and clears, and the entry that GLAUNCH sends to a device queue. -/
def Obligations.FabricInstructions : Prop :=
  ∀ (s : State) (d a b : GReg) (ta tb : Bool), Ready s everyStrand [a, b, d] →
    let va := s.me.rg a
    let pw := s.me.rg b
    let n := remoteWidth pw
    let tag := s.fab.nextTag
    let op := fld pw 17 14
    let ret := pw.getLsbD 18
    let roff := fld pw 63 32
    let famoFits : Prop := RemoteFits va pw ∧ 4 ≤ n ∧ op ≤ 12 ∧ (10 ≤ op → n ≠ 8) ∧ (op = 9 → d ≠ 63) ∧ (ret = false → roff = 0)
    (PlainRemote va pw → s.remoteOut s.turn < 64 →
      (s.me.flushes = [] → ∃ t, exec (.fst d a b ta tb) s = .next t ∧ t.me = gone s.me 2 ∧
        Outstanding s t .store { packetOf s .write va pw tag with data := leBytes n (s.me.rg d).toNat }) ∧
      (∃ t, exec (.fld d a b ta tb) s = .next t ∧ t.me = gone (s.me.empty d) 2 ∧
        Outstanding s t (.load d) (packetOf s .read va pw tag))) ∧
    (¬PlainRemote va pw → exec (.fst d a b ta tb) s = traps s 0x0002 ∧ exec (.fld d a b ta tb) s = traps s 0x0002) ∧
    (PlainRemote va pw → 64 ≤ s.remoteOut s.turn → Waits s (.fst d a b ta tb) .interlock ∧ Waits s (.fld d a b ta tb) .interlock) ∧
    (PlainRemote va pw → s.me.flushes ≠ [] → Waits s (.fst d a b ta tb) .interlock) ∧
    (famoFits → (ret = true → SpadFits roff n) → (op = 9 → s.me.isFull (d + 1) = true) → s.remoteOut s.turn < 64 → s.me.flushes = [] →
      ∃ t, exec (.famo d a b ta tb) s = .next t ∧ t.me = gone s.me 2 ∧
        Outstanding s t (.atomic (if ret then some (roff, n) else none) (op == 10))
          { packetOf s .atomic va pw tag with
            op := pw.extractLsb' 14 4, aux := BitVec.ofNat 64 ((s.me.rg d).toNat % 256 ^ n), len := if op = 9 then 8 else 0,
            data := if op = 9 then leBytes 8 ((s.me.rg (d + 1)).toNat % 256 ^ n) else [] }) ∧
    (¬famoFits → exec (.famo d a b ta tb) s = traps s 0x0002) ∧
    (famoFits → ret = true → ¬SpadFits roff n → exec (.famo d a b ta tb) s = traps s 0x0006) ∧
    (Fenced s → exec .ffence s = leaves s 2 s.me ∧
      exec (.fwait d) s = leaves s 2 ({ s.me with spr := { s.me.spr with fwst := s.me.spr.rcode, rcode := 0, rtag := 0, rfail := 0 } }.wg d
        (BitVec.ofNat 64 (s.me.spr.rcode.toNat + s.me.spr.rfail.toNat * 2 ^ 16)))) ∧
    (¬Fenced s → Waits s .ffence .fabricWait ∧ Waits s (.fwait d) .fabricWait) ∧
    (va.toNat % 64 = 0 → va.toNat < 2 ^ 45 → pw.toNat < 65536 →
      let e : DevEntry := { va := va, space := s.me.spr.space, inst := s.here.inst, who := s.turn, placed := false }
      exec (.glaunch a b ta tb) s = .next ((({ s with dist := { s.dist with
        devq := Table.put s.dist.devq pw.toNat (Table.get [] s.dist.devq pw.toNat ++ [e]) } } : State).setMe (gone s.me 2)).due
          (.devqConsume pw.toNat))) ∧
    ((va.toNat % 64 ≠ 0 ∨ 2 ^ 45 ≤ va.toNat ∨ 65536 ≤ pw.toNat) → exec (.glaunch a b ta tb) s = traps s 0x0002)

/-! ### Command queues and the engines (11, 14, 20, 22, 24) -/

namespace Sys2Proof.Claims

/-- A queue works on job `j`, which has packets neither out nor failed, its engine may begin, no home has taken an access in this cycle,
and no word of memory has an error (R135, R222, R267, R274, R280). -/
abbrev Works (s : State) (c : CoreId) (q : QueueId) (j : Job) : Prop :=
  ((s.core c).queue q).work = some j ∧ j.ending = none ∧ s.fab.remotes = [] ∧ s.engineReady c = true ∧ s.cycle.served = [] ∧ s.flaws = []

/-- A job's end without anything to report. -/
def clean : JobEnd := { status := .ok, cause := 0, addr := 0, detail := 0, flags := 0, drop := 0 }

/-- What a `QFENCE` recorded has retired: a job of a queue, or the frame job, which stands beside the queues under 8 (R138, R234). -/
def Gone (x : Core) : Nat × Word → Prop
  | (n, id) => (∀ q : QueueId, q.val = n → 1 ≤ ((x.queue q).watermark - id).toNat ∧ ((x.queue q).watermark - id).toNat ≤ 2 ^ 31) ∧
      (8 ≤ n → ∀ f, x.frame.job = some f → f.id ≠ id)

/-- The job has ended with `e` and completes next (R136). -/
abbrev Ended (t : State) (c : CoreId) (q : QueueId) (j : Job) (e : JobEnd) : Prop :=
  (∀ x ∈ ((t.core c).queue q).jobs, x.id = j.id → x.ending = some e) ∧ Event.jobComplete c q ∈ t.agenda

/-- Every job of that id stands in state `st`. -/
abbrev Stands (t : State) (c : CoreId) (q : QueueId) (j : Job) (st : JobState) : Prop :=
  ∀ x ∈ ((t.core c).queue q).jobs, x.id = j.id → x.state = st

/-- A lease leads `n` bytes of virtual addresses from `va` on to physical ones from `pa` on, none of them migrated or among
the management registers (R294). -/
abbrev Leads (s : State) (c : CoreId) (l : Lease) (va n pa : Nat) : Prop :=
  let now := (s.dieTime (dieOf c)).toNat
  l.base.toNat ≤ va ∧ va + n ≤ l.base.toNat + pageBytes l.psz ∧ va < l.base.toNat + pageBytes l.psz ∧
    now + l.span / 8 ≤ l.expiry.toNat ∧ now < l.expiry.toNat ∧ pa = l.frame.toNat + (va - l.base.toNat) ∧
    ∀ i < max 1 n, s.homeOf (pa + i) = pa + i ∧ s.assigned (pa + i) = true ∧ pa + i < 0xC100100000

/-- The job's one translation leads there, to ordinary memory, with write permission where `wr` asks for it. -/
abbrev Reaches (s : State) (c : CoreId) (j : Job) (va n pa : Nat) (wr : Bool) : Prop :=
  ∃ l, j.leases = [l] ∧ l.kind = 0 ∧ (wr = true → l.wr = true) ∧ Leads s c l va n pa

/-- The local memory of a copy: the scratchpad, or a tile. -/
def localMem (x : Core) : Option TReg → Mem
  | none => x.spad
  | some _ => x.tiles

/-- Where local offset 0 lies in it. -/
def localBase : Option TReg → Nat
  | none => 0
  | some t => 16384 * t.toNat

/-- `m'` is `m` with `n` bytes `f` at `x`, and every other byte as it was. -/
abbrev Put (m m' : Mem) (x n : Nat) (f : Nat → Byte) : Prop :=
  ∀ a, m'.get a = if x ≤ a ∧ a < x + n then f (a - x) else m.get a

/-- Neither memory nor any scratchpad or tile has changed. -/
abbrev Untouched (s t : State) : Prop := t.mem = s.mem ∧ ∀ c, (t.core c).spad = (s.core c).spad ∧ (t.core c).tiles = (s.core c).tiles

end Sys2Proof.Claims

/-- R57, R135, R141, R221, R222 and R234: PUSH, once the strand's flushes have completed, numbers its job, claims its ranges and
lets the queue look at it; a `QFENCE` records the newest job of each other queue that it names, and the frame job held; a
command that R57 forbids traps, and a full queue or scoreboard makes it wait. R121, R135 to R138, R143, R228, R234, R257, R294,
R376 and R378: how a job goes from QUEUED to RUNNING, a `QFENCE` only once what it recorded has retired; when it ends at its
pop, where it also reads its parameters, what its end leaves of it, how one that has not started goes back to QUEUED once its
instance has stopped, and gives back what it took from its semaphore (the model's reading, log entry 21), which jobs an ended
instance drops, a grant of leave, and the renewal of a job's translation. -/
def Obligations.QueueJobs : Prop :=
  (∀ (s : State) (a : GReg) (q : BitVec 3) (ta : Bool), Ready s everyStrand [a, a + 1, a + 2, a + 3] →
     let qu := s.here.queue q.toFin
     let fits : Prop := pushOk (s.me.rg a) q.toNat s.myInst.priv = true
     (60 < a.toNat → exec (.push a q ta) s = traps s 0x0001) ∧
     (a.toNat ≤ 60 → ¬fits → exec (.push a q ta) s = traps s 0x0002) ∧
     (a.toNat ≤ 60 → fits → ∃ j : Job, j.id = qu.next ∧ j.sid = s.turn.strand ∧ j.space = s.me.spr.space ∧ j.d0 = s.me.rg a ∧ j.d1 = s.me.rg (a + 1) ∧
       j.d2 = s.me.rg (a + 2) ∧ j.d3 = s.me.rg (a + 3) ∧ j.state = .queued ∧ j.ending = none ∧ j.units = 0 ∧ j.leases = [] ∧
       (j.kind ≠ 7 → j.fence = []) ∧
       (j.kind = 7 → ∀ n id, (n, id) ∈ j.fence ↔
         (∃ p : QueueId, p ≠ q.toFin ∧ j.d1.getLsbD p.val = true ∧ n = p.val ∧ id = (s.here.queue p).next - 1) ∨
         (j.d1.getLsbD 8 = true ∧ n = 8 ∧ ∃ f, s.here.frame.job = some f ∧ id = f.id)) ∧
       let claims : List Range := (commandRanges j).map fun r => { base := r.1, len := r.2.1, write := r.2.2, queue := q.toFin, job := j.id }
       (qu.jobs.length < 32 → s.here.board.length + claims.length ≤ 16 → s.me.flushes ≠ [] → Waits s (.push a q ta) .interlock) ∧
       (qu.jobs.length < 32 → s.here.board.length + claims.length ≤ 16 → s.me.flushes = [] →
         exec (.push a q ta) s = .next (((s.setHere { s.here.setQueue q.toFin { next := qu.next + 1, jobs := qu.jobs ++ [j] } with
           board := s.here.board ++ claims }).setMe (gone s.me 2)).due (.jobPop s.turn.core q.toFin))) ∧
       ((32 ≤ qu.jobs.length ∨ 16 < s.here.board.length + claims.length) → s.myInst.preq = false → s.myInst.stop = false →
         Waits s (.push a q ta) .queueFull))) ∧
  ((∀ (s : State) (c : CoreId) (q : QueueId) (j : Job), Goes s c → ((s.core c).queue q).head = some j →
     let pops (st : JobState) : Prop := ∃ t, exec (.jobPop c q) s = .next t ∧ Stands t c q j st ∧ Event.jobPop c q ∈ t.agenda ∧ Untouched s t
     let plain : Job := { j with layout := none }
     let fresh : Job := if j.params.isEmpty then plain.readParams (s.core c) else plain
     let checks := (popCheck (s.core c) q fresh).or (paramCheck fresh)
     let roff := fld j.d3 31 0
     (j.state = .queued → j.layoutNo = 0 →
       (∀ cause detail, checks = some (cause, detail) → ∃ t, exec (.jobPop c q) s = .next t ∧ t.mem = s.mem ∧
         (j.kind ≠ 0x41 → Untouched s t) ∧
         (j.kind = 0x41 → roff % 32 = 0 → roff + 32 ≤ 0x180000 → (s.core c).spad.wf = true →
           Put (s.core c).spad (t.core c).spad roff 32 fun _ => 0) ∧
         Ended t c q j { status := .fault, cause := cause, addr := j.id.setWidth 64, detail := detail, flags := 0, drop := 1 }) ∧
       (checks = none → (j.wen = false ∨ j.wamt = 0) → pops .awaitTile) ∧
       (checks = none → j.wen = true → j.wamt ≠ 0 → j.wamt ≤ (s.core c).semCount j.wsem → (s.core c).semWait = [] →
         (s.core c).signals = [] → pops .awaitTile ∧
         ∀ t, exec (.jobPop c q) s = .next t → (t.core c).semCount j.wsem = (s.core c).semCount j.wsem - j.wamt) ∧
       (checks = none → j.wen = true → (s.core c).semCount j.wsem < j.wamt →
         ∃ t, exec (.jobPop c q) s = .next t ∧ Stands t c q j .awaitSem ∧ Untouched s t ∧
           (t.core c).semWait = (s.core c).semWait ++ [{ k := j.wsem, n := j.wamt, party := .job q }])) ∧
     (j.state = .awaitTile → (∀ t, j.tileNo = some t → ((s.core c).tfull t = true ↔ j.kind = 2 ∨ j.kind = 4)) → pops .awaitLeave) ∧
     (j.state = .awaitTile → (∃ t, j.tileNo = some t ∧ ¬((s.core c).tfull t = true ↔ j.kind = 2 ∨ j.kind = 4)) →
       exec (.jobPop c q) s = .next s) ∧
     (j.state = .awaitLeave → j.kind = 7 → (∀ r ∈ j.fence, Gone (s.core c) r) →
       ∃ t n, exec (.jobPop c q) s = .next t ∧ Stands t c q j .running ∧ (n, Event.qfence c q) ∈ t.timers ∧ Untouched s t) ∧
     (j.state = .awaitLeave → j.kind = 7 → (∃ r ∈ j.fence, ¬Gone (s.core c) r) → exec (.jobPop c q) s = .next s) ∧
     (j.state = .awaitLeave → j.kind = 1 → q.val < 4 → fld j.d2 63 32 ≤ 0x100000 →
       ∃ t n, exec (.jobPop c q) s = .next t ∧ Stands t c q j .running ∧ (n, Event.copyin c q) ∈ t.timers ∧ Untouched s t)) ∧
   (∀ (s : State) (c : CoreId) (q : QueueId) (j : Job) (k : Nat), (s.core c).inst = some k → (s.getInst k).status ≠ .running →
     ((s.core c).queue q).head = some j →
     (j.state = .queued → exec (.jobPop c q) s = .next s) ∧
     (j.state ≠ .queued → ∃ t, exec (.jobPop c q) s = .next t ∧ Untouched s t ∧
       (∀ x ∈ ((t.core c).queue q).jobs, x.id = j.id → x.state = .queued ∧ x.units = 0) ∧
       (t.core c).semWait = (s.core c).semWait.filter (fun w => w.party != .job q) ∧
       (t.core c).signals = (s.core c).signals ++
         if j.state = .awaitSem ∨ j.wen = false then [] else [{ set := false, k := j.wsem, n := j.wamt, src := .job q j.sid }])) ∧
   (∀ (s : State) (d : DieId) (r : LeaveReq) (rest : List LeaveReq) (q : QueueId) (j : Job), (s.die d).leave = r :: rest →
     r.queue = some q → ((s.core r.core).queue q).head = some j → s.leaveFits r.core r.units = true →
     ∃ t, exec (.leaveGrant d) s = .next t ∧ (t.die d).leave = rest ∧ (t.die d).granted = (s.die d).granted + r.units ∧
       (∀ x ∈ ((t.core r.core).queue q).jobs, x.id = j.id → x.units = r.units) ∧ Event.jobPop r.core q ∈ t.agenda ∧ Untouched s t) ∧
   (∀ (s : State) (c : CoreId) (q : QueueId) (j : Job) (rest : List Job) (f : Flags), ((s.core c).queue q).jobs = j :: rest →
     j.state = .running → j.ending = some { clean with flags := f } → j.units = 0 →
     ∃ t, exec (.jobComplete c q) s = .next t ∧ Untouched s t ∧ ((t.core c).queue q).jobs = rest.filter (fun x => x.id != j.id) ∧
       (t.core c).board = (s.core c).board.filter (fun r => !(r.queue == q && r.job == j.id)) ∧
       t.strand ⟨c, j.sid⟩ = (s.strand ⟨c, j.sid⟩).flags f ∧ (∀ w, w ≠ ⟨c, j.sid⟩ → t.strand w = s.strand w) ∧
       (t.core c).signals = (s.core c).signals ++
         if j.sen = true then [{ set := false, k := j.ssem, n := j.samt, src := .job q j.sid }] else []) ∧
   (∀ (s : State) (c : CoreId) (q : QueueId) (k : Nat), (s.core c).inst = some k → (s.getInst k).status = .terminated →
     (((s.core c).queue q).jobs.map Job.id).Nodup →
     ∃ t, exec (.jobsDropped c q) s = .next t ∧ Untouched s t ∧ ((t.core c).queue q).jobs = ((s.core c).queue q).jobs.filter fun x =>
       x.state == .running || (x.state == .halted && ((s.core c).queue q).running.isSome)) ∧
   (∀ (s : State) (c : CoreId) (q : QueueId) (j : Job) (l l' : Lease) (n b : Nat) (u : State), ((s.core c).queue q).work = some j →
     s.walkStalls (dieOf c) j.space l.base.toNat = false → j.leases = [l] → l.expiry.toNat < (s.dieTime (dieOf c)).toNat + l.span / 8 →
     s.walk (dieOf c) j.space l.base.toNat = (u, { found := some (l', n), base := b }) →
     ∃ t, exec (.engineLeaseRenew c q) s = .next t ∧ t.mem = s.mem ∧ ∀ x ∈ ((t.core c).queue q).jobs, x.id = j.id → x.leases = [l']))

/-- R230, R234 and R236: a fence job ends once it runs; LAYSET writes its record's 64 bytes into the table of its SPACE and
nothing else; LAYSYNC changes nothing; RESUME lets the halted job go on. -/
def Obligations.QueueCommands : Prop :=
  ∀ (s : State) (c : CoreId) (q : QueueId) (j : Job),
    (((s.core c).queue q).work = some j → j.ending = none →
      (∃ t, exec (.qfence c q) s = .next t ∧ Ended t c q j clean ∧ Untouched s t) ∧
      (j.kind = 1 → exec (.resume c q) s = .next (s.due (.copyin c q))) ∧
      (j.kind = 2 → exec (.resume c q) s = .next (s.due (.copyout c q))) ∧
      (j.kind = 3 → exec (.resume c q) s = .next (s.due (.decode c q))) ∧
      (j.kind = 4 → exec (.resume c q) s = .next (s.due (.encode c q))) ∧
      (j.kind = 5 → exec (.resume c q) s = .next (s.due (.fill c q))) ∧
      (j.kind = 6 → exec (.resume c q) s = .next (s.due (.compact c q)))) ∧
    (Works s c q j →
      (∃ t, exec (.laysync c q) s = .next t ∧ Ended t c q j clean ∧ Untouched s t) ∧
      (s.mem.wf = true →
        let table := fld (s.physDword (s.plat.ctxbase.toNat + 32 * fld j.d1 47 32 + 8)) 47 22 * 2 ^ 22
        let at_ := table + 64 * fld j.d1 15 0
        (∀ i < 64, s.homeOf (at_ + i) = at_ + i) →
        ∃ t, exec (.layset c q) s = .next t ∧ Ended t c q j clean ∧ (t.core c).spad = (s.core c).spad ∧
          Put s.mem t.mem at_ 64 fun i => (s.core c).spad.get (fld j.d2 31 0 + i)))

/-- R231 to R233: COPYIN and COPYOUT of a flat range move exactly its bytes between global memory and the scratchpad or a tile,
which COPYIN leaves full; FILL writes its pattern there. -/
def Obligations.CopyJobs : Prop :=
  ∀ (s : State) (c : CoreId) (q : QueueId) (j : Job) (pa : Nat), Works s c q j → j.layout = none → j.pchunk = 0 →
    s.mem.wf = true → (s.core c).spad.wf = true → (s.core c).tiles.wf = true →
    let bit (i : Nat) := j.d0.getLsbD i
    let tile : Option TReg := if bit 12 then some (j.d3.extractLsb' 16 4) else none
    let low := fld j.d2 31 0
    let len := fld j.d2 63 32
    let m := localMem (s.core c) tile
    let fillTile : Option TReg := if bit 12 then some (j.d2.extractLsb' 32 4) else none
    let pattern (i : Nat) : Byte := j.d3.extractLsb' (8 * (i % 8)) 8
    (j.kind = 1 → Reaches s c j (fld j.d1 44 0) len pa false →
      ∃ t, exec (.copyin c q) s = .next t ∧ Ended t c q j clean ∧ t.mem = s.mem ∧
        Put m (localMem (t.core c) tile) (localBase tile + low) len (fun i => s.mem.get (pa + i)) ∧
        ∀ n, tile = some n → (t.core c).tfull n = true) ∧
    (j.kind = 2 → Reaches s c j (fld j.d1 44 0) len pa true →
      ∃ t, exec (.copyout c q) s = .next t ∧ Ended t c q j clean ∧ (∀ x, (t.core x).spad = (s.core x).spad) ∧
        Put s.mem t.mem pa len fun i => m.get (localBase tile + low + i)) ∧
    (j.kind = 5 → bit 14 = false →
      ∃ t, exec (.fill c q) s = .next t ∧ Ended t c q j clean ∧ t.mem = s.mem ∧
        Put (localMem (s.core c) fillTile) (localMem (t.core c) fillTile) (localBase fillTile + fld j.d1 31 0) low pattern) ∧
    (j.kind = 5 → bit 14 = true → Reaches s c j (fld j.d1 44 0) low pa true →
      ∃ t, exec (.fill c q) s = .next t ∧ Ended t c q j clean ∧ (∀ x, (t.core x).spad = (s.core x).spad) ∧ Put s.mem t.mem pa low pattern)

/-- R237 to R241: COMPACT writes the elements of its slots one after another; ENCODE writes the stream of its bytes; DECODE of a
stream of one good chunk gives the bytes that its tokens spell; and expanding what an encoder packed gives it back. -/
def Obligations.PackJobs : Prop :=
  (∀ (s : State) (c : CoreId) (q : QueueId) (j : Job) (pa : Nat), Works s c q j → j.layout = none → j.pchunk = 0 →
    j.d0.getLsbD 12 = false → s.mem.wf = true → (s.core c).spad.wf = true →
    let spad := (s.core c).spad
    let src := fld j.d1 31 0
    let pitch := fld j.d1 63 32
    let esz := 2 ^ fld j.d3 17 16
    let count (i : Nat) := spad.nat (src + i * pitch) 4
    let packed := (List.range (fld j.d3 15 0)).flatMap fun i => spad.bytes (src + i * pitch + 8) (count i * esz)
    let len := fld j.d2 63 32
    let stream := packStream (len / 4096 + 1) (spad.bytes (fld j.d2 31 0) len)
    let hdr := s.mem.dword pa
    let chunk := judge len hdr (s.mem.bytes (pa + 8) (fld hdr 31 16))
    (j.kind = 6 → (∀ i < fld j.d3 15 0, 8 + count i * esz ≤ pitch) → fld j.d2 44 0 + packed.length ≤ 2 ^ 45 →
      Reaches s c j (fld j.d2 44 0) packed.length pa true →
      ∃ t, exec (.compact c q) s = .next t ∧ Ended t c q j clean ∧ (t.core c).spad = spad ∧
        Put s.mem t.mem pa packed.length fun i => packed.getD i 0) ∧
    (j.kind = 4 → fld j.d3 44 0 = 0 → fld j.d1 44 0 + stream.length ≤ 2 ^ 45 → Reaches s c j (fld j.d1 44 0) stream.length pa true →
      ∃ t, exec (.encode c q) s = .next t ∧ Ended t c q j clean ∧ (t.core c).spad = spad ∧
        Put s.mem t.mem pa stream.length fun i => stream.getD i 0) ∧
    (j.kind = 3 → j.resumeAt = 0 → j.made = 0 → j.short = none → fld j.d1 44 0 + 8 + fld hdr 31 16 ≤ 2 ^ 45 →
      Reaches s c j (fld j.d1 44 0) (8 + fld hdr 31 16) pa false →
      chunk.good = true → chunk.elen = len →
      ∃ t, exec (.decode c q) s = .next t ∧ Ended t c q j clean ∧ t.mem = s.mem ∧
        Put spad (t.core c).spad (fld j.d2 31 0) len fun i => chunk.out.getD i 0)) ∧
  (∀ bs : List Byte, bs.length ≤ 4096 →
    let body := (packChunk bs).drop 8
    expand (body.length + 1) body = (bs, false) ∧ leNat ((packChunk bs).take 2) = bs.length ∧
      leNat (((packChunk bs).drop 4).take 4) = (crc32c bs).toNat)

namespace Sys2Proof.Claims

/-- A merge job of one row whose operands have one entry each: their columns and values, apart from the output slots. -/
abbrev OneEntry (x : Core) (m : Merge) (ca va cb vb : Nat) : Prop :=
  let w (a : Nat) := x.spad.nat a 4
  let e := w m.rpa
  let f := w m.rpb
  let ins : List Nat := [m.rpa, m.rpa + 4, m.rpb, m.rpb + 4, m.ia + 4 * e, m.ib + 4 * f] ++
    if m.madd then [m.va + 4 * e, m.vb + 4 * f] else []
  let outs : List Nat := m.oidx :: if m.madd then [m.oval] else []
  m.nrows = 1 ∧ w (m.rpa + 4) = e + 1 ∧ w (m.rpb + 4) = f + 1 ∧ w (m.ia + 4 * e) = ca ∧ w (m.ib + 4 * f) = cb ∧
    (m.madd = true → w (m.va + 4 * e) = va ∧ w (m.vb + 4 * f) = vb) ∧ ca < m.ncols ∧ cb < m.ncols ∧ 16 ≤ m.ipitch ∧
    (m.madd = true → 16 ≤ m.vpitch ∧ Apart m.oidx 16 m.oval 16) ∧
    ∀ a ∈ ins, a + 4 ≤ 0x180000 ∧ ∀ o ∈ outs, Apart a 4 o 16

/-- A merged row: its entries as it holds them, the count and then one word each (R258, R259). -/
abbrev RowHolds (m : Mem) (at_ : Nat) (xs : List Nat) : Prop :=
  m.nat at_ 8 = xs.length ∧ ∀ i < xs.length, m.nat (at_ + 8 + 4 * i) 4 = xs.getD i 0

end Sys2Proof.Claims

/-- R316 to R320: GATHER brings the table rows that its indices name, SCATTER stores local rows where they name, the last of
equal indices, and SCATADD adds the sum of the local rows of an index to its row. R258 to R262: MADD of two one-entry rows of
integers adds the values of equal columns and keeps both entries of different ones, in rising columns; MUNION unites or
intersects the columns; MPFX writes the running sums. -/
def Obligations.GatherAndMergeJobs : Prop :=
  (∀ (s : State) (c : CoreId) (q : QueueId) (j : Job) (pa : Nat), Works s c q j → s.mem.wf = true → (s.core c).spad.wf = true →
     let spad := (s.core c).spad
     let row := 8 * fld j.d1 63 54
     let n := fld j.d2 47 32
     let loff := fld j.d3 31 0
     let idx (i : Nat) := spad.nat (fld j.d2 31 0 + 4 * i) 4
     let table (wr : Bool) : Prop :=
       fld j.d2 63 48 = 0 ∧ (∀ i < n, idx i < fld j.d3 63 32) ∧ Reaches s c j (fld j.d1 44 0) (row * fld j.d3 63 32) pa wr
     let others (t : State) : Prop := (∀ x, (t.core x).spad = (s.core x).spad) ∧
       ∀ a, (∀ i < n, a < pa + row * idx i ∨ pa + row * idx i + row ≤ a) → t.mem.get a = s.mem.get a
     (table false → ∃ t, exec (.gather c q) s = .next t ∧ Ended t c q j clean ∧ t.mem = s.mem ∧
       Put spad (t.core c).spad loff (row * n) fun k => s.mem.get (pa + row * idx (k / row) + k % row)) ∧
     (table true → ∃ t, exec (.scatter c q) s = .next t ∧ Ended t c q j clean ∧ others t ∧
       ∀ i < n, (∀ i' < n, i < i' → idx i' ≠ idx i) → ∀ k < row, t.mem.get (pa + row * idx i + k) = spad.get (loff + row * i + k)) ∧
     (table true → fld j.d0 13 12 = 1 → ∃ t, exec (.scatadd c q) s = .next t ∧ Ended t c q j clean ∧ others t ∧
       ∀ i < n, ∀ k < row / 4, t.mem.nat (pa + row * idx i + 4 * k) 4 = (s.mem.nat (pa + row * idx i + 4 * k) 4 +
         (((List.range n).filter fun x => idx x == idx i).map fun x => spad.nat (loff + row * x + 4 * k) 4).sum) % 2 ^ 32)) ∧
  (∀ (s : State) (c : CoreId) (q : QueueId) (j : Job), Works s c q j → (s.core c).spad.wf = true →
     let m := j.merge
     let spad := (s.core c).spad
     (∀ ca va cb vb, j.kind = 0x20 → m.int = true → m.keepz = true → m.negb = false → OneEntry (s.core c) m ca va cb vb →
       ∃ t, exec (.madd c q) s = .next t ∧ Ended t c q j clean ∧ t.mem = s.mem ∧
         RowHolds (t.core c).spad m.oidx (if ca = cb then [ca] else [min ca cb, max ca cb]) ∧
         RowHolds (t.core c).spad m.oval (if ca = cb then [(va + vb) % 2 ^ 32] else if ca < cb then [va, vb] else [vb, va])) ∧
     (∀ ca cb, j.kind = 0x22 → OneEntry (s.core c) m ca 0 cb 0 →
       ∃ t, exec (.munion c q) s = .next t ∧ Ended t c q j clean ∧ t.mem = s.mem ∧
         RowHolds (t.core c).spad m.oidx (if ca = cb then [ca] else if m.isect then [] else [min ca cb, max ca cb])) ∧
     (let src := fld j.d1 31 0
      let stride := fld j.d1 63 32
      let dst := fld j.d2 31 0
      let n := fld j.d2 47 32
      ∃ t, exec (.mpfx c q) s = .next t ∧ Ended t c q j clean ∧ t.mem = s.mem ∧
        (∀ k ≤ n, (t.core c).spad.nat (dst + 4 * k) 4 =
          (fld j.d3 31 0 + ((List.range k).map fun i => spad.nat (src + i * stride) 4).sum) % 2 ^ 32) ∧
        ∀ a, (a < dst ∨ dst + 4 * n + 4 ≤ a) → (t.core c).spad.get a = spad.get a))

/-- R363 and R376 to R379: CNOUT of a null tree writes zeros of its length; CNIN of bytes that are all zero gives the null name
with its length and the least depth that holds it; CNDIFF of one tree with itself counts no difference. R394 to R396: a move
within one stretch of 2 KiB sends one packet, and ends once its packets have come back; so does a signal. -/
def Obligations.NameAndFabricJobs : Prop :=
  (∀ (s : State) (c : CoreId) (q : QueueId) (j : Job) (lr l : Lease) (r : NameRegion) (pr pa : Nat), Works s c q j →
     j.leases = [lr, l] → lr.kind = 2 → Leads s c lr (fld j.d1 44 0) 1 pr → s.nameRegion lr.frame.toNat = some r →
     l.kind = 0 → l.wr = true → l.base ≠ lr.base → s.mem.wf = true → (s.core c).spad.wf = true →
     let va := fld j.d2 44 0
     let apart (n : Nat) : Prop := Leads s c l va n pa ∧ Apart va (max 1 n) lr.base.toNat (pageBytes lr.psz)
     let dl := bytesDword j.params 2
     let length := fld dl 47 0
     let roff := fld j.d3 31 0
     let n := fld j.d3 63 32
     (j.kind = 0x40 → (∀ b ∈ j.params.take 16, b = 0) → n = 0 → length ≤ 128 * 8 ^ fld dl 51 48 → va + length ≤ 2 ^ 45 → apart length →
       ∃ t, exec (.cnout c q) s = .next t ∧ Ended t c q j clean ∧ (t.core c).spad = (s.core c).spad ∧ Put s.mem t.mem pa length fun _ => 0) ∧
     (j.kind = 0x41 → va + n ≤ 2 ^ 45 → apart n → (∀ i < n, s.mem.get (pa + i) = 0) →
       ∃ t d, exec (.cnin c q) s = .next t ∧ Ended t c q j clean ∧ t.mem = s.mem ∧ n ≤ 128 * 8 ^ d ∧ (∀ e < d, 128 * 8 ^ e < n) ∧
         Put (s.core c).spad (t.core c).spad roff 32 fun i => if i < 16 then 0 else
           byteOf (BitVec.ofNat 64 (if i < 24 then n + d * 2 ^ 48 else 0)) (i % 8)) ∧
     (j.kind = 0x42 → j.params.take 16 = (j.params.drop 32).take 16 →
       ∃ t, exec (.cndiff c q) s = .next t ∧ Ended t c q j clean ∧ t.mem = s.mem ∧ Put (s.core c).spad (t.core c).spad (roff + 0x40) 8 fun _ => 0)) ∧
  (∀ (s : State) (c : CoreId) (q : QueueId) (j : Job), Works s c q j → j.fails = [] →
     let rva := fld j.d1 44 0
     let len := fld j.d2 63 32
     let loff := fld j.d2 31 0
     let sends (i : Instr) (u : RemoteFor) : Prop := ∃ t, exec i s = .next t ∧ Untouched s t ∧
       t.fab.remotes = [{ tag := s.fab.nextTag, who := ⟨c, j.sid⟩, use := u }] ∧ t.fab.nextTag = s.fab.nextTag + 1 ∧
       (s.time.toNat + 3000000, Event.remoteTimeout s.fab.nextTag) ∈ t.timers ∧
       ∀ x ∈ ((t.core c).queue q).jobs, x.id = j.id → x.pchunk = 1 ∧ x.ending = j.ending
     let ends (i : Instr) : Prop := ∃ t, exec i s = .next t ∧ Untouched s t ∧ Ended t c q j clean
     let one : Prop := 0 < len ∧ rva % 2048 + len ≤ 2048 ∧ fld j.d3 31 0 = 0 ∧ (((s.core c).queue q).jobs.map Job.id).Nodup
     (one → j.pchunk = 0 → sends (.rsend c q) (.job q j.id 0 loff len) ∧ sends (.rfetch c q) (.job q j.id 0 loff len)) ∧
     (one → j.pchunk = 1 → ends (.rsend c q) ∧ ends (.rfetch c q)) ∧
     (len = 0 → ends (.rsend c q) ∧ ends (.rfetch c q)) ∧
     ((((s.core c).queue q).jobs.map Job.id).Nodup → j.pchunk = 0 → sends (.rsignal c q) (.job q j.id 0 0 0)) ∧
     (j.pchunk ≠ 0 → ends (.rsignal c q)))

/-! ### Walks, homes and the lease clocks (16 to 18) -/

namespace Sys2Proof.Claims

/-- Memory stands, and so does every strand but `w`. -/
abbrev Others (s t : State) (w : Who) : Prop := t.mem = s.mem ∧ ∀ y, y ≠ w → t.strand y = s.strand y

/-- Dword `i` of the context table's entry of a SPACE (R284). -/
def contextDword (s : State) (space : BitVec 16) (i : Nat) : Dword := s.physDword (s.plat.ctxbase.toNat + 32 * space.toNat + 8 * i)

/-- The context is valid, with its root table and the cap of its lease classes (R284). -/
abbrev ContextAt (s : State) (space : BitVec 16) (root cap : Nat) : Prop :=
  let e := contextDword s space
  (e 0).getLsbD 0 = true ∧ fld (e 0) 17 1 = 0 ∧ fld (e 0) 63 48 = 0 ∧ fld (e 1) 21 0 = 0 ∧ fld (e 1) 63 48 = 0 ∧
    fld (e 2) 63 4 = 0 ∧ e 3 = 0 ∧ root = fld (e 0) 47 18 * 2 ^ 18 ∧ cap = if fld (e 2) 3 0 = 0 then 15 else fld (e 2) 3 0

/-- A handle whose page is not present: the 64 KiB page of an address (R215, R219). -/
def absentAt (va : Nat) : Handle :=
  { state := .absent, wr := false, kind := 0, psz := 0, lclass := 0, base := BitVec.ofNat 64 (va / 65536 * 65536), frame := 0, expiry := 0 }

/-- An address lies in a lease that need not be renewed yet (R35, R294). -/
abbrev Covers (l : Lease) (va now : Nat) : Prop :=
  l.base.toNat ≤ va ∧ va < l.base.toNat + pageBytes l.psz ∧ now + l.span / 8 ≤ l.expiry.toNat ∧ now < l.expiry.toNat

end Sys2Proof.Claims

/-- R22, R25, R105, R215, R217, R219, R221, R282 and R284 to R288: a result fills its register, or brings its flags and drops; a
walk in a SPACE finds no page where the context or its root entry is absent, and a 1 GiB page where the root entry is a leaf; a
walk that stalls goes on later, one that begins again takes a free time, and one whose strand has another SPACE by then fills no
handle; a flush is done once the writes before it are, and the host then sees those to its range. R35, R267, R268, R289, R292,
R294 and R296: a line of code comes into the loop buffer of eight through the strand's translation, least recently used out
first, and waits behind what is before it on its way, at a home that has taken an access of it in this cycle, and while the walk
that it takes anew at a home it reaches too late stalls; code on a page that is not present, or outside the code space, is a
fatal error. -/
def Obligations.ResultsAndFetches : Prop :=
  ((∀ (s : State) (w : Who) (d : GReg) (x : Dword),
     (d = 0 → exec (.gregFill w d x) s = .next (s.setStrand w (s.strand w))) ∧
     (d ≠ 0 → ∃ g f, let z : Strand := { s.strand w with g := g, full := f }
       exec (.gregFill w d x) s = .next (s.setStrand w z) ∧ z.rg d = x ∧ z.isFull d = true ∧
       ∀ r, r ≠ d → z.rg r = (s.strand w).rg r ∧ z.isFull r = (s.strand w).isFull r)) ∧
   (∀ (s : State) (w : Who) (g : Option GReg) (v : Option VReg) (f : Flags) (n : Nat),
     let z := s.strand w
     ∃ t, runEvent (.resultReady w g v f n) s = .next t ∧ Others s t w ∧
       t.strand w = { z with spr := { z.spr with fst := z.spr.fst ||| f, drop := BitVec.ofNat 32 (min 0xFFFFFFFF (z.spr.drop.toNat + n)) } }) ∧
   (∀ (s : State) (w : Who) (hr : HReg) (va : Dword) (space : BitVec 16),
     let z := s.strand w
     let d := dieOf w.core
     let gives (h : Handle) : Prop := ∃ t, exec (.walkComplete w hr ⟨va, space⟩) s = .next t ∧ Others s t w ∧ t.strand w = z.wh hr h
     let waits : Prop := (z.rh hr).state = .resolving ∧ (z.rh hr).base = BitVec.ofNat 64 (va.toNat / 65536 * 65536) ∧ z.spr.space = space
     (¬waits → exec (.walkRestart w hr ⟨va, space⟩) s = .next s) ∧
     (¬waits → s.walkStalls d space va.toNat = false → s.flaws = [] →
       ∃ t, exec (.walkComplete w hr ⟨va, space⟩) s = .next t ∧ t.mem = s.mem ∧ ∀ y, t.strand y = s.strand y) ∧
     (waits →
       let u : State := { s with fresh := s.fresh + 1 }
       let n := 1 + Config.delay s.fresh
       exec (.walkRestart w hr ⟨va, space⟩) s = .next (if n ≤ 1000 then u.timer (s.time.toNat + n) (.walkComplete w hr ⟨va, space⟩)
         else u.timer (s.time.toNat + 1000) (.walkRestart w hr ⟨va, space⟩))) ∧
     (s.walkStalls d space va.toNat = true →
       exec (.walkComplete w hr ⟨va, space⟩) s = .next (s.timer (s.time.toNat + 1) (.walkComplete w hr ⟨va, space⟩))) ∧
     (waits → s.walkStalls d space va.toNat = false → s.flaws = [] →
       ((contextDword s space 0).getLsbD 0 = false → gives (absentAt va.toNat)) ∧
       (∀ root cap, ContextAt s space root cap → (s.die d).entries = [] →
         let e := s.physDword (root + 8 * (va.toNat / 2 ^ 30 % 2 ^ 15))
         let frame := fld e 56 16 * 2 ^ 16
         let c := min (fld e 9 6) cap
         (e.getLsbD 0 = false → gives (absentAt va.toNat)) ∧
         (e.getLsbD 0 = true → e.getLsbD 2 = true → fld e 5 3 < 2 → fld e 15 10 = 0 → fld e 63 57 = 0 → fld e 9 6 ≠ 0 → frame % 2 ^ 30 = 0 →
           s.assigned frame = true → s.assigned (frame + 2 ^ 30 - 1) = true →
           gives { state := .valid, wr := e.getLsbD 1, kind := BitVec.ofNat 3 (fld e 5 3), psz := 2, lclass := BitVec.ofNat 4 c,
                   base := BitVec.ofNat 64 (va.toNat / 2 ^ 30 * 2 ^ 30), frame := BitVec.ofNat 64 frame,
                   expiry := s.dieTime d + BitVec.ofNat 64 (2 ^ (c - 1) * 1000) })))) ∧
   (∀ (s : State) (w : Who) (space : BitVec 16) (va len til : Nat) (rest : List (BitVec 16 × Nat × Nat × Nat)),
     let z := s.strand w
     let d := dieOf w.core
     let again : Prop := exec (.flushComplete w) s = .next (s.timer (s.time.toNat + 1) (.flushComplete w))
     (z.flushes = [] → exec (.flushComplete w) s = .next s) ∧
     (z.flushes = (space, va, len, til) :: rest →
       (s.dieWrites d til = true → again) ∧
       (s.dieWrites d til = false → s.unseen = [] → exec (.flushComplete w) s = .next (s.setStrand w { z with flushes := rest })) ∧
       (s.dieWrites d til = false → s.unseen ≠ [] → 0 < len → s.walkStalls d space va = true → again) ∧
       (∀ l c, s.dieWrites d til = false → s.unseen ≠ [] → 0 < len → s.walkStalls d space va = false →
         (s.walk d space va).2.found = some (l, c) → va + len ≤ l.base.toNat + pageBytes l.psz → (∀ e, ∀ m ∈ (s.die e).migs, m.state = 0) →
         ∃ t, exec (.flushComplete w) s = .next t ∧ (t.strand w).flushes = rest ∧ t.mem = s.mem ∧
           t.unseen = s.unseen.filter fun x => !(decide (l.at va ≤ x.1) && decide (x.1 < l.at va + len)))))) ∧
  (∀ (s : State) (w : Who) (va : Dword),
     let z := s.strand w
     let d := dieOf w.core
     let now := (s.dieTime d).toNat
     let runs : Prop := z.life = .running
     let again : Prop := exec (.codeFetch w va) s = .next (s.timer (s.time.toNat + 1) (.codeFetch w va))
     (¬runs → exec (.codeFetch w va) s = .next s) ∧
     (runs → 2 ^ 45 ≤ va.toNat → exec (.codeFetch w va) s = .next (s.fatal w 0x0020 va 0)) ∧
     (∀ l, runs → va.toNat < 2 ^ 45 → s.flaws = [] → z.lease = some l → Covers l va.toNat now →
       let pa := l.frame.toNat + (va.toNat - l.base.toNat)
       let open_ : Prop := ∀ i < 8, s.behind w.core (pa + 8 * i) = false ∧ s.homeHolds (pa + 8 * i) = false ∧
         s.taken (s.homeOf (pa + 8 * i)) = false
       let line : CodeLine := { addr := va, halves := (List.range 32).map fun i => BitVec.ofNat 16 (s.physNat (pa + 2 * i) 2) }
       (open_ → s.assigned pa = true → (mgmtAddr pa = true ∨ (s.dieTime (homeDie (s.homeOf pa))).toNat < l.expiry.toNat) →
         ∃ t, exec (.codeFetch w va) s = .next t ∧ Others s t w ∧
           t.strand w = { z with lines := (line :: z.lines.filter fun x => x.addr != va).take 8 }) ∧
       (open_ → mgmtAddr pa = false → l.expiry.toNat ≤ (s.dieTime (homeDie (s.homeOf pa))).toNat → s.walkStalls d z.spr.space va.toNat = true →
         again) ∧
       (¬open_ → again)) ∧
     (runs → va.toNat < 2 ^ 45 → (∀ l, z.lease = some l → ¬Covers l va.toNat now) → s.walkStalls d z.spr.space va.toNat = true → again) ∧
     (runs → va.toNat < 2 ^ 45 → (∀ l, z.lease = some l → ¬Covers l va.toNat now) → s.walkStalls d z.spr.space va.toNat = false →
       s.flaws = [] → (contextDword s z.spr.space 0).getLsbD 0 = false → exec (.codeFetch w va) s = .next (s.fatal w 0x0020 va 0)))

namespace Sys2Proof.Claims

/-- Nothing holds an access up: its strand and core wait for none before it, no write crosses dies, no point holds a location,
its home is not in a clock-skew fault, and the slice has taken no access of the location in this cycle and has none to take
before it (R267, R268, R270, R272, R274, R277, R292). -/
abbrev Clear (s : State) (a : Access) : Prop :=
  s.underway a = false ∧ (∀ d, (s.die d).xwrites = []) ∧ s.held = [] ∧ s.homeHolds (s.homeOf a.pa) = false ∧
    locOf (s.homeOf a.pa) ∉ s.cycle.served ∧ s.passedBy (accessPort a) (s.homeOf a.pa) = false

/-- Its lease has not ended when it reaches its home, which is memory (R289, R343). -/
abbrev Timely (s : State) (a : Access) : Prop :=
  (s.dieTime (homeDie (s.homeOf a.pa))).toNat < a.expiry.toNat ∧ s.assigned (s.homeOf a.pa) = true ∧ mgmtAddr (s.homeOf a.pa) = false

/-- Signed value of `n` bytes. -/
def signedOf (n x : Nat) : Int := if 2 ^ (8 * n - 1) ≤ x then (x : Int) - 2 ^ (8 * n) else x

/-- The value an atomic writes, from the old value, its operand and a compare and swap's new value (R275). -/
def atomicValue (n o v y : Nat) : AmoOp → Option Nat
  | .add => some ((o + v) % 2 ^ (8 * n))
  | .and => some (o &&& v)
  | .or => some (o ||| v)
  | .xor => some (o ^^^ v)
  | .mins => some (if signedOf n v < signedOf n o then v else o)
  | .minu => some (min o v)
  | .maxs => some (if signedOf n o < signedOf n v then v else o)
  | .maxu => some (max o v)
  | .swap => some v
  | .cas => if o = v then some y else none
  | .fadd => some (fAdd FFmt.fp32 o v).1
  | .fmin => some (fminmax FFmt.fp32 false o v)
  | .fmax => some (fminmax FFmt.fp32 true o v)

/-- What the master distributor is told of a whole dword written at a word of the coherent window (R326, R328). -/
def toldOf (pa : Nat) (x : Dword) : List Event :=
  let off := pa - 0xC100000000
  if pa < 0xC100000000 then []
  else if off < 0x80000 then [.wqConsume (off / 8)]
  else if off < 0xA0000 then
    if x.toNat % 64 = 0 then [.doorbellRecord ((off - 0x80000) / 8) x]
    else if x = 1 then [.restart ((off - 0x80000) / 8)]
    else if x = 3 then [.reload ((off - 0x80000) / 8)]
    else []
  else []

end Sys2Proof.Claims

/-- R267, R270, R275, R276, R277, R280 to R282, R289, R292, R344, R345 and R348: an access performed at its home; what an error
of the word does to it (log entry 26); where it waits, where it comes too late and where it crosses to another die; and what the
host may reach and sees, with log entry 18 for the management registers. -/
def Obligations.HomeAccesses : Prop :=
  (∀ (s : State) (a : Access), Clear s a → Timely s a → s.flaws = [] →
    let pa := s.homeOf a.pa
    let home := homeDie pa
    let own := dieOf a.who.core
    let o := s.mem.nat pa a.n
    let took := s.served a pa
    (∀ d, a.op = .load d → a.wr = false → home = own →
      exec (.homeAccess a) s = .next (took.whenReady (.gregFill a.who d (BitVec.ofNat 64 o)))) ∧
    (∀ d l, a.op = .laneLoad d l → a.wr = false → home = own →
      exec (.homeAccess a) s = .next (took.setStrand a.who
        { s.strand a.who with vload := Table.put (s.strand a.who).vload (64 * d.toNat + l.val) (BitVec.ofNat 32 o) })) ∧
    (∀ x, a.op = .store x → a.wr = true → home = own → s.mem.wf = true → a.n ≤ 8 →
      ∃ t, exec (.homeAccess a) s = .next t ∧ Stored s.mem t.mem pa a.n x ∧ (∀ w, t.strand w = s.strand w) ∧
        (a.n = 8 → pa % 8 = 0 → pa < 0xC100100000 → t.agenda = s.agenda ++ toldOf pa x) ∧
        (s.unseen = [] → pa + a.n ≤ 0xC000000000 → ∀ i < a.n, (Table.find t.unseen (pa + i)).getD (t.mem.get (pa + i)) = s.mem.get (pa + i))) ∧
    (∀ d op ret x y, a.op = .atomic d op .package ret x y → a.wr = true → home = own →
      let new := atomicValue a.n o (x.toNat % 256 ^ a.n) (y.toNat % 256 ^ a.n) op
      a.n ≤ 8 →
      ∃ t, exec (.homeAccess a) s = .next t ∧ t.mem = (match new with | some v => s.mem.putNat pa a.n v | none => s.mem) ∧
        (op ≠ .fadd → t.strand a.who = s.strand a.who) ∧ (ret = true → Arriving t a.who d (BitVec.ofNat 64 o))) ∧
    (a.wr = true → home ≠ own → (∃ x, a.op = .store x) →
      ∃ t, exec (.homeAccess a) s = .next t ∧ t.mem = s.mem ∧ Event.crossdieWriteApply home ∈ t.agenda ∧
        (t.die own).clock = (s.die own).clock.set own.val ((s.die own).clock[own] + 1) own.isLt ∧
        (t.die home).xwrites = [{ sender := own, vec := (t.die own).clock, a := a, by_ := [a.who] }])) ∧
  (∀ (s : State) (a : Access) (b : Bool), Clear s a → Timely s a →
    let pa := s.homeOf a.pa
    let loc := pa / 8 * 8
    let z := s.strand a.who
    let corr : Strand := { z with spr := { z.spr with corr := BitVec.ofNat 32 (min 0xFFFFFFFF (z.spr.corr.toNat + 1)) } }
    let u := ((s.served a pa).drop a.who 1).jobFault a.who.core 0 0x005C (a.va + BitVec.ofNat 64 a.off) 0
    s.flaws = [(loc, b)] → homeDie pa = dieOf a.who.core → 0 < a.n → pa - loc + a.n ≤ 8 →
    (∀ d, a.op = .load d → a.wr = false → b = false → ∃ t, exec (.homeAccess a) s = .next t ∧ t.flaws = [] ∧ t.mem = s.mem ∧
      t.strand a.who = corr ∧ Arriving t a.who d (BitVec.ofNat 64 (s.mem.nat pa a.n))) ∧
    (∀ d, a.op = .load d → a.wr = false → b = true → exec (.homeAccess a) s = .next (u.whenReady (.gregFill a.who d 0))) ∧
    (∀ d op ret x y, a.op = .atomic d op .package ret x y → a.wr = true → b = true →
      let v := u.raise a.who 0
      exec (.homeAccess a) s = .next (if ret = true then v.whenReady (.gregFill a.who d 0) else v)) ∧
    (∀ x, a.op = .store x → a.wr = true → b = true → a.n < 8 → exec (.homeAccess a) s = .next u) ∧
    (∀ x, a.op = .store x → a.wr = true → a.n = 8 → s.mem.wf = true →
      ∃ t, exec (.homeAccess a) s = .next t ∧ t.flaws = [] ∧ Stored s.mem t.mem pa 8 x ∧ ∀ w, t.strand w = s.strand w)) ∧
  (∀ (s : State) (a : Access),
    let waits : Prop := exec (.homeAccess a) s = .next (s.timer (s.time.toNat + 1) (.homeAccess a))
    let at_ := a.va + BitVec.ofNat 64 a.off
    let pa := s.homeOf a.pa
    let late : Prop := a.expiry.toNat ≤ (s.dieTime (homeDie pa)).toNat ∧ mgmtAddr pa = false
    let stalls := s.walkStalls (dieOf a.who.core) a.space a.va.toNat
    (s.memoryWaits a.who = true → waits) ∧
    (s.held = [] → s.homeHolds pa = true → waits) ∧
    (∀ x, s.heldOnWay a.who.core (locOf a.pa) = some x → nearOf a pa ≠ some x.scope → waits) ∧
    (s.held = [] → locOf pa ∈ s.cycle.served → s.late a pa = false → s.assigned pa = true → waits) ∧
    (∀ e ∈ s.agenda, ∀ port, s.held = [] → s.reachOf e = some (locOf pa, port) →
      s.portTurn (sliceOf pa) port < s.portTurn (sliceOf pa) (accessPort a) → s.late a pa = false → s.assigned pa = true → waits) ∧
    (Clear s a → late → stalls = false → s.flaws = [] → (contextDword s a.space 0).getLsbD 0 = false →
      exec (.homeAccess a) s = .next (s.fatal a.who 0x0022 at_ 0)) ∧
    (∀ u l c b, Clear s a → late → stalls = false →
      s.walk (dieOf a.who.core) a.space a.va.toNat = (u, { found := some (l, c), base := b }) → (a.wr = true → l.wr = true) → l.kind ≠ 3 →
      at_.toNat + a.n ≤ l.base.toNat + pageBytes l.psz →
      ∃ t, exec (.homeAccess a) s = .next t ∧ t.mem = s.mem ∧
        (s.time.toNat + 1, Event.homeAccess { a with pa := l.frame.toNat + (at_.toNat - l.base.toNat), expiry := l.expiry, kind := l.kind }) ∈
          t.timers)) ∧
  (∀ (s : State) (pa n : Nat) (x : Dword), 0 < n → pa % 8 + n ≤ 8 → s.homeOf pa = pa →
    let other : Prop := pa < 0xC000000000 ∨ 0xC100000000 ≤ pa
    let open_ : Prop := s.assigned pa = true ∧ other ∧ mgmtAddr pa = false ∧ s.plat.safe = false ∧ s.homeHolds pa = false ∧
      locOf pa ∉ s.cycle.served ∧ s.passedBy hostPort pa = false ∧ s.flaws = []
    (¬other → exec (.hostAccess pa n true x) s = .next s) ∧
    (s.assigned pa = false → exec (.hostAccess pa n true x) s = .next s) ∧
    (mgmtAddr pa = false → s.plat.safe = true → exec (.hostAccess pa n true x) s = .next s) ∧
    (open_ → ∃ t, exec (.hostAccess pa n false x) s = .next t ∧ t.mem = s.mem ∧ (∀ w, t.strand w = s.strand w) ∧
      ∀ i < n, byteOf t.hostRead i = (Table.find s.unseen (pa + i)).getD (s.mem.get (pa + i))) ∧
    (open_ → s.mem.wf = true → Rising s.unseen →
      ∃ t, exec (.hostAccess pa n true x) s = .next t ∧ Stored s.mem t.mem pa n x ∧ (∀ w, t.strand w = s.strand w) ∧
        ∀ i < n, Table.find t.unseen (pa + i) = none) ∧
    (mgmtAddr pa = true → n = 8 →
      exec (.hostAccess pa n true x) s = .next (s.dueAll (s.mgmtWrite (pa - 0xC100100000) x true)) ∧
      exec (.hostAccess pa n false x) s = .next { s with hostRead := s.mgmtRead (pa - 0xC100100000) }))

namespace Sys2Proof.Claims

/-- A migration entry of a die. -/
def entryAt (s : State) (d : DieId) (e : MigId) : Migration := (s.die d).migs[e]

/-- Only one migration entry has changed, to `m`. -/
abbrev Migrates (s t : State) (d : DieId) (e : MigId) (m : Migration) : Prop :=
  t.dies = (s.setDie d { s.die d with migs := (s.die d).migs.set e.val m e.isLt }).dies ∧ ∀ w, t.strand w = s.strand w

end Sys2Proof.Claims

/-- R267, R272, R273, R277, R289, R292 and R298: a write from another die is applied once every write its vector names has been
reported, and not before, where its home takes it by its port's turn and once in a cycle, and waits for a home in a clock-skew
fault; a die reports the count up to which its writes have been applied; a point that has been idle for 16 cycles, or has
applied 64 atomics, writes its value back, unless the word it read had two wrong bits (R280). R292, R297 to R299 and R302: a
write of 1 starts an entry whose frames are aligned, apart and named by no other entry; its page is copied line by line, a line
with a word of two wrong bits being counted, none while a home of it is in a clock-skew fault, and afterwards it forwards until
a write of 0 removes it. -/
def Obligations.HomeOrderAndMigrations : Prop :=
  ((∀ (s : State) (d : DieId), (s.die d).inFault = true →
     exec (.crossdieWriteApply d) s = .next (s.timer (s.time.toNat + 1) (.crossdieWriteApply d))) ∧
   (∀ (s : State) (d : DieId) (x : XWrite), (s.die d).xwrites = [x] → (s.die d).inFault = false →
     let reached (f : DieId) : Prop :=
       (s.die f).fenced = true ∨ ((s.die d).known[f] - (if f = x.sender then x.vec[f] - 1 else x.vec[f])).toNat < 2 ^ 31
     let pa := s.homeOf x.a.pa
     ((∃ f, ¬reached f) → exec (.crossdieWriteApply d) s = .next s) ∧
     ((∀ f, reached f) → s.homeHolds pa = true →
       exec (.crossdieWriteApply d) s = .next (s.timer (s.time.toNat + 1) (.crossdieWriteApply d))) ∧
     let open_ : Prop := locOf pa ∉ s.cycle.served ∧ s.passedBy (accessPort x.a) pa = false
     ((∀ f, reached f) → s.late x.a pa = false → ¬open_ →
       exec (.crossdieWriteApply d) s = .next (s.timer (s.time.toNat + 1) (.crossdieWriteApply d))) ∧
     (∀ v, (∀ f, reached f) → s.homeHolds pa = false → open_ → x.a.op = .store v → (s.dieTime (homeDie pa)).toNat < x.a.expiry.toNat →
       s.assigned pa = true → mgmtAddr pa = false →
       s.mem.wf = true → s.flaws = [] → x.a.n ≤ 8 →
       ∃ t, exec (.crossdieWriteApply d) s = .next t ∧ (t.die d).xwrites = [] ∧ Stored s.mem t.mem pa x.a.n v ∧
         (∀ w, t.strand w = s.strand w) ∧ Event.crossdieWriteApply d ∈ t.agenda)) ∧
   (∀ (s : State) (f : DieId), (∀ d, ∀ x ∈ (s.die d).xwrites, x.sender ≠ f) →
     ∃ t, exec (.appliedCountReport f) s = .next t ∧ t.mem = s.mem ∧ (∀ w, t.strand w = s.strand w) ∧
       ∀ d, (t.die d).known = (s.die d).known.set f.val (s.die f).clock[f] f.isLt) ∧
   (∀ (s : State) (x : HeldLoc), s.held = [x] → (∀ d, (s.die d).xwrites = []) →
     let own := dieOf x.last.who.core
     let pa := s.homeOf (locOf x.last.pa)
     let ready : Prop := s.homeHolds pa = false ∧ (s.dieTime (homeDie pa)).toNat < x.last.expiry.toNat ∧ mgmtAddr pa = false ∧
       s.assigned pa = true ∧ s.flaws = []
     let open_ : Prop := locOf pa ∉ s.cycle.served ∧ s.passedBy (accessPort x.last) pa = false
     (x.count < 64 → s.time.toNat < x.stamp + 16 → exec (.atomicWriteback x.scope x.point x.loc) s = .next s) ∧
     ((64 ≤ x.count ∨ x.stamp + 16 ≤ s.time.toNat) →
       (x.bad = true → exec (.atomicWriteback x.scope x.point x.loc) s = .next { s with held := [] }) ∧
       (x.bad = false → s.homeHolds pa = true → exec (.atomicWriteback x.scope x.point x.loc) s =
         .next (s.timer (s.time.toNat + 1) (.atomicWriteback x.scope x.point x.loc))) ∧
       (x.bad = false → ready → homeDie pa = own → open_ → ∃ t, exec (.atomicWriteback x.scope x.point x.loc) s = .next t ∧ t.held = [] ∧
         t.mem = s.mem.putNat pa 8 x.value.toNat ∧ ∀ w, t.strand w = s.strand w) ∧
       (x.bad = false → ready → homeDie pa ≠ own → ∃ t, exec (.atomicWriteback x.scope x.point x.loc) s = .next t ∧ t.held = [] ∧
         t.mem = s.mem ∧ (t.die (homeDie pa)).xwrites = [{ sender := own, vec := (t.die own).clock, a := x.back, by_ := x.by_ }])))) ∧
  (∀ (s : State) (d : DieId) (e : MigId) (x : Dword),
     let m := entryAt s d e
     let old := fld x 47 16 * 2 ^ 16
     let n := pageBytes (x.extractLsb' 2 2)
     let put : Migration := { m with psz := x.extractLsb' 2 2, old := BitVec.ofNat 64 old }
     let fits : Prop := x.extractLsb' 2 2 ≠ 3 ∧ old % n = 0 ∧ m.new.toNat % n = 0 ∧ (old + n ≤ m.new.toNat ∨ m.new.toNat + n ≤ old) ∧
       ∀ f, (entryAt s d f).state ≠ 0 → (entryAt s d f).old.toNat ≠ old
     (m.state ≠ 0 → exec (.migrationArm d e x) s = .next s) ∧
     (m.state = 0 → fits → ∃ t, exec (.migrationArm d e x) s = .next t ∧ Migrates s t d e { put with state := 1, prog := 0 } ∧
       t.mem = s.mem ∧ (s.time.toNat + 1, Event.migrationLineCopy d e) ∈ t.timers) ∧
     (m.state = 0 → ¬fits → ∃ t, exec (.migrationArm d e x) s = .next t ∧ Migrates s t d e put ∧ t.mem = s.mem ∧ t.timers = s.timers) ∧
     (m.state = 2 → ∃ t, exec (.migrationRemove d e) s = .next t ∧ Migrates s t d e { m with state := 0 } ∧ t.mem = s.mem) ∧
     (m.state ≠ 2 → exec (.migrationRemove d e) s = .next s) ∧
     (m.state ≠ 1 → exec (.migrationLineCopy d e) s = .next s) ∧
     let clocked : Prop := ∀ a ∈ [m.old, m.new], (s.die (homeDie (a.toNat + m.prog.toNat))).inFault = false
     (m.state = 1 → ¬clocked → exec (.migrationLineCopy d e) s = .next (s.timer (s.time.toNat + 1) (.migrationLineCopy d e))) ∧
     (∀ loc, m.state = 1 → clocked → s.flaws = [(loc, true)] → loc % 8 = 0 → m.old.toNat + m.prog.toNat ≤ loc → loc < m.old.toNat + m.prog.toNat + 256 →
       ∃ t, exec (.migrationLineCopy d e) s = .next t ∧ (entryAt t d e).badl = m.badl + 1) ∧
     (m.state = 1 → clocked → s.mem.wf = true → s.flaws = [] →
       let p := m.prog + 256
       ∃ t, exec (.migrationLineCopy d e) s = .next t ∧
         Put s.mem t.mem (m.new.toNat + m.prog.toNat) 256 (fun i => s.mem.get (m.old.toNat + m.prog.toNat + i)) ∧
         (p.toNat = pageBytes m.psz → Migrates s t d e { m with state := 2, prog := p }) ∧
         (p.toNat ≠ pageBytes m.psz → Migrates s t d e { m with prog := p } ∧ (s.time.toNat + 1, Event.migrationLineCopy d e) ∈ t.timers)))

/-- R290 to R292: a copy within the threshold is locked, or held where it would step back; beyond it the die's leases end and it
is in a clock-skew fault until it is locked again, or is fenced after 100 µs; a copy away from a new master's slews to it. R292,
R303, R313 and R314: a fenced die's cores run nothing, and an access that its home held in a fault of its clock is gone, where
one of another die to the management registers goes on; its master is replaced by the lowest-numbered healthy die; an idempotent
instance that ran there is on its way back into the pool; a change of the pool takes effect with its last acknowledgement. -/
def Obligations.ClocksAndFencing : Prop :=
  (∀ (s : State) (d : DieId) (ofs : Int),
     let x := s.die d
     let limit := if s.time.toNat < s.dist.wide.toNat then 32 else 16
     let measured : Prop := x.fenced = false ∧ x.lcuMaster = false ∧ x.inFault = false
     (¬measured → exec (.lcuMeasure d ofs) s = .next s) ∧
     (measured → ofs.natAbs ≤ limit →
       exec (.lcuMeasure d ofs) s = .next (s.setDie d { x with offset := ofs, hold := s.dieTime d, locked := decide (ofs.natAbs ≤ 16) })) ∧
     (measured → limit < ofs.natAbs →
       ∃ t, exec (.lcuMeasure d ofs) s = .next t ∧ t.mem = s.mem ∧
         t.dies = (s.setDie d
           { x with
             offset := ofs, hold := s.dieTime d, locked := false, inFault := true, skewf := true, trans := [], entries := []
             portTrans := [], skewcnt := BitVec.ofNat 16 (min 65535 (x.skewcnt.toNat + 1)) }).dies ∧
         (s.time.toNat + 100000, Event.skewResyncTimeout d) ∈ t.timers ∧
         (∀ c, dieOf c ≠ d → t.core c = s.core c) ∧
         ∀ w h, dieOf w.core = d → (t.strand w).rh h = { (s.strand w).rh h with expiry := 0 }) ∧
     (x.inFault = true → x.fenced = false →
       (∃ t, exec (.skewResync d) s = .next t ∧ t.mem = s.mem ∧ t.cores = s.cores ∧
         t.dies = (s.setDie d { x with inFault := false, locked := true, offset := 0, hold := s.dieTime d }).dies) ∧
       exec (.skewResyncTimeout d) s = .next (s.due (.dieFence d))) ∧
     ((x.inFault = false ∨ x.fenced = true) → exec (.skewResync d) s = .next s ∧ exec (.skewResyncTimeout d) s = .next s) ∧
     (measured → 16 < x.offset.natAbs →
       let nearer := if x.offset < 0 then x.offset + 1 else x.offset - 1
       runEvent (.slew d) s = .next ((s.setDie d { x with offset := nearer, hold := s.dieTime d, locked := decide (nearer.natAbs ≤ 16) }).timer
         (s.time.toNat + 1000) (.slew d))) ∧
     (¬measured ∨ x.offset.natAbs ≤ 16 → runEvent (.slew d) s = .next s)) ∧
  ((∀ (s : State) (d : DieId),
     ((s.die d).fenced = true → exec (.dieFence d) s = .next s) ∧
     ((s.die d).fenced = false → s.dist.changes = [] → (∀ x ∈ s.insts, (∀ c ∈ x.2.cores, dieOf c ≠ d) ∧ x.2.status ≠ .saved) →
       ∃ t, exec (.dieFence d) s = .next t ∧ t.mem = s.mem ∧ (t.die d).fenced = true ∧ (∀ e, e ≠ d → (t.die e).fenced = (s.die e).fenced) ∧
         (∀ c, dieOf c = d → (t.core c).inst = none ∧ (t.core c).s.life = .idle) ∧ (∀ c, dieOf c ≠ d → t.core c = s.core c) ∧
         (s.dist.electing = false → (t.dist.electing = true ↔ s.dist.master = d)) ∧ Event.instanceDispatch ∈ t.agenda) ∧
     (∀ k i c, (s.die d).fenced = false → s.dist.changes = [] → s.insts = [(k, i)] → i.cores = [c] → dieOf c = d → i.idem = true →
       i.status = .running → ∃ t, exec (.dieFence d) s = .next t ∧ (t.getInst k).status = .lost ∧ (t.getInst k).cores = [] ∧ Event.instanceReturn k ∈ t.agenda) ∧
     (∀ n a, (s.die d).fenced = false → s.dist.changes = [] → s.insts = [] → s.timers = [(n, Event.homeAccess a)] →
       ∃ t, exec (.dieFence d) s = .next t ∧
         ((s.die d).inFault = true → homeDie (s.homeOf a.pa) = d → mgmtAddr (s.homeOf a.pa) = false → s.owes a = false →
           s.behind a.who.core (locOf a.pa) = false → ∀ x ∈ t.timers, x.2 ≠ Event.homeAccess a) ∧
         (mgmtAddr (s.homeOf a.pa) = true → dieOf a.who.core ≠ d → (n, Event.homeAccess a) ∈ t.timers))) ∧
   (∀ (s : State) (m : DieId),
     (s.dist.electing = false → exec .masterElection s = .next s) ∧
     (s.dist.electing = true → (s.die m).fenced = false → (∀ e, e < m → (s.die e).fenced = true) →
       ∃ t, exec .masterElection s = .next t ∧ t.mem = s.mem ∧ t.dist.master = m ∧ t.dist.electing = false ∧
         t.dist.elects.toNat = min 65535 (s.dist.elects.toNat + 1) ∧ Event.instanceDispatch ∈ t.agenda)) ∧
   (∀ (s : State) (d : DieId) (c : Change), s.dist.changes = [c] → d ∈ c.need →
     ∃ t, exec (.replicaAcknowledge d) s = .next t ∧ t.mem = s.mem ∧
       ((∀ e ∈ c.need, e = d) → t.dist.changes = [] ∧ c.ev ∈ t.dist.granted ∧ c.ev ∈ t.agenda) ∧
       ((∃ e ∈ c.need, e ≠ d) → t.dist.changes = [{ c with need := c.need.filter (· != d) }] ∧ t.agenda = s.agenda)))

/-! ### The distributor (06, 19, 20) -/

namespace Sys2Proof.Claims

/-- The master decides now: no election is in progress, and nothing can hold its accesses on their way (R268, R272, R292, R313). -/
abbrev Decides (s : State) : Prop := s.dist.electing = false ∧ s.calm = true

/-- The master decides alone and now: no replica has to acknowledge (R303, R313). -/
abbrev Alone (s : State) : Prop := Decides s ∧ s.replicas = [] ∧ s.dist.changes = [] ∧ s.dist.granted = []

/-- An instance on one core. -/
abbrev OnCore (s : State) (k : Nat) (c : CoreId) : Prop :=
  (s.getInst k).cores = [c] ∧ (s.core c).inst = some k ∧ (s.getInst k).cluster = false ∧ (s.getInst k).copy = none

end Sys2Proof.Claims

/-- R20, R306 to R309, R311, R120, R310 and R313: the instance that leads the pool starts on an idle core, or, where none is
idle, the running instance of lowest priority is asked to make room; an election puts every decision of the master off, and so
does what holds one of its accesses on its way (R268, R272, R292; log entry 78). -/
def Obligations.Dispatching : Prop :=
  (∀ (s : State) (k : Nat) (i : Inst), Alone s → s.insts = [(k, i)] → i.status = .ready → i.cluster = false → i.copy = none →
    i.tileops = [] → i.slot = none → s.dist.reserved = none →
    let u := s.keepPath i.leaf.toNat
    let free : Prop := ∃ c, s.idleCore c = true
    (∀ slot : SaveArea, u.eligible i = true → free → u.freeSlot i = some slot → (u.badSavePage slot.space slot.va 33).2 = none →
      ∃ t c, exec .instanceDispatch s = .next t ∧ s.idleCore c = true ∧ OnCore t k c ∧ (t.getInst k).status = .running ∧
        (t.getInst k).slot = some slot ∧ Fresh (t.core c).s i.entryPc i.arg i s.now ∧ (t.core c).v.life = .idle ∧ (t.core c).m.life = .idle ∧
        ∀ e, e ≠ c → t.core e = s.core e) ∧
    ((u.eligible i = false ∨ ¬free) →
      ∃ t, exec .instanceDispatch s = .next t ∧ t.mem = s.mem ∧ t.cores = s.cores ∧ t.insts = s.insts ∧
        (u.eligible i = true → Event.preemptRequest ∈ t.agenda))) ∧
  (∀ (s : State), Decides s →
    (s.waiter = none → exec .preemptRequest s = .next s) ∧
    (∀ k i j v rest, s.waiter = some (k, i) → i.cluster = false → s.dist.preempting ≠ some k →
      s.victims (s.effective i) = (j, v) :: rest → s.getInst j = v →
      ∃ t, exec .preemptRequest s = .next t ∧ (t.getInst j).preq = true ∧ t.dist.preempting = some k ∧ t.mem = s.mem ∧
        v.status = .running ∧ v.epri.toNat < s.effective i ∧
        ∀ x ∈ s.insts, x.2.status = .running → x.2.epri.toNat < s.effective i → v.epri.toNat ≤ x.2.epri.toNat)) ∧
  (∀ (s : State) (n : Nat) (x : Dword) (p : Port) (m : StealMsg) (y : Stolen), s.dist.electing = true →
    ∀ z ∈ [(Instr.instanceDispatch, Event.instanceDispatch), (.preemptRequest, .preemptRequest), (.instanceResume n, .instanceResume n),
      (.doorbellRecord n x, .doorbellRecord n x), (.restart n, .restart n), (.reload n, .reload n), (.wqConsume n, .wqConsume n),
      (.devqConsume n, .devqConsume n), (.loadFigure, .loadFigure), (.stealRequest, .stealRequest), (.stealGrant p n, .stealGrant p n),
      (.stolenArrival p y, .stolenArrival p y), (.steal p m, .steal p m)],
    exec z.1 s = .next (s.later z.2)) ∧
  (∀ (s t : State) (e : Event) (body : State → Out), s.dist.electing = false → body s = .next t →
    let m := s.dist.master
    let counted : Prop := s.sending m = true ∧ (t.die m).clock[m] ≠ (s.die m).clock[m]
    (s.calm = true → master e body s = .next t) ∧
    (s.calm = false → t.cycle.stalled = true ∨ counted → master e body s = .next (s.later e)) ∧
    (s.calm = false → t.cycle.stalled = false → ¬counted → master e body s = .next t))

/-- R39, R115, R121 to R125, R244 and R311: an instance that must leave its core is saved once everything of it is at rest, and
goes on where it is restored; the bytes of its save area are in memory; a page of it that fails in a save or a restore ends the
instance; it retires once nothing of it is left. -/
def Obligations.InstanceLife : Prop :=
  (∀ (s : State) (k : Nat) (c : CoreId), OnCore s k c →
    let i := s.getInst k
    let area := i.slot.getD default
    let put := s.putParts area.space area.va [c]
    (i.leaving = true → s.maySave i = false → exec (.instanceSave k) s = .next (s.later (.instanceSave k))) ∧
    (i.leaving = true → s.maySave i = true → Alone s →
      ∃ t, exec (.instanceSave k) s = .next t ∧
        (put.2 = none → (t.getInst k).status = .saved ∧ (t.getInst k).cores = [] ∧ (t.getInst k).preq = false ∧ (t.core c).inst = none ∧
          (t.core c).spad = (s.core c).spad ∧ Event.instanceDispatch ∈ t.agenda ∧
          (s.mem.wf = true → ∀ a, (∀ n ∈ put.1.regionPath i.leaf.toNat, let x := put.1.homeOf (put.1.regionAddr n + 0x38); a < x ∨ x + 8 ≤ a) →
            t.mem.get a = put.1.mem.get a)) ∧
        (put.2 ≠ none → (t.getInst k).status = .terminated ∧ (t.getInst k).slot = none))) ∧
  (∀ (s : State) (c : CoreId) (space : BitVec 16) (va root cap : Nat), ContextAt s space root cap →
    (∀ d, (s.die d).entries = [] ∧ ∀ m ∈ (s.die d).migs, m.state = 0) → s.mem.wf = true → s.flaws = [] →
    let at_ := root + 8 * (va / 2 ^ 30 % 2 ^ 15)
    let e := s.physDword at_
    let frame := fld e 56 16 * 2 ^ 16
    let pa := frame + va % 2 ^ 30
    let image := partImage (s.core c) s.now
    e.getLsbD 0 = true → e.getLsbD 1 = true → e.getLsbD 2 = true → fld e 5 3 < 2 → fld e 15 10 = 0 → fld e 63 57 = 0 → fld e 9 6 ≠ 0 →
    frame % 2 ^ 30 = 0 → s.assigned frame = true → s.assigned (frame + 2 ^ 30 - 1) = true →
    va % 2 ^ 30 + 0x210000 ≤ 2 ^ 30 → va + 0x210000 ≤ 2 ^ 45 → image.wf = true → Apart pa 0x208000 at_ 8 →
    Apart pa 0x208000 (s.plat.ctxbase.toNat + 32 * space.toNat) 32 →
    let put := s.putParts space va [c]
    put.2 = none ∧ Put s.mem put.1.mem pa 0x208000 image.get) ∧
  (∀ (s : State) (k : Nat) (c : CoreId) (x : Kept), OnCore s k c → Decides s →
    let i := s.getInst k
    let area := i.slot.getD default
    let got := s.getParts area.space area.va [(c, x)]
    (i.status ≠ .saved → exec (.instanceResume k) s = .next s) ∧
    (i.status = .saved → i.kept = [x] → got.2 = none → i.acts = [] →
      ∃ t, exec (.instanceResume k) s = .next t ∧ (t.getInst k).status = .running ∧ (t.getInst k).preq = false ∧ (t.getInst k).stop = false ∧
        (∀ n, ⟨c, n⟩ ∈ t.roster ↔ ⟨c, n⟩ ∈ s.roster ∨ (got.1.strand ⟨c, n⟩).issues = true) ∧ ∀ n, t.strand ⟨c, n⟩ = got.1.strand ⟨c, n⟩) ∧
    (i.status = .saved → i.kept = [x] → got.2 ≠ none →
      ∃ t, exec (.instanceResume k) s = .next t ∧ (t.getInst k).status = .terminated ∧ (t.getInst k).slot = none)) ∧
  (∀ (s : State) (k : Nat),
    ((s.getInst k).status = .suspended → exec (.suspendTimeout k) s = .next (s.due (.instanceSave k))) ∧
    ((s.getInst k).status ≠ .suspended → exec (.suspendTimeout k) s = .next s)) ∧
  (∀ (s : State) (k : Nat) (i : Inst) (c : CoreId), s.insts = [(k, i)] → OnCore s k c → i.status = .running →
    (s.instDone k = false → exec (.instanceRetire k) s = .next s) ∧
    (s.instDone k = true → s.instQuiet k = false → exec (.instanceRetire k) s = .next (s.later (.instanceRetire k))) ∧
    (s.instDone k = true → s.instQuiet k = true → Alone s → i.origin = .none →
      ∃ t, exec (.instanceRetire k) s = .next t ∧ t.insts = [] ∧ (t.core c).inst = none ∧ (t.core c).spad = (s.core c).spad ∧
        (∀ e, e ≠ c → t.core e = s.core e) ∧ Event.instanceDispatch ∈ t.agenda))

/-- R115, R117, R119, R126, R325 and R326: the overrun and the deadlock fault; the action of a handler on the record of a
suspended instance, found through the master's copies of the regions; restarting a region, and reading the regions again, once
no record is on its way. -/
def Obligations.FaultDomains : Prop :=
  (∀ (s : State) (w : Who),
    let z := s.strand w
    let tooLong : Prop := (s.instOn w.core).preq = true ∧ z.issues = true ∧ 4096 ≤ z.spr.spcnt.toNat
    (tooLong → exec (.safepointOverrun w) s =
      .next ((s.setStrand w { z with pc := if z.guard.isSome then z.pc - 2 else z.pc, guard := none }).fatal w 0x0024 0 0)) ∧
    (¬tooLong → exec (.safepointOverrun w) s = .next s)) ∧
  (∀ (s : State) (c : CoreId) (k : Nat), OnCore s k c →
    let u := s.setCore c { s.core c with deadlock := 0 }
    let r : Rec := { cause := 0x0025, sid := none, queue := 0, arg := 0, pc := 0, cid := s.cid c, addr := 0, detail := 0 }
    (((s.core c).deadlock < 2 ^ 20 ∨ s.deadlocked c = false) → exec (.deadlockFault c) s = .next s) ∧
    (∀ v va n, 2 ^ 20 ≤ (s.core c).deadlock → s.deadlocked c = true → u.post r (u.getInst k) = (v, some va, n) →
      ∃ t, exec (.deadlockFault c) s = .next t ∧ (t.getInst k).frec = va ∧ (t.getInst k).stop = true ∧ (t.getInst k).status = .suspended ∧
        (∀ i, (t.strand ⟨c, i⟩).issues = false ∧ (t.strand ⟨c, i⟩).pc = (s.strand ⟨c, i⟩).pc) ∧
        ∃ a ∈ t.dist.awaiting, a.inst = some k ∧ a.addr = va ∧ a.who = none)) ∧
  (∀ (s u : State) (n k : Nat) (a : Awaiting) (w : Who) (bs : List Byte), Decides s → s.dist.awaiting = [a] →
    let v := s.keepPath n
    a.inst = some k → a.who = some w → v.owner 5 a.region = v.owner 5 n → OnCore s k w.core → (s.getInst k).status = .suspended →
    (s.strand w).life = .running → (∃ c r, (s.strand w).held = .faulted c r) →
    v.distRead (v.spaceOf a.region) (a.addr.toNat + 0x38) 8 = (u, some bs) →
    let act := (leNat (bs.take 8)) % 4
    let to_ := (leNat (bs.take 8)) / 2 ^ 16
    let goes (pc : Dword) (redirected : Bool) : Prop :=
      ∃ t, exec (.doorbellRecord n a.addr) s = .next t ∧ t.dist.awaiting = [] ∧ (t.getInst k).status = .running ∧ (t.getInst k).stop = false ∧
        (t.strand w).held = .no ∧ (t.strand w).pc = pc ∧ (t.strand w).spr.tcause = a.cause ∧ (t.strand w).spr.spcnt = 0 ∧
        ∀ r, (t.strand w).rg r = if redirected = true ∧ r = 62 then a.addr else (s.strand w).rg r
    (act = 0 → exec (.doorbellRecord n a.addr) s = .next u) ∧
    (act = 1 → goes (s.strand w).pc false) ∧
    (act = 2 → to_ % 2 = 0 → to_ < 2 ^ 45 → goes (BitVec.ofNat 64 to_) true) ∧
    ((act = 3 ∨ act = 2 ∧ (to_ % 2 = 1 ∨ 2 ^ 45 ≤ to_)) →
      ∃ t, exec (.doorbellRecord n a.addr) s = .next t ∧ (t.getInst k).status = .terminated ∧ (t.strand w).life = .halted)) ∧
  (∀ (s : State) (n : Nat), s.posts ≠ [] → exec (.reload n) s = .next (s.later (.reload n))) ∧
  (∀ (s : State) (n : Nat), Decides s → s.posts = [] →
    let pa := s.homeOf (s.plat.rgnbase.toNat + 256 * n)
    (s.flaws = [] → ∃ t, exec (.restart n) s = .next t ∧ t.mem = s.mem.putNat pa 8 ((s.mem.dword pa) &&& ~~~8#64).toNat ∧
      (t.region n).stopped = false ∧ Event.instanceDispatch ∈ t.agenda) ∧
    ((∀ d, (s.die d).leave = []) →
      ∃ t, exec (.reload n) s = .next t ∧ t.mem = s.mem ∧ (∀ r, s.dist.regions = [(n, r)] → t.dist.regions = [(n, s.readRegion n)]) ∧
        Event.instanceDispatch ∈ t.agenda)) ∧
  (∀ (s : State) (n : Nat) (x : Dword), Decides s → (∀ a ∈ s.dist.awaiting, a.addr ≠ x) →
    exec (.doorbellRecord n x) s = .next (s.keepPath n))

namespace Sys2Proof.Claims

/-- Field `[hi:lo]` of dword `i` of bytes. -/
def ofBytes (bs : List Byte) (i hi lo : Nat) : Nat := leNat ((bs.drop (8 * i)).take 8) / 2 ^ lo % 2 ^ (hi + 1 - lo)

/-- The state in which the master decides about the entries of a queue: it has a copy of the blocks of every region that counts (R325). -/
def readingFor (s : State) (q : Nat) : State := (s.keepPath (s.queueLeaf q)).keepQueues q

/-- The state in which it takes one: it has read the queue's descriptor and tail word as well (R329). -/
def takingFrom (s : State) (q : Nat) : State := readingFor ((s.masterMet (s.queueAddr q) 32).masterMet (0xC100000000 + 8 * q) 8) q

/-- The queue has handed over an entry, with the dwords it was read with (R334, R338). -/
abbrev HandedOver (t : State) (q : Nat) (space : BitVec 16) (leaf : Nat) (bs : List Byte) : Prop :=
  ∃ h, Table.find t.dist.handed q = some h ∧ h.space = space ∧ h.leaf = leaf ∧ ∀ i : Fin 8, h.words[i] = bytesDword bs i

end Sys2Proof.Claims

/-- R328, R329, R330, R333, R334, R337 and R338: the master takes the entries of a queue one at a time, in order, and keeps what
it read of each; an entry that fails a check is answered with its reason, one that finds every replay in flight waits, and one
that starts numbers its replay. R335, R336, R330 and R313: a conditional node lowers the successors it chooses and skips the
others; a replay whose every node is complete or skipped writes its STATUS and frees its slot; a node that becomes ready in an
election waits for its end. -/
def Obligations.WorkAndReplays : Prop :=
  ((∀ (s : State) (q : Nat), Decides s →
     let d := s.queueDword q 0
     let new : Prop := d.getLsbD 1 = false ∧ q ∉ s.dist.heldQueues ∧
       (s.consumed q).toNat < (s.physDword (0xC100000000 + 8 * q)).toNat
     (¬new → exec (.wqConsume q) s = .next s) ∧
     (∀ v bs, new → s.consumed q = 0 → s.flaws = [] →
       let u := takingFrom s q
       let e := fld (s.queueDword q 1) 44 0
       u.distRead (u.spaceOf (s.queueLeaf q)) e 64 = (v, some bs) →
       ∃ t, exec (.wqConsume q) s = .next t ∧ t.dist.heldQueues = s.dist.heldQueues ++ [q] ∧
         HandedOver t q (u.spaceOf (s.queueLeaf q)) (s.queueLeaf q) bs ∧
         t.mem = (s.mem.putNat (s.homeOf (s.queueAddr q + 24)) 8 e).putNat (s.homeOf (s.queueAddr q + 16)) 8 1 ∧
         (if ofBytes bs 3 1 0 = 1 then Event.struct q (BitVec.ofNat 64 e) else Event.launch q (BitVec.ofNat 64 e)) ∈ t.agenda)) ∧
   (∀ (s : State) (q : Nat) (e : DevEntry) (rest : List DevEntry), Decides s → s.devEntries q = e :: rest →
     (e.placed = false → s.wrote e.who = false → exec (.devqConsume q) s = .next (s.later (.devqConsume q))) ∧
     ((∀ x ∈ e :: rest, x.placed = true) → q ∈ s.dist.heldQueues → exec (.devqConsume q) s = .next s) ∧
     (∀ v bs, (∀ x ∈ e :: rest, x.placed = true) → q ∉ s.dist.heldQueues → s.distRead e.space e.va.toNat 64 = (v, some bs) →
       ∃ t, exec (.devqConsume q) s = .next t ∧ t.dist.heldQueues = s.dist.heldQueues ++ [q] ∧
         HandedOver t q e.space (v.queueLeaf q) bs ∧
         (if ofBytes bs 3 1 0 = 1 then Event.struct q e.va else Event.launch q e.va) ∈ t.agenda)) ∧
   (∀ (s : State) (q : Nat) (e : Dword) (h : Handed), Alone s → Table.find s.dist.handed q = some h →
     let v := readingFor s q
     let space := h.space
     let at_ (i hi lo : Nat) := fld (h.dword i) hi lo
     let plen := at_ 3 63 32
     let badFields : Prop := (∃ i ∈ [0, 1, 2, 6], at_ i 63 45 ≠ 0) ∨ at_ 3 31 2 ≠ 0 ∨ at_ 5 63 32 ≠ 0 ∨ at_ 7 63 0 ≠ 0 ∨ 2 ≤ at_ 3 1 0 ∨ at_ 1 5 0 ≠ 0
     let badPatch : Prop := plen % 8 ≠ 0 ∨ at_ 5 31 0 % 8 ≠ 0 ∨ plen ≠ 0 ∧ at_ 2 2 0 ≠ 0
     let rejects (i : Instr) (reason : Nat) : Prop :=
       exec i s = .next (((v.writeStatus space e (BitVec.ofNat 64 (4 + reason * 2 ^ 8))).handled q e).releaseQueue q)
     (v.queueReason q ≠ 0 → rejects (.launch q e) (v.queueReason q) ∧ rejects (.struct q e) (v.queueReason q)) ∧
     (v.queueReason q = 0 → badFields → rejects (.launch q e) 1 ∧ rejects (.struct q e) 1) ∧
     (v.queueReason q = 0 → ¬badFields → badPatch → rejects (.launch q e) 3 ∧ rejects (.struct q e) 3) ∧
     (∀ w g, v.checkLaunch q space h.dword = (w, .wait g) →
       exec (.launch q e) s = .next ((({ w with dist := { w.dist with graphWaits :=
         w.dist.graphWaits ++ [{ graph := BitVec.ofNat 64 (at_ 1 44 0), space := space, by_ := .entry q e, g := g, handed := h }] } } : State).writeStatus space e 1).handled q e)) ∧
     (∀ w g p n, v.checkLaunch q space h.dword = (w, .start g p) → g.nodes = [n] → nodeKind n.record = 0 →
       fld (nodeDword n.record 0) 31 16 = 0 → nodeRanges n.record ≠ [] →
       ∃ t y, exec (.launch q e) s = .next t ∧ Table.find t.dist.replays w.dist.nextReplay = some y ∧ y.origin = .entry q e ∧
         y.number = g.launches + 1 ∧ y.leaf = h.leaf ∧ y.nodes = [.running (nodeRanges n.record).length false] ∧ q ∉ t.dist.heldQueues ∧
         (∀ k first count, (k, first, count) ∈ nodeRanges n.record →
           let i := t.getInst (w.dist.nextInst + k)
           i.status = .ready ∧ i.leaf = BitVec.ofNat 32 h.leaf ∧ i.iid = BitVec.ofNat 32 first ∧ i.count = BitVec.ofNat 32 count ∧ i.k = k ∧ i.origin = .node w.dist.nextReplay 0) ∧
         Event.instanceDispatch ∈ t.agenda)) ∧
   (∀ (s w x : State) (q : Nat) (e : Dword) (h : Handed) (hs p : List Byte), Decides s → Table.find s.dist.handed q = some h →
     let v := readingFor s q
     let space := h.space
     let graph := fld (h.dword 1) 44 0
     let nodes := ofBytes hs 0 15 0
     let poff := fld (h.dword 5) 31 0
     let plen := fld (h.dword 3) 63 32
     v.queueReason q = 0 → entryReason h.dword = 0 →
     v.distRead space graph 64 = (w, some hs) → (w.present space graph true (64 + 256 * nodes)).2 = true →
     (w.present space graph true (64 + 256 * nodes)).1.distRead space (fld (h.dword 2) 44 0) plen = (x, some p) →
     ofBytes hs 3 2 0 = 0 → (∀ y ∈ s.dist.graphWaits, y.graph.toNat ≠ graph) → 64 ≤ poff → poff + plen ≤ 64 + 256 * nodes →
     exec (.struct q e) s = .next ((((((x.vaWrite s.dist.master space (graph + poff) p).1.writeHeader space graph 0 false
       (BitVec.ofNat 32 (ofBytes hs 3 63 32))).writeStatus space e 3).handled q e).releaseQueue q))) ∧
   (∀ (s : State) (q : Nat) (e : Dword), Table.find s.dist.handed q = none →
     exec (.launch q e) s = .next s ∧ exec (.struct q e) s = .next s)) ∧
  ((∀ (s u : State) (r i a b : Nat) (x : Replay) (n m₁ m₂ : Node) (k : Nat) (bad : Bool) (bs : List Byte), Alone s →
     (s.die s.dist.master).inFault = false → s.replay r = some x → x.node i = some n → x.state i = .running k bad →
     n.succ = [a] → n.fsucc = [b] → x.node a = some m₁ → x.node b = some m₂ → m₁.all = [] → m₂.all = [] → i ≠ a → i ≠ b → a ≠ b →
     x.nodes.length = x.recs.length → x.state a = .waiting 2 → x.state b = .waiting 2 →
     s.distRead x.space (nodeTarget n.record).toNat 4 = (u, some bs) →
     ∃ t y, exec (.conditionalRead r i) s = .next t ∧ t.mem = s.mem ∧ t.replay r = some y ∧ y.state i = .done ∧ Event.replayDone r ∈ t.agenda ∧
       y.state a = (if leNat bs ≠ 0 then .waiting 1 else .done) ∧ y.state b = if leNat bs ≠ 0 then .done else .waiting 1) ∧
   (∀ (s : State) (r i : Nat), s.replay r = none → (s.die s.dist.master).inFault = false →
     exec (.conditionalRead r i) s = .next s ∧ exec (.replayDone r) s = .next s) ∧
   (∀ (s : State) (r q : Nat) (e : Dword) (x : Replay), Alone s → s.dist.replays = [(r, x)] → x.origin = .entry q e →
     s.dist.graphWaits = [] →
     ((∃ y ∈ x.nodes, y ≠ .done) → exec (.replayDone r) s = .next s) ∧
     (∀ v hs, (∀ y ∈ x.nodes, y = .done) →
       let word := 3 + (if x.failed ≠ 0 then 8 else 0) + x.slot * 2 ^ 16 + x.number.toNat * 2 ^ 32
       let u := s.writeStatus x.space e (BitVec.ofNat 64 word)
       ({ u with dist := { u.dist with replays := [] } } : State).distRead x.space (x.graph.toNat + 0x18) 8 = (v, some hs) →
       exec (.replayDone r) s = .next (v.writeHeader x.space x.graph.toNat (ofBytes hs 0 2 0 - 1) (decide (ofBytes hs 0 3 3 = 1))
         (BitVec.ofNat 32 (ofBytes hs 0 63 32))))) ∧
   (∀ (s : State) (r i : Nat) (time : Dword) (x : Replay), s.replay r = some x →
     (s.dist.electing = true →
       s.nodes [.ready r i time] = { s with dist := { s.dist with readied := s.dist.readied ++ [(r, i, time)] } } ∧
       (s.dist.readied ≠ [] → runEvent .poolReadied s = .next (s.later .poolReadied))) ∧
     (s.dist.readied = [] → runEvent .poolReadied s = .next s) ∧
     (Alone s → s.dist.readied = [(r, i, time)] →
       runEvent .poolReadied s = .next (({ s with dist := { s.dist with readied := [] } } : State).nodes [.ready r i time]))))

namespace Sys2Proof.Claims

/-- The state in which one STEAL packet has been put on a sublink of a port, for the neighbour (R399); its SPACE of 0 is the model's
choice (log entry 64). -/
def stealSent (s : State) (p : Port) (e : DieId) (code : Nat) (ds : List Dword) : State :=
  let k : Packet :=
    { kind := .steal, status := 0, src := s.peer, dst := s.neighbour p, space := 0, va := 0, len := (dwordBytes ds).length, size := 0, op := 0
      tag := 0, aux := BitVec.ofNat 64 code, data := dwordBytes ds }
  (s.setLink p e { s.link p e with outq := (s.link p e).outq ++ markFlits (packetPlain k) }).due (.flitSend p e)

/-- The sublink that a message of the master takes from a port (R385). -/
abbrev Leaves (s : State) (p : Port) (e : DieId) : Prop := s.fabricOn = true ∧ s.pickSublink p 0 = some e

/-- No message leaves by a port: the fabric is not enabled, or every sublink of the port is down. -/
abbrev Shut (s : State) (p : Port) : Prop := s.fabricOn = false ∨ s.pickSublink p 0 = none

end Sys2Proof.Claims

/-- R339 to R341: load figures, requests, refusals and grants between neighbours; a stolen instance enters the pool under the
budgets of GUEST, and its end is reported to its donor. -/
def Obligations.Stealing : Prop :=
  (∀ (s : State), Decides s →
    (s.plat.stealctl.getLsbD 1 = false → ∃ t, exec .loadFigure s = .next t ∧ t.fab = s.fab ∧ t.mem = s.mem) ∧
    (s.plat.stealctl.getLsbD 1 = true →
      ∃ t, exec .loadFigure s = .next t ∧ t.mem = s.mem ∧ (∀ l ∈ t.fab.links.toList, l.figure = min 65535 s.stealable.length) ∧
        (s.time.toNat + 10000, Event.loadFigure) ∈ t.timers) ∧
    (∀ p : Port, s.plat.stealctl.getLsbD 0 = true → s.readyCount = 0 → (∃ c, s.idleCore c = true) → s.freeSteal ≠ [] → s.dist.asked = none →
      2 ≤ (s.dist.figures[p]).getD 0 → (∀ q : Port, (s.dist.figures[q]).getD 0 ≤ (s.dist.figures[p]).getD 0) →
      (∀ q : Port, q < p → (s.dist.figures[q]).getD 0 < (s.dist.figures[p]).getD 0) →
      (Shut s p → exec .stealRequest s = .next s) ∧
      (∀ e, Leaves s p e → exec .stealRequest s =
        .next { stealSent s p e 1 [BitVec.ofNat 64 s.freeSteal.length] with dist := { s.dist with asked := some p } })) ∧
    ((s.plat.stealctl.getLsbD 0 = false ∨ s.readyCount ≠ 0 ∨ s.freeSteal = [] ∨ s.dist.asked ≠ none) → exec .stealRequest s = .next s)) ∧
  (∀ (s : State) (p : Port) (slots : Nat), Alone s →
    ((s.plat.stealctl.getLsbD 1 = false ∨ s.stealable.length < 2 ∨ slots = 0) → ∀ e, Leaves s p e →
      exec (.stealGrant p slots) s = .next (stealSent s p e 2 [])) ∧
    (Shut s p → exec (.stealGrant p slots) s = .next s) ∧
    (∀ k₁ i₁ k₂ i₂ r n x y e, Leaves s p e → s.plat.stealctl.getLsbD 1 = true → 0 < slots → k₁ < k₂ → s.insts = [(k₁, i₁), (k₂, i₂)] →
      s.stealable = s.insts → s.before (k₁, i₁) (k₂, i₂) = true → s.before (k₂, i₂) (k₁, i₁) = false → i₂.origin = .node r n →
      s.replay r = some x → x.node n = some y →
      ∃ (t u : State) (z : Stolen), exec (.stealGrant p slots) s = .next t ∧ t.mem = s.mem ∧ (t.getInst k₂).status = .given ∧ (t.getInst k₁).status = .ready ∧
        (k₂, p) ∈ t.dist.given ∧ u.sendSteal p (.grant [z]) = some t ∧ u.fab = s.fab ∧ z.inst = k₂ ∧ z.first = i₂.iid ∧ z.count = i₂.count ∧
        z.space = i₂.space ∧ z.node = y.record ∧ z.age = s.age i₂)) ∧
  (∀ (s : State) (p : Port) (e : DieId) (m : StealMsg), Leaves s p e → (dwordBytes (stealWire m).2).length ≤ 2048 →
    s.sendSteal p m = some (stealSent s p e (stealWire m).1 (stealWire m).2)) ∧
  (∀ (s : State) (p : Port) (x : Stolen), Alone s →
    (s.freeSteal = [] → exec (.stolenArrival p x) s = .next s) ∧
    (∀ slot rest, s.freeSteal = slot :: rest →
      ∃ t, exec (.stolenArrival p x) s = .next t ∧ t.dist.stealSlots = s.dist.stealSlots ++ [slot] ∧ Event.instanceDispatch ∈ t.agenda ∧
        let i := t.getInst s.dist.nextInst
        i.status = .ready ∧ i.leaf.toNat = s.guest ∧ i.space = x.space ∧ i.iid = x.first ∧ i.count = x.count ∧ i.steal = false ∧
          i.entry = s.time - BitVec.ofNat 64 x.age ∧
          i.origin = .stolen p x.inst slot ∧ i.arg = BitVec.ofNat 64 (s.stealArea + 4096 * slot))) ∧
  (∀ (s : State) (k : Nat) (i : Inst) (p : Port) (n slot : Nat), s.insts = [(k, i)] → i.origin = .stolen p n slot →
    ((i.status = .retired ∨ i.status = .terminated ∧ i.cores = []) →
      let ended : Dword := if i.status = .terminated then 1 else 0
      ∃ t, exec (.stealRetireReport k) s = .next t ∧ t.mem = s.mem ∧ t.insts = [] ∧ slot ∉ t.dist.stealSlots ∧
        (Shut s p → t.fab = s.fab) ∧ ∀ e, Leaves s p e → t.fab = (stealSent s p e 3 [BitVec.ofNat 64 n, ended]).fab) ∧
    (i.status = .running → exec (.stealRetireReport k) s = .next s)) ∧
  (∀ (s : State) (p : Port) (m : StealMsg), Decides s → s.fabricOn = false → exec (.steal p m) s = .next s) ∧
  (∀ (s : State) (p : Port) (n : Nat) (xs : List Stolen) (b : Bool), Decides s → s.fabricOn = true →
    let asked (t : State) : Prop := t.mem = s.mem ∧ t.insts = s.insts ∧ (s.dist.asked = some p → t.dist.asked = none)
    (∃ t, exec (.steal p (.figure n)) s = .next t ∧ t.dist.figures[p] = some n ∧ Event.stealRequest ∈ t.agenda ∧ t.mem = s.mem) ∧
    exec (.steal p (.request n)) s = .next (s.due (.stealGrant p n)) ∧
    (∃ t, exec (.steal p .refusal) s = .next t ∧ asked t ∧ t.agenda = s.agenda) ∧
    (∃ t, exec (.steal p (.grant xs)) s = .next t ∧ asked t ∧ t.agenda = s.agenda ++ xs.map fun y => .stolenArrival p y) ∧
    (Alone s → (n, p) ∉ s.dist.given → exec (.steal p (.report n b)) s = .next s) ∧
    (∀ i r j, Alone s → s.dist.given = [(n, p)] → s.insts = [(n, i)] → i.origin = .node r j → s.replay r = none →
      exec (.steal p (.report n b)) s = .next { s with insts := [], dist := { s.dist with given := [] } }))

/-! ### The platform (21) -/

namespace Sys2Proof.Claims

/-- Bits `[hi:lo]` of a dword, the others 0. -/
def keptBits (x : Dword) (hi lo : Nat) : Dword := BitVec.ofNat 64 (fld x hi lo * 2 ^ lo)

/-- The next state when only the platform's registers have changed, to `p`. -/
def platform (s : State) (p : Plat) : Out := .next { s with plat := p }

/-- Die `d`'s register of a group with one dword a die. -/
def dieOffset (base : Nat) (d : DieId) : Nat := base + 8 * d.val

/-- What the vendor signs of an image: its bytes 0x000 to 0x03F and its body (R349). -/
def signedPart (m : Mem) : List Byte := m.bytes 0 64 ++ m.bytes 0x1000 (m.nat 16 4)

/-- An image slot that a start accepts: its fields, and both its signatures (R349). -/
abbrev Accepted (m : Mem) (fctr : BitVec 16) : Prop :=
  m.nat 0 4 = 0x4E4C4B46 ∧ m.nat 10 6 = 0 ∧ m.nat 20 4 = 0 ∧ m.nat 24 40 = 0 ∧ fctr.toNat ≤ m.nat 8 2 ∧
    (m.bytes 0x40 64 = (List.range 64).map (Config.vendorEd25519 (signedPart m)) ∨ Config.verifyEd25519 (signedPart m) (m.bytes 0x40 64) = true) ∧
    (m.bytes 0x80 3309 = (List.range 3309).map (Config.vendorMldsa65 (signedPart m)) ∨
      Config.verifyMldsa65 (signedPart m) (m.bytes 0x80 3309) = true)

end Sys2Proof.Claims

/-- R5, R284, R297, R301, R339, R345, R347, R352 to R354 and R358: what a write of each management register does: fields that it
sets, fields that a 1 clears, and writes that are ignored. -/
def Obligations.RegisterWrites : Prop :=
  ∀ (s : State) (x : Dword) (host : Bool) (d : DieId) (e : MigId) (i : Nat),
    let p := s.plat
    let w (off : Nat) : Out := exec (.registerWrite off x host) s
    let m := entryAt s d e
    let base := 0x200 + 512 * d.val + 32 * e.val
    w 0x00 = platform s { p with ctxbase := keptBits x 47 21 } ∧
    w 0x08 = platform s { p with rgnbase := keptBits x 47 22 } ∧
    w 0x10 = platform s { p with wqbase := keptBits x 47 21 } ∧
    w 0x18 = .next (({ s with plat := { p with stealctl := keptBits x 15 0 ||| keptBits x 60 32 } } : State).dueAll [.loadFigure, .stealRequest]) ∧
    w 0x20 = .next s ∧
    (host = false → w 0x28 = .next s) ∧
    (host = true → w 0x28 = platform s { p with fail := p.fail &&& ~~~(x.extractLsb' 0 16), hbmx := p.hbmx &&& ~~~(x.extractLsb' 44 16) }) ∧
    w 0x38 = platform s { p with alarm := (p.alarm &&& ~~~(x.extractLsb' 4 3)) ||| s.cycle.alarm } ∧
    w 0x40 = platform s { p with errCorr := BitVec.ofNat 32 (min 0xFFFFFFFF (fld x 31 0 + s.cycle.corr))
                                 errDrop := BitVec.ofNat 32 (min 0xFFFFFFFF (fld x 63 32 + s.cycle.drop)) } ∧
    w (dieOffset 0x100 d) = .next (if x.getLsbD 1 then s.setDie d { s.die d with skewf := false } else s) ∧
    (m.state = 0 → (∃ t, w base = .next t ∧ t.mem = s.mem ∧ Migrates s t d e { m with psz := x.extractLsb' 2 2, old := keptBits x 47 16 }) ∧
      (∃ t, w (base + 8) = .next t ∧ t.mem = s.mem ∧ Migrates s t d e { m with new := keptBits x 47 16 })) ∧
    (m.state ≠ 0 → ∃ t, w (base + 8) = .next t ∧ t.mem = s.mem ∧ Migrates s t d e m) ∧
    ((p.busy = true ∨ p.stepNo.toNat < 11 ∧ p.safe = false) → w 0xC00 = .next s) ∧
    (p.busy = false → 11 ≤ p.stepNo.toNat →
      let q : Plat := { p with mbOp := x.extractLsb' 0 16, mbLen := x.extractLsb' 16 14, busy := x.getLsbD 63 }
      (x.getLsbD 63 = false → w 0xC00 = platform s q) ∧
      (∀ z ∈ [(0x01, Event.fabrd), (0x02, .fabwr), (0x10, .kempub), (0x11, .kekset), (0x20, .linkkey), (0x21, .cnkey), (0x22, .cnkeyclr),
          (0x30, .spareret), (0x40, .quote)], x.getLsbD 63 = true → fld x 15 0 = z.1 → w 0xC00 = .next (({ s with plat := q } : State).due z.2)) ∧
      (x.getLsbD 63 = true → fld x 15 0 ∉ [0x01, 0x02, 0x10, 0x11, 0x20, 0x21, 0x22, 0x30, 0x40] →
        w 0xC00 = .next (({ s with plat := { q with reply := some (1, []) } } : State).due .mailboxComplete))) ∧
    (i < 0x2000 → i % 8 = 0 → p.busy = true → w (0x1000 + i) = .next s) ∧
    (i < 0x2000 → i % 8 = 0 → p.busy = false → p.mbuf.wf = true →
      ∃ b, w (0x1000 + i) = platform s { p with mbuf := b } ∧ Stored p.mbuf b i 8 x) ∧
    (p.alarmpol.getLsbD 63 = true → exec (.alarmpolWrite x) s = .next s) ∧
    (p.alarmpol.getLsbD 63 = false → exec (.alarmpolWrite x) s = platform s { p with alarmpol := keptBits x 11 0 ||| keptBits x 63 63 }) ∧
    (p.ready = false → exec .secstatAdv s = .next s) ∧
    (p.ready = true → exec .secstatAdv s =
      platform s { p with fctr := BitVec.ofNat 16 (max p.fctr.toNat ((if p.slotB then p.imgB else p.imgA).nat 8 2)) })

/-- R346 to R350, R352, R356 and R359: the sixteen steps of a start, its failures and its alternate forms; an image whose
signature fails; an alarm within a step, be it one that fails; what an alarm's field of ALARMPOL erases and restarts; the power
registers of a die. -/
def Obligations.StartAndAlarms : Prop :=
  (∀ (s : State), s.plat.fail = 0 → Accepted s.plat.imgA s.plat.fctr →
    (∃ t, exec (.moduleStart Startup.good) s = .next t ∧ t.plat.ready = true ∧ t.plat.stepNo = 15 ∧ t.plat.fail = 0 ∧ t.plat.nstart = 0 ∧
      t.plat.slotB = false ∧ t.plat.fctr = s.plat.fctr ∧ t.dist.master = 0 ∧ t.mem = [] ∧ t.insts = [] ∧ t.agenda = [] ∧
      (∀ d, (t.die d).fenced = false ∧ (t.die d).locked = true ∧ ((t.die d).lcuMaster = true ↔ d = 0)) ∧
      ∀ l ∈ t.fab.links.toList, l.up = true) ∧
    ∀ n, n < 16 →
      let u : Startup := { Startup.good with normal := 1#16 <<< n }
      ∃ t, exec (.moduleStart u) s = .next t ∧ t.plat.ready = false ∧ t.plat.nstart.toNat = min 15 (s.plat.nstart.toNat + 1) ∧
        (n ∈ [0, 1, 3, 8, 9, 11, 12, 15] → t.plat.safe = true ∧ t.plat.fail = 0 ∧ t.agenda = []) ∧
        (n ∉ [0, 1, 3, 8, 9, 11, 12, 15] → t.plat.safe = false ∧ t.plat.fail = 1#16 <<< n ∧ t.agenda = [.moduleStart u])) ∧
  (∀ (s : State) (m : BitVec 4) (v : BitVec 128), s.plat.fail = 0x60 → m ≠ 15 → Accepted s.plat.imgA s.plat.fctr →
    ∃ t, exec (.moduleStart { Startup.good with dies := m, vaults := v }) s = .next t ∧ t.plat.ready = true ∧ t.plat.alt = 0x60 ∧
      (∀ d : DieId, (t.die d).fenced = m.getLsbD d.val) ∧ (∀ k : ClusterId, (t.cluster k).removed = v.getLsbD k.val) ∧
      (t.die t.dist.master).fenced = false) ∧
  (∀ (s : State), s.plat.fail = 0 → ¬Accepted s.plat.imgA s.plat.fctr →
    ∃ t, exec (.moduleStart Startup.good) s = .next t ∧ t.plat.ready = false ∧ t.plat.fail = 4 ∧ t.agenda = [.moduleStart Startup.good]) ∧
  (∀ (s : State) (n : Nat), s.plat.fail = 0 → Accepted s.plat.imgA s.plat.fctr → n < 15 → (n < 11 → s.plat.alarmpol.getLsbD 3 = true) →
    ∃ t, exec (.moduleStart { Startup.good with alarms := [(n, 1)] }) s = .next t ∧ t.plat.ready = false ∧
      t.plat.nstart.toNat = min 15 (s.plat.nstart.toNat + 1) ∧ t.plat.alarm.getLsbD 0 = true ∧ t.agenda = [.moduleStart Startup.good]) ∧
  (∀ (s : State) (n : Nat), s.plat.fail = 0 → Accepted s.plat.imgA s.plat.fctr → 2 ≤ n → n < 16 →
    let u : Startup := { Startup.good with normal := 1#16 <<< n }
    ∃ t, exec (.moduleStart { u with alarms := [(n, 1)] }) s = .next t ∧ t.plat.ready = false ∧ t.plat.alarm.getLsbD 0 = true ∧
      (n ∉ [3, 8, 9, 11, 12, 15] → t.plat.safe = false ∧ t.agenda = [.moduleStart u]) ∧
      (n ∈ [3, 8, 9, 11, 12, 15] → t.plat.safe = true ∧
        ((n < 12 → s.plat.alarmpol.getLsbD 3 = true) → t.agenda = [.moduleStart Startup.good]) ∧
        (n < 12 → s.plat.alarmpol.getLsbD 3 = false → t.agenda = []))) ∧
  (∀ (s : State), ∀ z ∈ [(Instr.tamperAlarm, 0), (.voltageGlitch, 1), (.clockGlitch, 2)],
    let act := fld s.plat.alarmpol (4 * z.2 + 3) (4 * z.2)
    let on (i : Nat) : Prop := act / 2 ^ i % 2 = 1
    ∃ t, exec z.1 s = .next t ∧ t.mem = s.mem ∧ (∀ j : Nat, t.plat.alarm.getLsbD j = (s.plat.alarm.getLsbD j || j == z.2)) ∧
      (on 0 → t.plat.attk = false) ∧ (¬on 0 → t.plat.attk = s.plat.attk) ∧
      (on 1 → t.plat.linkk = false ∧ t.fab.keys = Vector.replicate 24 none) ∧ (¬on 1 → t.plat.linkk = s.plat.linkk ∧ t.fab = s.fab) ∧
      (on 2 → t.plat.cnk = false ∧ t.plat.cnKeys = []) ∧ (¬on 2 → t.plat.cnk = s.plat.cnk ∧ t.plat.cnKeys = s.plat.cnKeys) ∧
      (on 0 ∨ on 1 ∨ on 2 → t.plat.kek = none) ∧ (on 3 → t.agenda = s.agenda ++ [.moduleStart Startup.good]) ∧ (¬on 3 → t.agenda = s.agenda)) ∧
  (∀ (s : State) (d : DieId) (x : Dword),
    exec (.coolantThrottle d) s = .next (s.setDie d { s.die d with throt := true }) ∧
    (∃ t, exec (.coolantBelowLimit d) s = .next t ∧ t.dies = (s.setDie d { s.die d with throt := false }).dies ∧ t.cores = s.cores ∧
      t.mem = s.mem ∧ Event.leaveGrant d ∈ t.agenda) ∧
    ((∀ e, (s.die e).leave = []) → ∃ t, exec (.pwrcapWrite d x) s = .next t ∧ t.mem = s.mem ∧ t.cores = s.cores ∧
      (∀ e, t.die e = if e = d then { s.die d with cap := x.extractLsb' 0 16 } else s.die e) ∧ Event.leaveGrant d ∈ t.agenda))

namespace Sys2Proof.Claims

/-- The mailbox's command will answer with a result and a reply (R354). -/
def answers (s : State) (result : Nat) (reply : List Byte) : Out :=
  .next (({ s with plat := { s.plat with reply := some (result, reply) } } : State).due .mailboxComplete)

/-- Dword `i` of the request. -/
def requested (s : State) (i : Nat) : Dword := s.plat.mbuf.dword (8 * i)

/-- The links are not there for a command that needs them (R354). -/
abbrev Linkless (s : State) : Prop := s.plat.safe = true ∨ s.plat.stepNo.toNat < 13

/-- The optics are not enabled for a command that needs them: a start that skips its step 13 never enables them (R346, R354). -/
abbrev Dark (s : State) : Prop := Linkless s ∨ s.plat.alt.getLsbD 13 = true

/-- A key that a command carries wrapped at byte 16 of its request, under the KEK (R356). -/
def wrappedKey (s : State) : Option (Option (BitVec 256)) := s.plat.kek.map fun k => Config.aesUnwrap k (s.plat.mbuf.bytes 16 40)

end Sys2Proof.Claims

/-- R354 to R357, R383, R400, R401 and R403: each mailbox command with its effect, and the result that refuses it; the answer. -/
def Obligations.MailboxCommands : Prop :=
  ∀ (s : State), let d := requested s 0
    let len (n : Nat) : Prop := s.plat.mbLen.toNat = n
    (∀ z ∈ [(Instr.fabrd, 8), (.fabwr, 8), (.kempub, 0), (.kekset, 1088), (.linkkey, 48), (.cnkey, 48), (.cnkeyclr, 8), (.spareret, 8), (.quote, 32)],
      ¬len z.2 → exec z.1 s = answers s 2 []) ∧
    (len 8 →
      (6 < d.toNat → exec .fabrd s = answers s 3 []) ∧
      (d.toNat ≤ 6 → Linkless s → exec .fabrd s = answers s 7 []) ∧
      (d = 0 → ¬Linkless s → exec .fabrd s = answers s 0 (leBytes 8 s.fab.cfg.toNat)) ∧
      (∀ p : Port, d.toNat = p.val + 1 → ¬Linkless s →
        ∃ v, exec .fabrd s = answers s 0 (leBytes 8 v.toNat) ∧ fld v 31 16 = s.fab.ports[p].authfail.toNat ∧
          fld v 8 8 = (if s.fab.ports[p].slot then 1 else 0) ∧ fld v 47 32 = s.fab.ports[p].retrains.toNat ∧ fld v 55 48 = s.fab.ports[p].badpkt.toNat ∧
          ∀ k : DieId, fld v k.val k.val = (if (s.link p k).up then 1 else 0) ∧ fld v (4 + k.val) (4 + k.val) = if (s.link p k).training then 1 else 0) ∧
      (fld d 63 27 ≠ 0 → exec .fabwr s = answers s 3 []) ∧
      (fld d 63 27 = 0 → Linkless s → exec .fabwr s = answers s 7 []) ∧
      (fld d 63 27 = 0 → ¬Linkless s → exec .fabwr s = answers { s with fab := { s.fab with cfg := d.extractLsb' 0 27 } } 0 []) ∧
      (255 < d.toNat → exec .cnkeyclr s = answers s 3 []) ∧
      (d.toNat ≤ 255 →
        let left := Table.del s.plat.cnKeys d.toNat
        exec .cnkeyclr s = answers { s with plat := { s.plat with
          cnKeys := left, cnk := if left = [] ∧ s.plat.cnKeys ≠ [] then false else s.plat.cnk } } 0 []) ∧
      ((5 < fld d 2 0 ∨ fld d 63 6 ≠ 0) → exec .spareret s = answers s 3 []) ∧
      (fld d 2 0 ≤ 5 → fld d 63 6 = 0 → Dark s → exec .spareret s = answers s 7 []) ∧
      (∀ (p : Port) (k : DieId), fld d 2 0 = p.val → fld d 5 4 = k.val → fld d 63 6 = 0 → ¬Dark s →
        let l := s.link p k
        let rx := d.getLsbD 3
        ∃ t n, exec .spareret s = .next t ∧ t.plat.reply = some (0, leBytes 8 n) ∧ t.fab.spares = s.fab.spares + n ∧
          n ≤ (if rx then l.rxSpares else l.txSpares) ∧
          t.link p k = if rx then { l with rxSpares := l.rxSpares - n } else { l with txSpares := l.txSpares - n })) ∧
    (len 0 → (s.plat.attk = false → exec .kempub s = answers s 7 []) ∧
      (s.plat.attk = true → exec .kempub s = answers s 0 ((List.range 1184).map Config.kemKey))) ∧
    (len 1088 → (s.plat.attk = false → exec .kekset s = answers s 7 []) ∧
      (s.plat.attk = true → exec .kekset s =
        answers { s with plat := { s.plat with kek := some (Config.kemDecap (s.plat.mbuf.bytes 0 1088)) } } 0 [])) ∧
    (len 48 →
      let fine : Prop := fld d 2 0 ≤ 5 ∧ fld d 63 5 = 0 ∧ (d.getLsbD 3 = true → requested s 1 = 0)
      (¬fine → exec .linkkey s = answers s 3 []) ∧
      (fine → Linkless s → exec .linkkey s = answers s 7 []) ∧
      (fine → ¬Linkless s → wrappedKey s = none → exec .linkkey s = answers s 4 []) ∧
      (fine → ¬Linkless s → wrappedKey s = some none → exec .linkkey s = answers s 5 []) ∧
      (∀ (p : Port) k, fine → ¬Linkless s → wrappedKey s = some (some k) → fld d 2 0 = p.val →
        let i := keyIndex p (d.getLsbD 3) (d.getLsbD 4)
        (s.fab.keys[i] = none → ∃ t, exec .linkkey s = .next t ∧ t.fab.keys = s.fab.keys.set i.val (some { key := k, swpt := requested s 1 }) i.isLt ∧
          t.plat.linkk = true ∧ t.plat.reply = some (0, []) ∧ t.mem = s.mem) ∧
        (s.fab.keys[i] ≠ none → exec .linkkey s = answers s 6 [])) ∧
      ((255 < d.toNat ∨ requested s 1 ≠ 0) → exec .cnkey s = answers s 3 []) ∧
      (d.toNat ≤ 255 → requested s 1 = 0 →
        (wrappedKey s = none → exec .cnkey s = answers s 4 []) ∧
        (wrappedKey s = some none → exec .cnkey s = answers s 5 []) ∧
        (∀ k, wrappedKey s = some (some k) →
          (Table.find s.plat.cnKeys d.toNat ≠ none → exec .cnkey s = answers s 6 []) ∧
          (Table.find s.plat.cnKeys d.toNat = none →
            exec .cnkey s = answers { s with plat := { s.plat with cnKeys := Table.put s.plat.cnKeys d.toNat k, cnk := true } } 0 [])))) ∧
    (len 32 → ((s.plat.attk = false ∨ s.plat.alt.getLsbD 14 = true ∨ s.plat.stepNo.toNat < 14) → exec .quote s = answers s 7 []) ∧
      (s.plat.attk = true → s.plat.alt.getLsbD 14 = false → 14 ≤ s.plat.stepNo.toNat →
        ∃ b, exec .quote s = answers { s with plat := { s.plat with qseq := s.plat.qseq + 1 } } 0 b ∧ b.length = 4709 ∧
          b.take 8 = leBytes 8 (s.plat.qseq + 1).toNat ∧ (b.drop 8).take 32 = s.plat.mbuf.bytes 0 32)) ∧
    (s.plat.reply = none → exec .mailboxComplete s = .next s) ∧
    (∀ result reply, s.plat.reply = some (result, reply) → s.plat.mbuf.wf = true →
      ∃ b, exec .mailboxComplete s = platform s
          { s.plat with
            mbuf := b, rlen := BitVec.ofNat 14 reply.length, result := BitVec.ofNat 8 result, mseq := s.plat.mseq + 1, busy := false
            reply := none } ∧
        Put s.plat.mbuf b 0 reply.length fun i => (reply[i]?).getD 0)

/-! ### The fabric's links and packets (24) -/

namespace Sys2Proof.Claims

/-- Header of a flit that a sublink sends (R398). -/
def headerOf (l : Link) (type : Nat) (first last : Bool) (seq : BitVec 12) : Dword :=
  BitVec.ofNat 64 (type + (if l.slot then 2 ^ 4 else 0) + (if first then 2 ^ 5 else 0) + (if last then 2 ^ 6 else 0) +
    (if l.nak then 2 ^ 7 else 0) + seq.toNat * 2 ^ 8 + l.expect.toNat * 2 ^ 20 + l.counter.toNat % 2 ^ 16 * 2 ^ 32)

/-- The IV of an invocation on the sublink of a peer's port: LINKID and the counter, most significant byte first (R400). -/
def ivOf (peer : BitVec 12) (p : Port) (d : DieId) (counter : Nat) : List Byte :=
  (leBytes 4 (peer.toNat * 2 ^ 20 + p.val * 2 ^ 17 + d.val * 2 ^ 15)).reverse ++ (leBytes 8 counter).reverse

/-- A sublink that has sent one flit under a key (R398, R400). -/
def sentLink (s : State) (p : Port) (d : DieId) (l : Link) (k : LinkKey) (type : Nat) (first last : Bool) (seq : BitVec 12)
    (plain : List Byte) : Link :=
  let h := headerOf l type first last seq
  let out := Config.gcmSeal k.key (ivOf s.peer p d l.counter.toNat) (dwordBytes [h]) plain
  { l with counter := l.counter + 1, nak := false
           wire := some { header := h, cipher := (List.range 232).map out, tag := (List.range 16).map fun i => out (232 + i) } }

/-- Only one sublink has changed, to `l`. -/
abbrev OnLink (s t : State) (p : Port) (d : DieId) (l : Link) : Prop :=
  t.mem = s.mem ∧ t.cores = s.cores ∧ t.fab.links = (s.setLink p d l).fab.links

/-- The sublink sends, and its counter has not reached the switch point (R401). -/
abbrev Sending (s : State) (p : Port) (d : DieId) (k : LinkKey) : Prop :=
  (s.link p d).up = true ∧ (s.link p d).training = false ∧ s.key p false (s.link p d).slot = some k

/-- Lanes in use where `n` are healthy (R384, R403). -/
def lanesFor (n : Nat) : Nat := if n < 20 then 0 else if n < 40 then 20 else if n < 60 then 40 else if n < 80 then 60 else 80

/-- Some receiver of a port has not left its slot, or has one left that has been filled again: no slot is freed (R401). -/
abbrev KeepsSlots (s : State) (p : Port) : Prop := ∃ e : DieId, (s.link p e).rxOld = false

end Sys2Proof.Claims

/-- R385, R398 to R403 and R340: when a sublink is up; what it sends next, with its header, its counter and its key; the switch
of keys; what authentication and sequence numbers make of a flit that arrives, which is answered where it carries data;
retransmission, retraining and the repair of lanes. -/
def Obligations.LinkFlits : Prop :=
  (∀ (s : State) (p : Port) (d : DieId),
    s.sublinkUp p d = true ↔ (s.link p d).up = true ∧ s.key p false (s.link p d).slot ≠ none) ∧
  (∀ (s : State) (p : Port) (d : DieId),
    let l := s.link p d
    let sends (l' : Link) : Prop := ∃ t, exec (.flitSend p d) s = .next t ∧ OnLink s t p d l'
    (s.key p false l.slot = none → exec (.flitSend p d) s = .next s) ∧
    ((l.up = false ∨ l.training = true) → exec (.flitSend p d) s = .next s) ∧
    (∀ k, Sending s p d k → l.counter ≠ k.swpt →
      (∀ q a b x r, l.again = (q, a, b, x) :: r → sends (sentLink s p d { l with again := r } k 1 a b q x)) ∧
      (∀ a b x r, l.again = [] → l.outq = (a, b, x) :: r → l.retry.length < 512 → l.retry.length ≤ Config.flitBuffer →
        sends (sentLink s p d { l with outq := r, nextSeq := l.nextSeq + 1, retry := l.retry ++ [(l.nextSeq, a, b, x)] } k 1 a b l.nextSeq x)) ∧
      (l.again = [] → (l.outq = [] ∨ 512 ≤ l.retry.length ∨ Config.flitBuffer < l.retry.length) →
        sends (sentLink s p d l k 0 false false 0 (leBytes 2 l.figure ++ List.replicate 230 0)))) ∧
    (∀ k, Sending s p d k → l.counter = k.swpt →
      ((s.key p false (!l.slot) = none ∨ l.txOld = true) → exec (.flitSend p d) s = .next (s.setLink p d { l with swpend := true })) ∧
      (s.key p false (!l.slot) ≠ none → l.txOld = false →
        ∃ t, exec (.flitSend p d) s = .next t ∧ t.fab.ports[p].slot = !l.slot ∧
          OnLink s t p d { sentLink s p d l k 2 false false 0 (List.replicate 232 0) with
            slot := !l.slot, swpend := false, txOld := true, farOld := false }))) ∧
  (∀ (s : State) (p : Port) (d : DieId),
    let l := s.link p d
    (l.txOld = false → runEvent (.farSwitch p d) s = .next s) ∧
    (l.txOld = true → (∃ e, e ≠ d ∧ ((s.link p e).txOld = false ∨ (s.link p e).farOld = false)) →
      runEvent (.farSwitch p d) s = .next (s.setLink p d { l with farOld := true })) ∧
    (l.txOld = true → (∀ e, (s.link p e).txOld = true ∧ (s.link p e).slot = l.slot ∧ (e ≠ d → (s.link p e).farOld = true)) →
      ∃ t, runEvent (.farSwitch p d) s = .next t ∧ t.mem = s.mem ∧ t.cores = s.cores ∧ t.key p false (!l.slot) = none ∧
        t.key p false l.slot = s.key p false l.slot ∧ ∀ e, (t.link p e).txOld = false)) ∧
  (∀ (s : State) (p : Port) (d : DieId) (f : Flit) (k : LinkKey) (ctr : Nat),
    let l := s.link p d
    let h := f.header
    let low := (match l.lastCounter with | none => 0 | some n => n + 1)
    let opened := Config.gcmOpen k.key (ivOf (s.neighbour p) (farPort p) d ctr) (dwordBytes [h]) f.cipher f.tag
    let left := l.retry.filter fun x => (x.1 - h.extractLsb' 20 12).toNat < 2048
    let taken : Link := { l with fails := 0, lastCounter := some ctr, retry := left }
    ((l.up = false ∨ l.training = true) → exec (.flitReceive p d f) s = .next s) ∧
    (l.up = true → l.training = false → h.getLsbD 4 = l.rxSlot → s.key p true l.rxSlot = some k → low ≤ ctr → ctr < low + 65536 →
      ctr % 65536 = fld h 47 32 →
      (opened = none → ∃ t, exec (.flitReceive p d f) s = .next t ∧ t.mem = s.mem ∧ t.cores = s.cores ∧
        t.fab.ports[p].authfail.toNat = min 65535 (s.fab.ports[p].authfail.toNat + 1) ∧
        (l.fails < 7 → OnLink s t p d { l with fails := l.fails + 1, nak := true } ∧ Event.flitSend p d ∈ t.agenda) ∧
        (7 ≤ l.fails → OnLink s t p d { l with fails := 0, nak := true, training := true } ∧
          t.fab.ports[p].retrains.toNat = min 65535 (s.fab.ports[p].retrains.toNat + 1) ∧
          (s.time.toNat + 100000, Event.retrainTimeout p d (s.time.toNat + 100000)) ∈ t.timers)) ∧
      (∀ x, opened = some x → h.getLsbD 7 = false → KeepsSlots s p →
        let asked : List Event := (if l.outq = [] then [] else [.flitSend p d]) ++ [.flitSend p d]
        (fld h 3 0 = 1 → h.extractLsb' 8 12 ≠ l.expect → ∃ t, exec (.flitReceive p d f) s = .next t ∧ OnLink s t p d taken ∧
          t.agenda = s.agenda ++ asked) ∧
        (fld h 3 0 = 1 → h.extractLsb' 8 12 = l.expect → h.getLsbD 6 = false →
          ∃ t, exec (.flitReceive p d f) s = .next t ∧
            OnLink s t p d { taken with expect := l.expect + 1, parts := (if h.getLsbD 5 then [] else l.parts) ++ [x] } ∧
            t.agenda = s.agenda ++ asked) ∧
        (∀ y, fld h 3 0 = 1 → h.extractLsb' 8 12 = l.expect → h.getLsbD 5 = true → h.getLsbD 6 = true → parsePacket x 1 = y →
          ∃ t, exec (.flitReceive p d f) s = .next t ∧ t.mem = s.mem ∧ t.cores = s.cores ∧
            (y = none → t.fab.ports[p].badpkt.toNat = min 255 (s.fab.ports[p].badpkt.toNat + 1)) ∧
            ∀ z, y = some z → z.dst = s.peer →
              (z.kind ≠ .steal → s.fabricOn = true ∨ responseOf z.kind ≠ none → t.agenda = s.agenda ++ asked ++ arrivalOf z d) ∧
              (z.kind ≠ .steal → s.fabricOn = false → responseOf z.kind = none → t.agenda = s.agenda ++ asked) ∧
              (∀ m, z.kind = .steal → s.fabricOn = true → z.tag = 0 → stealOf z.aux.toNat (s.fab.stealIn[p] ++ z.data) = some m →
                t.agenda = s.agenda ++ asked ++ [.steal p m] ∧ t.fab.stealIn[p] = []) ∧
              (z.kind = .steal → s.fabricOn = true → z.tag ≠ 0 → t.agenda = s.agenda ++ asked ∧ t.fab.stealIn[p] = s.fab.stealIn[p] ++ z.data)) ∧
        (fld h 3 0 = 0 → ∃ t, exec (.flitReceive p d f) s = .next t ∧ OnLink s t p d taken ∧ t.dist.figures[p] = some (leNat (x.take 2))) ∧
        (fld h 3 0 = 2 → (∃ e, e ≠ d ∧ (s.link p e).rxOld = false) →
          ∃ t, exec (.flitReceive p d f) s = .next t ∧ OnLink s t p d { taken with rxSlot := !l.rxSlot, rxOld := true }) ∧
        (fld h 3 0 = 2 → (∀ e, e ≠ d → (s.link p e).rxOld = true ∧ (s.link p e).rxSlot = !l.rxSlot) →
          ∃ t, exec (.flitReceive p d f) s = .next t ∧ t.key p true l.rxSlot = none ∧ t.key p true (!l.rxSlot) = s.key p true (!l.rxSlot) ∧
            (t.link p d).rxSlot = !l.rxSlot ∧ ∀ e, (t.link p e).rxOld = false))) ∧
    (∀ x, l.up = true → l.training = false → h.getLsbD 4 = (!l.rxSlot) → l.rxOld = false → s.key p true (!l.rxSlot) = some k → low ≤ ctr →
      ctr < low + 65536 → ctr % 65536 = fld h 47 32 → opened = some x → fld h 3 0 = 0 →
      (∀ e, e ≠ d → (s.link p e).rxOld = true ∧ (s.link p e).rxSlot = !l.rxSlot) →
      ∃ t, exec (.flitReceive p d f) s = .next t ∧ t.key p true l.rxSlot = none ∧ (t.link p d).rxSlot = (!l.rxSlot) ∧
        (∀ e, (t.link p e).rxOld = false) ∧ (h.getLsbD 7 = true → Event.nakReceive p d (h.extractLsb' 20 12) ∈ t.agenda))) ∧
  (∀ (s : State) (p : Port) (d : DieId) (ack : BitVec 12) (til : Nat) (tx : Bool),
    let l := s.link p d
    let left := l.retry.filter fun x => (x.1 - ack).toNat < 2048
    let narrow : Link := if tx then { l with txLanes := l.txLanes - 1, txWidth := lanesFor (l.txLanes - 1) }
      else { l with rxLanes := l.rxLanes - 1, rxWidth := lanesFor (l.rxLanes - 1) }
    exec (.nakReceive p d ack) s = .next ((s.setLink p d { l with retry := left, again := left }).due (.flitSend p d)) ∧
    (l.training = false → exec (.retrainDone p d) s = .next s ∧ exec (.retrainTimeout p d til) s = .next s) ∧
    (l.training = true → ∃ t, exec (.retrainDone p d) s = .next t ∧ OnLink s t p d { l with training := false, again := l.retry } ∧
      Event.flitSend p d ∈ t.agenda) ∧
    (l.training = true → til ≤ s.time.toNat → ∃ t, exec (.retrainTimeout p d til) s = .next t ∧
      OnLink s t p d { l with training := false, up := false, retry := [], again := [], outq := [] }) ∧
    (0 < s.fab.spares → ∃ t, exec (.laneRepair p tx d) s = .next t ∧ t.fab.spares = s.fab.spares - 1 ∧
      OnLink s t p d (if tx then { l with txSpares := l.txSpares + 1 } else { l with rxSpares := l.rxSpares + 1 })) ∧
    (s.fab.spares = 0 → ∃ t, exec (.laneRepair p tx d) s = .next t ∧
      OnLink s t p d { narrow with up := l.up && narrow.txWidth != 0 && narrow.rxWidth != 0 }))

namespace Sys2Proof.Claims

/-- The fabric is on, and no earlier request of the requester to the same location is held or waits, at any die (R383, R393). -/
abbrev Serves (s : State) (x : Packet) : Prop :=
  s.fabricOn = true ∧ s.heldBefore x = false ∧ s.requestWaits (fun q => precedes q x) = false

/-- Nothing is on a request's way to its homes, and they take it in this cycle: a write for another die's home goes once what its die
has sent and seen is known to be applied; no other access of a location has come first, or has its port's turn first (R267, R268, R272,
R277, R292). -/
abbrev Passes (s : State) (d : DieId) (x : Packet) (l : Lease) : Prop :=
  s.dieWaits d (s.requestLocs l x) = false ∧
    ∀ a ∈ s.requestLocs l x, (x.kind ≠ .read → s.sending d = true → homeDie a = d) ∧ a / 8 * 8 ∉ s.cycle.served ∧ s.passedBy (fabricPort d) a = false

/-- The die's destination cache leads `n` bytes of a request to physical ones from `pa` on, in ordinary memory, whose homes it reaches
while the lease lasts (R289, R387). -/
abbrev LeadsTo (s : State) (d : DieId) (x : Packet) (l : Lease) (n pa : Nat) : Prop :=
  s.portCached d x.space x.va = some l ∧ Passes s d x l ∧
    ∀ i < max 1 n, s.homeOf (l.frame.toNat + (x.va + i - l.base.toNat)) = pa + i ∧ s.assigned (pa + i) = true ∧ pa + i < 0xC100000000 ∧
      (s.dieTime (homeDie ((pa + i) / 8 * 8))).toNat < l.expiry.toNat

/-- Only memory, and what is due, may have changed. -/
abbrev SameBut (s t : State) : Prop := t.cores = s.cores ∧ t.insts = s.insts ∧ t.fab = s.fab ∧ t.peer = s.peer

end Sys2Proof.Claims

/-- R267, R272, R280, R289, R383, R387 to R389, R393 and R395: a request at its destination: unreachable, put off, held for 1 ms
from its arrival on a page that is not there or behind an earlier one, denied, or performed and answered, with DATAERR where a
word has two wrong bits; a signal is applied at a core that runs an instance of its SPACE. R389, R391, R392 and R22: an answer,
or its absence for 3 ms, ends a strand's remote operation: a load's register fills, an atomic's old value is written, and a
status that is not OK is counted and kept. -/
def Obligations.Packets : Prop :=
  ((∀ (s : State) (d : DieId) (x : Packet), ∀ z ∈ [(Instr.write d x, Event.write d x), (.read d x, .read d x), (.atomic d x, .atomic d x)],
     let later (t : State) : Prop := ∃ u, exec z.1 s = .next u ∧ (s.time.toNat + 1, z.2) ∈ u.timers ∧ SameBut s u ∧ u.mem = s.mem ∧
       ∀ e, (u.die e).portTrans = (t.die e).portTrans ∧ (u.die e).heldReqs = (s.die e).heldReqs ∧
         (e = d → (∀ h ∈ (s.die d).heldReqs, h.pkt ≠ x) → (∀ y ∈ (s.die d).arrived, y.1 ≠ x) →
           (u.die e).arrived = (s.die d).arrived ++ [(x, s.time.toNat)])
     (s.fabricOn = false → exec z.1 s = .next ((s.unhold d x).respond d x 3 [] 0)) ∧
     (∀ t, s.fabricOn = true → s.heldBefore x = true → s.keepRequest d x (x.va / 65536 * 65536) = some t → exec z.1 s = .next t) ∧
     (s.fabricOn = true → s.heldBefore x = true → s.keepRequest d x (x.va / 65536 * 65536) = none →
       exec z.1 s = .next ((s.unhold d x).respond d x 4 [] 0)) ∧
     (s.fabricOn = true → s.heldBefore x = false → s.requestWaits (fun q => precedes q x) = true → later s) ∧
     (s.fabricOn = true → s.heldBefore x = false → s.portCached d x.space x.va = none → s.walkStalls d x.space x.va = true → later s) ∧
     (∀ l, Serves s x → s.portCached d x.space x.va = some l → l.kind = 3 →
       ∃ u : State, exec z.1 s = .next (u.respond d x 2 [] 0) ∧ u.mem = s.mem ∧ SameBut s u) ∧
     (∀ l, Serves s x → s.portCached d x.space x.va = some l → l.kind = 0 → l.wr = true → s.assigned (s.homeOf (l.at x.va)) = true →
       (s.dieWaits d (s.requestLocs l x) = true → later s) ∧
       (z.1 ≠ .read d x → s.sending d = true → (∃ a ∈ s.requestLocs l x, homeDie a ≠ d) → later s) ∧
       ((∃ a ∈ s.requestLocs l x, a / 8 * 8 ∈ s.cycle.served) → later s) ∧
       (∀ a, s.requestLocs l x = [a] → s.passedBy (fabricPort d) a = true → later s) ∧
       (Passes s d x l → (z.1 = .read d x ↔ x.kind = .read) →
         (∃ a ∈ s.requestLocs l x, l.expiry.toNat ≤ (s.dieTime (homeDie a)).toNat) →
           later (s.setDie d { s.die d with portTrans := (s.die d).portTrans.filter fun y => y.lease != l })))) ∧
   (∀ (s : State) (d : DieId) (x : Packet) (l : Lease) (pa : Nat), Serves s x → l.kind = 0 → s.flaws = [] →
     (l.wr = false → s.portCached d x.space x.va = some l → ∀ z ∈ [Instr.write d x, .atomic d x],
       ∃ u : State, exec z s = .next (u.respond d x 2 [] 0) ∧ u.mem = s.mem ∧ SameBut s u) ∧
     (x.kind = .read → LeadsTo s d x l x.len pa →
       ∃ u : State, exec (.read d x) s = .next (u.respond d x 0 (s.mem.bytes pa x.len) 0) ∧ u.mem = s.mem ∧ SameBut s u) ∧
     (x.kind = .write → l.wr = true → s.mem.wf = true → LeadsTo s d x l x.data.length pa →
       ∃ u : State, exec (.write d x) s = .next (u.respond d x 0 [] 0) ∧ Put s.mem u.mem pa x.data.length (fun i => (x.data[i]?).getD 0) ∧ SameBut s u) ∧
     (∀ op, x.kind = .atomic → l.wr = true → AmoOp.ofBits x.op = some op → op ≠ .fadd → LeadsTo s d x l (2 ^ x.size.toNat) pa →
       let n := 2 ^ x.size.toNat
       let o := s.mem.nat pa n
       let new := atomicValue n o (x.aux.toNat % 256 ^ n) (leNat (x.data.take n)) op
       ∃ u : State, exec (.atomic d x) s = .next (u.respond d x 0 (leBytes n o) 0) ∧ SameBut s u ∧
         u.mem = match new with | some v => s.mem.putNat pa n v | none => s.mem)) ∧
   (∀ (s : State) (d : DieId) (x : Packet) (l : Lease) (pa : Nat), Serves s x → l.kind = 0 → LeadsTo s d x l 8 pa → pa % 8 = 0 →
     s.flaws = [(pa, true)] →
     let u := (((s.unhold d x).take (fabricPort d) pa).errsum 0 1).regionFault s.rfreg 0x005C (BitVec.ofNat 64 x.va)
     (x.kind = .read → x.len = 8 → exec (.read d x) s = .next ((u.ordered d false [pa]).respond d x 6 (List.replicate 8 0) 0)) ∧
     (∀ op, x.kind = .atomic → l.wr = true → AmoOp.ofBits x.op = some op → x.size.toNat = 3 →
       exec (.atomic d x) s = .next (u.respond d x 6 (List.replicate 8 0) 0)) ∧
     (∀ b, x.kind = .write → l.wr = true → x.data = [b] → ∃ t : State, exec (.write d x) s = .next (t.respond d x 6 [] 0)) ∧
     (x.kind = .write → l.wr = true → x.data.length = 8 →
       ∃ t : State, exec (.write d x) s = .next (t.respond d x 0 [] 0) ∧ t.flaws = [] ∧ SameBut s t ∧
       (s.mem.wf = true → Put s.mem t.mem pa 8 fun i => (x.data[i]?).getD 0))) ∧
   (∀ (s : State) (d : DieId) (x : Packet) (came : Nat), ∀ z ∈ [Instr.write d x, .read d x, .atomic d x],
     let page := x.va / 65536 * 65536
     let til := came + 1000000
     let u := (s.setDie d { s.die d with
       heldReqs := [{ id := (s.die d).nextReq, pkt := x, page := page, til := til }], nextReq := (s.die d).nextReq + 1, arrived := [] }).timer
       (til + 1) (.heldRequestTimeout d (s.die d).nextReq)
     (s.die d).arrived = [] ∧ came = s.time.toNat ∨ (s.die d).arrived = [(x, came)] →
     Serves s x → s.flaws = [] → s.portCached d x.space x.va = none → s.walkStalls d x.space x.va = false →
     (contextDword s x.space 0).getLsbD 0 = false → (∀ e, (s.die e).heldReqs = []) → s.pageAwaits x.space page = false →
     ∀ v a n, (u.keepPath s.rfreg).postTo s.rfreg (u.destRecord d page x) { Inst.none with leaf := BitVec.ofNat 32 s.rfreg, space := x.space } = (v, some a, n) →
       exec z s = .next (v.await { inst := none, region := n, addr := a, who := none, cause := 0x0076, page := some (x.space, page) })) ∧
   (∀ (s : State) (d : DieId) (x : Packet),
     let c : CoreId := ⟨fld x.aux 8 0 % 512, Nat.mod_lt _ (by decide)⟩
     let i := s.instOn c
     let here : Prop := (s.core c).inst ≠ none ∧ (i.status = .running ∨ i.status = .suspended) ∧ i.space = x.space
     (s.fabricOn = false → exec (.signal d x) s = .next (s.respond d x 3 [] 0)) ∧
     (s.fabricOn = true → ¬here → exec (.signal d x) s = .next (s.respond d x 5 [] 0)) ∧
     (s.fabricOn = true → here → ∃ u : State, exec (.signal d x) s = .next (u.respond d x 0 [] 0) ∧ u.mem = s.mem ∧ Event.semaphoreCycle c ∈ u.agenda ∧
       (u.core c).signals = (s.core c).signals ++ [{ set := false, k := x.aux.extractLsb' 9 8, n := fld x.aux 32 17, src := .fabric }])) ∧
   (∀ (s : State) (d : DieId) (h : HeldReq), (s.die d).heldReqs = [h] →
     (∀ n, n ≠ h.id → exec (.heldRequestTimeout d n) s = .next s) ∧
     ∃ u : State, exec (.heldRequestTimeout d h.id) s = .next (u.respond d h.pkt 1 [] 0) ∧ (u.die d).heldReqs = [] ∧ u.mem = s.mem ∧ SameBut s u) ∧
   (∀ (s : State) (d : DieId) (x : Packet) (status : Nat) (data : List Byte) (aux : Dword), x.src = s.peer →
     let r (k : PKind) : Packet := { x with kind := k, status := status, src := x.dst, dst := x.src, len := data.length, data := data, aux := aux }
     ((x.kind = .write ∨ x.kind = .signal) → s.respond d x status data aux = s.due (.ack (r .ack))) ∧
     (x.kind = .read → s.respond d x status data aux = s.due (.readresp (r .readresp))) ∧
     (x.kind = .atomic → s.respond d x status data aux = s.due (.atomresp (r .atomresp))))) ∧
  (∀ (s : State) (x : Packet), ∀ z ∈ [(Instr.ack x, x.tag, x.status, x.data), (.readresp x, x.tag, x.status, x.data),
       (.atomresp x, x.tag, x.status, x.data), (.remoteTimeout x.tag, x.tag, 3, [])],
     let status := z.2.2.1
     let data := z.2.2.2
     ((∀ r ∈ s.fab.remotes, r.tag ≠ x.tag) → exec z.1 s = .next s) ∧
     (∀ r, s.fab.remotes = [r] → r.tag = x.tag →
       let old := s.strand r.who
       let ends (t : State) : Prop := t.fab.remotes = [] ∧ t.mem = s.mem ∧ (∀ w, w ≠ r.who → t.strand w = s.strand w) ∧
         (status = 0 → t.strand r.who = old) ∧
         (status ≠ 0 → (t.strand r.who).g = old.g ∧ (t.strand r.who).spr.rfail.toNat = min 65535 (old.spr.rfail.toNat + 1) ∧
           (t.strand r.who).spr.drop.toNat = min 0xFFFFFFFF (old.spr.drop.toNat + 1) ∧
           (old.spr.rfail = 0 → (t.strand r.who).spr.rcode = BitVec.ofNat 8 status ∧ (t.strand r.who).spr.rtag = x.tag))
       (r.use = .store → ∃ t, exec z.1 s = .next t ∧ ends t ∧ (t.core r.who.core).spad = (s.core r.who.core).spad) ∧
       (∀ d, r.use = .load d → ∃ t, exec z.1 s = .next t ∧ ends t ∧
         Arriving t r.who d (if status = 0 then BitVec.ofNat 64 (leNat data) else 0)) ∧
       (∀ off n, r.use = .atomic (some (off, n)) false → n ≤ 8 → (s.core r.who.core).spad.wf = true → Unclaimed (s.core r.who.core) true off n →
         ∃ t, exec z.1 s = .next t ∧ ends t ∧
           Stored (s.core r.who.core).spad (t.core r.who.core).spad off n (if status = 0 then BitVec.ofNat 64 (leNat data) else 0))))

/-! ### Issue, encodings, exceptions and the whole machine (02, 03, 06) -/

namespace Sys2Proof.Claims

/-- The strands that execute an instruction (R17): V the vector majors, M the matrix major, S alone `SPAWN` and `WAITSTR`, every
strand the others. -/
def strandsOf (i : Instr) : List StrandId :=
  match i with
  | .spawn _ _ _ _ _ => [.s]
  | .waitstr _ => [.s]
  | _ =>
    match encode i with
    | h :: _ =>
      let major := h.toNat / 256 % 32
      if h.toNat / 8192 ≠ 7 then everyStrand
      else if 0x18 ≤ major ∧ major ≤ 0x1D then [.v]
      else if major = 0x1E then [.m]
      else everyStrand
    | [] => everyStrand

/-- An instruction of a strand; the other rows of the opcode table are steps of the machine's own. -/
abbrev OfStrand (i : Instr) : Prop := encode i ≠ []

/-- A guard (R36). -/
def guards : Instr → Bool
  | .cIf _ => true
  | .cIfn _ => true
  | _ => false

/-- The state after the lines of a unit of `n` halfwords at the strand's PC were touched (R35). -/
def touching (s : State) (n : Nat) : State := s.setMe ((s.me.touch s.me.pc).touch (s.me.pc + BitVec.ofNat 64 (2 * (n - 1))))

/-- The body holds another `n` halfwords from the PC on (R33, R41). -/
abbrev RoomFor (z : Strand) (n : Nat) : Prop := n ≤ (z.block.start.toNat + 2 * z.block.len - z.pc.toNat) / 2

/-- The strand has no scratchpad write of its own under way (R370, R371). -/
abbrev Unhindered (s : State) : Prop := ∀ e ∈ s.timers, Event.writesBack s.turn e.2 = false

/-- Nothing is due, the strand issues, and nothing hinders it: its turn fetches (R24, R31). -/
abbrev Fetches (s : State) : Prop := s.agenda = [] ∧ s.me.issues = true ∧ Unhindered s

/-- A step of the machine's own, which has no row in the opcode table. -/
def ownStep : Event → Bool
  | .recordPost => true
  | .instanceReturn _ => true
  | .poolReadied => true
  | .slew _ => true
  | .deckDone _ => true
  | .farSwitch _ _ => true
  | .resultReady _ _ _ _ _ => true
  | _ => false

/-- An `MTS` to SPACE, which only a system instance may execute (R22). -/
abbrev ToSpace (i : Instr) : Prop := ∃ g tg, i = .mts 11 g tg

/-- A result of the strand is on its way to one of some registers (R22, R23). -/
abbrev ComesTo (s : State) (regs : List GReg) : Prop :=
  ∃ e ∈ s.timers, ∃ r v f n, e.2 = Event.resultReady s.turn (some r) v f n ∧ r ≠ 0 ∧ r ∈ regs

/-- What a step makes of an answer: the cycle ends. -/
def ticked : Out → Out
  | .next t => .next t.tick
  | r => r

end Sys2Proof.Claims

/-- R30, R31, R36, R41 and R45: a step runs the instruction that its strand's PC names, or the step that is due, and nothing
else; a guard and the instruction after it are one step. -/
def Obligations.StepRunsDecoded : Prop :=
  (∀ (s : State) (i : Instr) (n : Nat) (hs : List Half), Fetches s → s.me.block.inBody = true →
    s.me.halvesFrom s.me.pc n = .ok hs → decode hs = .ok (i, n) → RoomFor s.me n → (guards i = true → RoomFor s.me 2) →
    (guards i = false → (∀ t, exec i (touching s n) = .next t → t.me.guard = none) → step s = ticked (exec i (touching s n))) ∧
    (∀ t j m ks, guards i = true → exec i (touching s n) = .next t → t.me.guard.isSome = true → Unhindered t →
      t.me.block.inBody = true → t.me.halvesFrom t.me.pc m = .ok ks → decode ks = .ok (j, m) → RoomFor t.me m → (guards j = true → RoomFor t.me 2) →
      step s = ticked (exec j (touching t m)))) ∧
  (∀ (s : State), s.agenda = [] → s.me.issues = false → step s = .next s.tick) ∧
  (∀ (s : State) (e : Event) (r : List Event), s.agenda = e :: r → step s = runEvent e { s with agenda := r }) ∧
  (∀ e : Event, ownStep e = false → ∃ i : Instr, ¬OfStrand i ∧ ∀ s, runEvent e s = exec i s)

/-- R42, R45 and R47 to R51: words written out from the encoding tables decode to the instructions they stand for. -/
def Obligations.DecodeWords : Prop :=
  decodeTableWord 32 0b11100000000001000010000011000000 = some (.add 1 2 3 false false) ∧
  decodeTableWord 32 0b11100010000101000110111111111111 = some (.addi 5 6 (-1)) ∧
  decodeTableWord 32 0b11101000000001000010000000000101 = some (.cmpi 1 2 .eq 5) ∧
  decodeTableWord 32 0b11101001100001111111111111111110 = some (.br true 3 (-2)) ∧
  decodeTableWord 32 0b11101011000000000000000000010000 = some .halt ∧
  decodeTableWord 16 0b0000000100000000 = some .cHalt ∧
  decodeTableWord 16 0b0010000001000010 = some (.cMov 1 2) ∧
  decodeTableWord 16 0b0001100001100000 = some (.cIfn 3) ∧
  decodeTableWord 32 0b11101101000000000000000000000000 = none

/-- R41 to R52: decoding the encoding of any well-formed instruction gives that instruction back, with its length, whatever
follows it; and what decodes is well-formed and is the encoding of what it decodes to, so that every word has one meaning. -/
def Obligations.EncodeDecode : Prop :=
  (∀ (i : Instr) (rest : List Half), OfStrand i → i.wf = true → decode (encode i ++ rest) = .ok (i, (encode i).length)) ∧
  (∀ (hs : List Half) (i : Instr) (n : Nat), decode hs = .ok (i, n) → i.wf = true ∧ n = (encode i).length ∧ hs.take n = encode i)

/-- R30, R31, R33, R35 and R52: a header begins its body and sets its passes, or passes over a body of none; a line that is not
in the loop buffer is fetched; a word that is no instruction, or that its body cuts short, is the illegal instruction. -/
def Obligations.Blocks : Prop :=
  ∀ (s : State), Fetches s →
    let z := s.me.touch s.me.pc
    let body := s.me.pc + 2
    let line : Dword := BitVec.ofNat 64 (s.me.pc.toNat / 64 * 64)
    (s.me.half s.me.pc = none →
      step s = ticked (.next ((s.setMe { s.me with pc := s.me.unitPc, guard := none, cond := .fetch }).due (.codeFetch s.turn line)))) ∧
    (∀ h, s.me.block.inBody = false → s.me.half s.me.pc = some h →
      let len := if h.toNat / 256 = 0 then 256 else h.toNat / 256
      let n := if h.toNat % 256 = 255 then s.me.spr.rc.toNat else h.toNat % 256 + 1
      (n ≠ 0 → step s = ticked (.next (s.setMe
        { z with pc := body, cond := .issuing, block := { inBody := true, start := body, len := len, remain := n } }))) ∧
      (n = 0 → step s = ticked (.next (s.setMe
        { z with
          pc := body + BitVec.ofNat 64 (2 * len), cond := .issuing
          block := { inBody := false, start := body, len := len, remain := 0 } })))) ∧
    (∀ h hs e, s.me.block.inBody = true → s.me.half s.me.pc = some h →
      (¬RoomFor s.me (unitLen [h]) → step s = ticked (traps s 0x0001)) ∧
      (s.me.halvesFrom s.me.pc (unitLen hs) = .ok hs → s.me.halvesFrom s.me.pc (unitLen [h]) = .ok (hs.take (unitLen [h])) →
        unitLen (hs.take (unitLen [h])) = unitLen hs → RoomFor s.me (unitLen hs) → decode hs = .error e → step s = ticked (traps s 0x0001)))

/-- R36: a guard reads its predicate and joins the instruction it guards; a guard after a guard traps. R17, R22, R23, R25, R36,
R52, R54 and R119: another strand's instruction is illegal, and so is an `MTS` to SPACE in a user instance, even with a failed
guard; a failed guard passes any other instruction over; an empty source makes it wait, or trap where its trap bit asks for it,
and an empty destination, or a result on its way to a register that it names, makes it wait; the holds of a division, XLATE and
PROBE come before their trap bits; the unit that comes too late is the overrun. -/
def Obligations.IssueAndGuards : Prop :=
  (∀ (s : State) (p : PReg),
     let joined (b : Bool) : Out := .next (s.setMe { s.me with guard := some b, pc := s.me.pc + 2 })
     (s.me.guard = none → exec (.cIf p) s = joined (s.me.rp p) ∧ exec (.cIfn p) s = joined (!s.me.rp p)) ∧
     (s.me.guard ≠ none → exec (.cIf p) s = traps s 0x0001 ∧ exec (.cIfn p) s = traps s 0x0001)) ∧
  ((∀ (s : State) (i : Instr), OfStrand i → i.wf = true → guards i = false →
     (s.turn.strand ∉ strandsOf i → exec i s = traps s 0x0001) ∧
     (ToSpace i → s.myInst.priv = false → exec i s = traps s 0x0001) ∧
     (s.turn.strand ∈ strandsOf i → s.me.issues = true → s.me.guard = some false → ¬(ToSpace i ∧ s.myInst.priv = false) →
       (¬Overrun s → exec i s = leaves s (encode i).length s.me) ∧
       (Overrun s → exec i s = .next ((s.setMe { s.me with pc := s.me.pc - 2, guard := none }).fatal s.turn 0x0024 0 0)))) ∧
   (∀ (s : State) (d a b : GReg) (ta tb : Bool), s.me.issues = true → s.me.guard = none →
     let empty (r : GReg) : Prop := s.me.isFull r = false
     let waited : Prop := empty a ∧ ta = false ∨ empty b ∧ tb = false
     ∀ i ∈ [Instr.add d a b ta tb, .sub d a b ta tb, .mul d a b ta tb, .mulhs d a b ta tb, .mulhu d a b ta tb, .divs d a b ta tb,
         .divu d a b ta tb, .rems d a b ta tb, .remu d a b ta tb, .and d a b ta tb, .or d a b ta tb, .xor d a b ta tb, .andn d a b ta tb,
         .shl d a b ta tb, .shr d a b ta tb, .sra d a b ta tb, .mins d a b ta tb, .minu d a b ta tb, .maxs d a b ta tb, .maxu d a b ta tb,
         .rol d a b ta tb, .addx8 d a b ta tb, .bfx d a b ta tb],
       (waited → Waits s i .fullEmpty) ∧
       (¬waited → empty d → Waits s i .interlock) ∧
       (¬waited → ComesTo s [a, b, d] → Waits s i .interlock) ∧
       let divided : Prop := s.dividing = true ∧ i ∈ [.divs d a b ta tb, .divu d a b ta tb, .rems d a b ta tb, .remu d a b ta tb]
       (¬waited → ¬empty d → ¬ComesTo s [a, b, d] → divided → Waits s i .interlock) ∧
       (¬waited → ¬empty d → ¬ComesTo s [a, b, d] → ¬divided → (empty a ∨ empty b) → exec i s = traps s 0x0003) ∧
       (¬empty a → ¬empty b → ¬empty d → ¬ComesTo s [a, b, d] → ¬divided → Overrun s → exec i s = .next (s.fatal s.turn 0x0024 0 0))) ∧
   (∀ (s : State) (regs : List GReg), s.resultDue regs [] = true ↔ ComesTo s regs) ∧
   (∀ (s : State) (hr : HReg) (a b : GReg), s.me.issues = true → s.me.guard = none → s.me.isFull a = false → s.me.isFull b = false →
     ¬ComesTo s [a, b] →
     ((s.me.rh hr).state = .resolving → Waits s (.xlate hr a true) .interlock) ∧
     ((s.me.rh hr).state ≠ .resolving → exec (.xlate hr a true) s = traps s 0x0003) ∧
     (s.inFlight s.turn = true → Waits s (.probe a b true true) .interlock) ∧
     (s.inFlight s.turn = false → exec (.probe a b true true) s = traps s 0x0003)))

namespace Sys2Proof.Claims

/-- What a record of a strand's fault says (R113). -/
def recordOf (s : State) (w : Who) (pc : Dword) (cause : BitVec 16) (arg : Byte) (addr detail : Dword) : Rec :=
  { cause := cause, sid := some w.strand, queue := 0, arg := arg, pc := pc, cid := BitVec.ofNat 64 (s.peer.toNat * 2 ^ 9 + w.core.val)
    addr := addr, detail := detail }

/-- Class of a cause (R110). -/
def classOf (cause : Nat) : Nat :=
  if cause = 0x10 then 1 else if cause = 0x25 then 0 else if cause = 0x62 ∨ 0x20 ≤ cause ∧ cause ≤ 0x3F then 2 else if 0x40 ≤ cause then 3 else 0

end Sys2Proof.Claims

/-- R106, R110 to R118 and R327: the fields of a fault record; its slot, FRPROD and FRLOST, and when it can be seen; what taking
a precise fault saves and where it leaves the strand and its instance; a fatal error; and how a strand that a safe point stopped
goes on. -/
def Obligations.Exceptions : Prop :=
  (∀ (r : Rec) (i : Inst) (time : Dword), let d (n : Nat) : Dword := ((r.dwords i time)[n]?).getD 0
    (r.dwords i time).length = 8 ∧ fld (d 0) 15 0 = r.cause.toNat ∧
      fld (d 0) 17 16 = (match r.sid with | some .s => 0 | some .v => 1 | some .m => 2 | none => 3) ∧ fld (d 0) 19 18 = classOf r.cause.toNat ∧
      fld (d 0) 23 20 = r.queue.toNat ∧ fld (d 0) 31 24 = r.arg.toNat ∧ fld (d 0) 47 32 = i.space.toNat ∧ fld (d 0) 63 48 = 0 ∧
      d 1 = r.pc ∧ d 2 = r.cid ∧ fld (d 3) 31 0 = i.leaf.toNat ∧ fld (d 3) 63 32 = i.iid.toNat ∧ d 4 = r.addr ∧ d 5 = r.detail ∧
      d 6 = time ∧ d 7 = 0) ∧
  (∀ (s : State) (n : Nat) (r : Rec) (i : Inst),
    let g := s.owner 5 n
    let ring := s.region g
    let slots := fld ring[5] 15 0
    let prod := fld ring[6] 31 0
    let lost := fld ring[6] 63 32
    let va : Dword := BitVec.ofNat 64 (fld ring[4] 44 0 + 64 * (prod % slots))
    let space := BitVec.ofNat 16 (fld (s.region (s.owner 8 n))[0] 47 32)
    let dropped : Prop := ∃ t, s.postTo n r i = (t, none, n) ∧ fld (t.region g)[6] 63 32 = min 0xFFFFFFFF (lost + 1) ∧
      fld (t.region g)[6] 31 0 = prod
    (slots = 0 → dropped) ∧
    ((∃ a ∈ s.dist.awaiting, a.addr = va ∧ s.owner 5 a.region = g) → slots ≠ 0 → dropped) ∧
    (∀ u places b, slots ≠ 0 → (∀ a ∈ s.dist.awaiting, a.addr ≠ va) → s.vaPlaces s.dist.master space va.toNat 64 = (u, places, b) →
      let tags := (s.fab.remotes.filter fun x => i.cores.contains x.who.core).map (·.tag)
      let out := s.writesOut i.cores s.time.toNat tags
      (b = false → dropped) ∧
      (b = true → ∃ t, s.postTo n r i = (t, some va, n) ∧ fld (t.region g)[6] 31 0 = (prod + 1) % 2 ^ 32 ∧ fld (t.region g)[6] 63 32 = lost ∧
        (s.posts = [] → out = true → t.mem = s.mem ∧ t.posts.length = 1) ∧
        (s.posts = [] → out = false → s.calm = true → s.flaws = [] → t.posts = [] ∧
          t.mem = (((places.map s.homeOf).zip (dwordBytes (r.dwords i s.time))).foldl (fun m x => m.put x.1 x.2) s.mem).putNat
            (s.homeOf (s.regionAddr g + 0x30)) 8 ((prod + 1) % 2 ^ 32 + lost * 2 ^ 32))))) ∧
  (∀ (s u : State) (k n : Nat) (va : Option Dword) (w : Who) (cause : BitVec 16) (arg : Byte) (addr detail : Dword), (s.core w.core).inst = some k →
    w.core ∈ (s.getInst k).cores → s.post (recordOf s w (s.strand w).pc cause arg addr detail) (s.getInst k) = (u, va, n) →
    let t := s.faultAt w cause arg addr detail
    (∀ a, va = some a →
      t.strand w = { s.strand w with held := .faulted cause a, live := BitVec.allOnes 64, cond := .stopped } ∧
        (t.getInst k).frec = a ∧ (t.getInst k).stop = true ∧ (∀ y, y ≠ w → t.strand y = s.strand y) ∧
        (∃ x ∈ t.dist.awaiting, x.inst = some k ∧ x.addr = a ∧ x.who = some w ∧ x.cause = cause) ∧
        ((s.getInst k).status = .running → (s.getInst k).preq = false → (∀ y ∈ (s.getInst k).strands, y ≠ w → (s.strand y).issues = false) →
          (t.getInst k).status = .suspended ∧ (s.time.toNat + 100000, Event.suspendTimeout k) ∈ t.timers) ∧
        (u.policy n = 0 → (t.region n).stopped = true)) ∧
    (va = none → (t.getInst k).status = .terminated ∧ (t.strand w).life = .halted)) ∧
  (∀ (s u : State) (k n : Nat) (va : Option Dword) (w : Who) (cause : BitVec 16) (addr detail : Dword), (s.core w.core).inst = some k →
    w.core ∈ (s.getInst k).cores → s.post (recordOf s w (s.strand w).unitPc cause 0 addr detail) (s.getInst k) = (u, va, n) →
    let t := s.fatal w cause addr detail
    (t.getInst k).status = .terminated ∧
      (∀ a, va = some a → (t.getInst k).frec = a ∧ ∃ x ∈ t.dist.awaiting, x.inst = some k ∧ x.addr = a ∧ x.who = none) ∧
      ∀ i, (t.strand ⟨w.core, i⟩).life = .halted ∧ (t.strand ⟨w.core, i⟩).g = (s.strand ⟨w.core, i⟩).g) ∧
  (∀ (s : State) (w : Who) (cause : BitVec 16) (addr detail : Dword),
    s.trap cause addr detail = (s.setMe { s.me with pc := s.me.unitPc, guard := none }).faultAt s.turn cause 0 addr detail ∧
    (∀ mask, (s.strand w).life = .running → (s.strand w).held = .atSafe mask →
      let z := (s.release w).strand w
      z.held = .no ∧ z.pc = (s.strand w).pc ∧ z.spr.spcnt = 0 ∧ z.lines = [] ∧
        ∀ r : GReg, r ≠ 0 →
          let kept := if w.strand = .v then r.toNat < 32 ∧ mask.getLsbD (32 + r.toNat) = true else mask.getLsbD r.toNat = true
          (kept → z.rg r = (s.strand w).rg r ∧ z.isFull r = (s.strand w).isFull r) ∧ (¬kept → z.rg r = 0 ∧ z.isFull r = true)))

/-- R19, R27 and R99: an instruction of one strand leaves the registers of every other strand as they were, `SPAWN` of a strand
of its own core apart. -/
def Obligations.RegistersStayOwn : Prop :=
  ∀ (s t : State) (i : Instr) (w : Who), OfStrand i → (∀ d a b ta tb, i ≠ .spawn d a b ta tb) → w ≠ s.turn → exec i s = .next t →
    (t.strand w).g = (s.strand w).g ∧ (t.strand w).full = (s.strand w).full ∧ (t.strand w).p = (s.strand w).p ∧ (t.strand w).h = (s.strand w).h ∧
      (t.strand w).v = (s.strand w).v ∧ (t.strand w).m = (s.strand w).m ∧ (t.strand w).pc = (s.strand w).pc

namespace Sys2Proof.Claims

/-- Every memory the machine keeps as a list is in its canonical form: addresses rise, and no listed byte is 0; and deck entries, and
the bytes that the host has yet to see, rise by their keys. -/
abbrev Canonical (s : State) : Prop :=
  s.mem.wf = true ∧ s.plat.mbuf.wf = true ∧ Rising s.unseen ∧ ∀ c, (s.core c).spad.wf = true ∧ (s.core c).tiles.wf = true ∧ Rising (s.core c).deck

end Sys2Proof.Claims

/-- R5, R135, R147, R249, R343, R345 to R347, R350, R352, R383 and R384: the machine after power-on: nothing runs, memory reads
0, and the registers hold the reset values their rules give. The state after reset has the canonical form. -/
def Obligations.ResetValues : Prop :=
  (let s := State.reset
   s.mem = [] ∧ s.insts = [] ∧ s.time = 0 ∧ s.plat.ready = false ∧ s.plat.stepNo = 0 ∧ s.plat.alarmpol = 0x77F ∧ s.plat.stealctl = 0 ∧
     s.plat.busy = false ∧ s.fab.cfg = 0 ∧ s.fab.spares = 64 ∧
     (∀ d, (s.die d).cap = 760 ∧ (s.die d).throt = false ∧ ∀ e, (entryAt s d e).state = 0) ∧
     (∀ p d, (s.link p d).txWidth = 80 ∧ (s.link p d).rxWidth = 80) ∧
     (∀ k b, ((s.cluster k).bar b).phase = 0 ∧ ((s.cluster k).bar b).arr = 0 ∧ ((s.cluster k).bar b).n = 4) ∧
     (∀ c, (s.core c).inst = none ∧ (s.core c).tileFull = 0 ∧ (∀ q, ((s.core c).queue q).next = 1 ∧ ((s.core c).queue q).jobs = []) ∧
       (s.core c).frame.shadow[0] = 1 ∧ (s.core c).frame.shadow[24] = BitVec.ofNat 64 (2 ^ 36 + 64 * 2 ^ 48)) ∧
     ∀ w, (s.strand w).life = .idle) ∧
  (Canonical State.reset)

/-- The canonical form of every memory is kept by every step: equal memories are equal lists (R4, R128; the list is the
model's). -/
def Obligations.MemoryStaysCanonical : Prop :=
  ∀ s t : State, Canonical s → step s = .next t → Canonical t

namespace Sys2Proof.Claims

/-- The real number that a decoded value stands for; infinities and NaN stand for none. -/
def Means (v : FVal) (x : ℝ) : Prop :=
  match v with
  | .zero _ => x = 0
  | .fin s m e => x = (if s then -1 else 1) * m * (2 : ℝ) ^ e
  | _ => False

/-- `y` is what rounding `x` once gives among the numbers of `S`: in RNE the nearest, and of two nearest the even multiple of their
distance; in the others the nearest on the mode's side (R64). -/
def Rounds (mode : RMode) (S : ℝ → Prop) (x y : ℝ) : Prop :=
  S y ∧
  match mode with
  | .rne => ∀ z, S z → |y - x| ≤ |z - x| ∧ (|y - x| = |z - x| → z ≠ y → ∃ n : ℤ, y = 2 * n * (z - y))
  | .rz => |y| ≤ |x| ∧ ∀ z, S z → |z| ≤ |x| → |y - x| ≤ |z - x|
  | .ru => x ≤ y ∧ ∀ z, S z → x ≤ z → |y - x| ≤ |z - x|
  | .rd => y ≤ x ∧ ∀ z, S z → z ≤ x → |y - x| ≤ |z - x|

/-- The numbers of a precision of `bits` with an unbounded exponent (R65). -/
def Unbounded (bits : Nat) (z : ℝ) : Prop := ∃ n q : ℤ, |n| < 2 ^ bits ∧ z = n * (2 : ℝ) ^ q

/-- A pattern and flags are the delivery of an exact nonzero `x` into the numbers `S`, of a precision of `bits`, whose largest is
`top` and whose least normal one is `low`, where a pattern is read by `f` (R64, R65, R66). -/
def Delivers (f : FFmt) (S : ℝ → Prop) (bits : Nat) (top low : ℝ) (mode : RMode) (x : ℝ) (r : Nat × Flags) : Prop :=
  ∃ u, Rounds mode (Unbounded bits) x u ∧
    (top < |u| → r.2 = 0x014 ∧
      ((mode = .rne ∨ (mode = .ru ∧ 0 < x) ∨ (mode = .rd ∧ x < 0)) → f.decode r.1 = .inf (decide (x < 0))) ∧
      ((mode = .rz ∨ (mode = .ru ∧ x < 0) ∨ (mode = .rd ∧ 0 < x)) → Means (f.decode r.1) (if 0 < x then top else -top))) ∧
    (|u| ≤ top → ∃ y, Means (f.decode r.1) y ∧ Rounds mode S x y ∧ (y = x → r.2 = 0) ∧
      (y ≠ x → |u| < low → r.2 = 0x018) ∧ (y ≠ x → low ≤ |u| → r.2 = 0x010))

/-- The numbers that a format holds. -/
def Holds (f : FFmt) (z : ℝ) : Prop := ∃ p, Means (f.decode p) z

/-- A pattern and flags are the delivery of `x` into an IEEE format (R62, R65). -/
def Encodes (f : FFmt) (mode : RMode) (x : ℝ) (r : Nat × Flags) : Prop :=
  let bias : ℤ := 2 ^ (f.eb - 1) - 1
  Delivers f (Holds f) (f.fb + 1) ((2 ^ (f.fb + 1) - 1) * (2 : ℝ) ^ (bias - f.fb)) ((2 : ℝ) ^ (1 - bias)) mode x r

/-- The canonical NaN: an exponent of all ones and the top fraction bit (R62). -/
def canonical (f : FFmt) : Nat := (2 ^ f.eb - 1) * 2 ^ f.fb + 2 ^ (f.fb - 1)

/-- A pattern and flags are an estimate of `x`: its delivery into F12 (R198). -/
def Estimates (x : ℝ) (r : Nat × Flags) : Prop :=
  Delivers .fp32 (fun z => Holds .fp32 z ∧ Unbounded 13 z) 13 (0x1FFF * (2 : ℝ) ^ (115 : ℤ)) ((2 : ℝ) ^ (-126 : ℤ)) .rne x r

/-- The formats of the floating types (R50, R62). -/
abbrev IeeeFormat (f : FFmt) : Prop := f ∈ [FFmt.fp32, .fp16, .bf16]

end Sys2Proof.Claims

/-- R62 to R67 and R198: what a pattern stands for; a sum, a difference, a product and a fused product round their exact result
once, to the nearest and the even one of two, with OF, UF and NX as R65 gives them, as does a conversion in each mode; NaN gives
the canonical NaN; the minimum and the maximum; the estimates of 1/a and 1/√a, and 2^a of an integer. -/
def Obligations.FloatResults : Prop :=
  (∀ (f : FFmt) (p : Nat), IeeeFormat f → p < 2 ^ (f.fb + f.eb + 1) →
    let neg : Bool := decide (2 ^ (f.fb + f.eb) ≤ p)
    let sign : ℝ := if neg then -1 else 1
    let ex := p / 2 ^ f.fb % 2 ^ f.eb
    let fr := p % 2 ^ f.fb
    let bias : ℤ := 2 ^ (f.eb - 1) - 1
    (ex = 0 → Means (f.decode p) (sign * fr * (2 : ℝ) ^ (1 - bias - f.fb))) ∧
    (0 < ex → ex < 2 ^ f.eb - 1 → Means (f.decode p) (sign * (2 ^ f.fb + fr) * (2 : ℝ) ^ (ex - bias - f.fb))) ∧
    (ex = 2 ^ f.eb - 1 → f.decode p = if fr = 0 then .inf neg else .nan)) ∧
  (∀ (f : FFmt) (mode : RMode) (v : FVal) (x : ℝ), IeeeFormat f → Means v x → x ≠ 0 → Encodes f mode x (f.encode mode v)) ∧
  (∀ (f : FFmt) (a b c : Nat) (x y z : ℝ), IeeeFormat f → Means (f.decode a) x → Means (f.decode b) y → Means (f.decode c) z →
    (x + y ≠ 0 → Encodes f .rne (x + y) (fAdd f a b)) ∧ (x - y ≠ 0 → Encodes f .rne (x - y) (fSub f a b)) ∧
    (x * y ≠ 0 → Encodes f .rne (x * y) (fMul f a b)) ∧ (z + x * y ≠ 0 → Encodes f .rne (z + x * y) (fFma f c a b)) ∧
    (x + y = 0 → fAdd f a b =
      (if f.decode a = .zero true ∧ f.decode b = .zero true then 2 ^ (f.fb + f.eb) else 0, 0)) ∧
    (x < y → fminmax f false a b = a ∧ fminmax f false b a = a ∧ fminmax f true a b = b ∧ fminmax f true b a = b) ∧
    (f.decode a = .zero true → f.decode b = .zero false →
      fminmax f false a b = a ∧ fminmax f false b a = a ∧ fminmax f true a b = b ∧ fminmax f true b a = b)) ∧
  (∀ (f : FFmt) (a b c : Nat), IeeeFormat f →
    (f.decode a = .nan ∨ f.decode b = .nan → fAdd f a b = (canonical f, 0) ∧ fSub f a b = (canonical f, 0) ∧ fMul f a b = (canonical f, 0)) ∧
    (∀ s, f.decode a = .inf s → f.decode b = .inf (!s) → fAdd f a b = (canonical f, 0x001)) ∧
    (∀ s t, f.decode a = .zero s → f.decode b = .inf t → fMul f a b = (canonical f, 0x001) ∧ fMul f b a = (canonical f, 0x001)) ∧
    (f.decode a = .nan → f.decode b ≠ .nan → fminmax f c.bodd a b = b ∧ fminmax f c.bodd b a = b) ∧
    (f.decode a = .nan → f.decode b = .nan → fminmax f c.bodd a b = canonical f)) ∧
  (∀ (a : Nat) (x : ℝ), Means (FFmt.fp32.decode a) x →
    (x ≠ 0 → Estimates (1 / x) (estRcp a)) ∧ (0 < x → Estimates (1 / Real.sqrt x) (estRsq a)) ∧
    (x < 0 → estRsq a = (canonical .fp32, 0x001)) ∧
    (∀ n : ℤ, x = n → -149 ≤ n → n ≤ 127 → Means (FFmt.fp32.decode (estExp2 a).1) ((2 : ℝ) ^ n) ∧ (estExp2 a).2 = 0))
end

