-- ==== Sys2Proof/Laws/Dispatch.lean ====
section
/-!
SUPPORT. `exec` at each constructor: the meaning that its arm calls.
-/

namespace Sys2Proof.Machine

@[simp] theorem exec_add (d : GReg) (a : GReg) (b : GReg) (ta : Bool) (tb : Bool) (s : State) : exec (.add d a b ta tb) s = execAdd d a b ta tb s := rfl
@[simp] theorem exec_sub (d : GReg) (a : GReg) (b : GReg) (ta : Bool) (tb : Bool) (s : State) : exec (.sub d a b ta tb) s = execSub d a b ta tb s := rfl
@[simp] theorem exec_mul (d : GReg) (a : GReg) (b : GReg) (ta : Bool) (tb : Bool) (s : State) : exec (.mul d a b ta tb) s = execMul d a b ta tb s := rfl
@[simp] theorem exec_mulhs (d : GReg) (a : GReg) (b : GReg) (ta : Bool) (tb : Bool) (s : State) : exec (.mulhs d a b ta tb) s = execMulhs d a b ta tb s := rfl
@[simp] theorem exec_mulhu (d : GReg) (a : GReg) (b : GReg) (ta : Bool) (tb : Bool) (s : State) : exec (.mulhu d a b ta tb) s = execMulhu d a b ta tb s := rfl
@[simp] theorem exec_divs (d : GReg) (a : GReg) (b : GReg) (ta : Bool) (tb : Bool) (s : State) : exec (.divs d a b ta tb) s = execDivs d a b ta tb s := rfl
@[simp] theorem exec_divu (d : GReg) (a : GReg) (b : GReg) (ta : Bool) (tb : Bool) (s : State) : exec (.divu d a b ta tb) s = execDivu d a b ta tb s := rfl
@[simp] theorem exec_rems (d : GReg) (a : GReg) (b : GReg) (ta : Bool) (tb : Bool) (s : State) : exec (.rems d a b ta tb) s = execRems d a b ta tb s := rfl
@[simp] theorem exec_remu (d : GReg) (a : GReg) (b : GReg) (ta : Bool) (tb : Bool) (s : State) : exec (.remu d a b ta tb) s = execRemu d a b ta tb s := rfl
@[simp] theorem exec_and (d : GReg) (a : GReg) (b : GReg) (ta : Bool) (tb : Bool) (s : State) : exec (.and d a b ta tb) s = execAnd d a b ta tb s := rfl
@[simp] theorem exec_or (d : GReg) (a : GReg) (b : GReg) (ta : Bool) (tb : Bool) (s : State) : exec (.or d a b ta tb) s = execOr d a b ta tb s := rfl
@[simp] theorem exec_xor (d : GReg) (a : GReg) (b : GReg) (ta : Bool) (tb : Bool) (s : State) : exec (.xor d a b ta tb) s = execXor d a b ta tb s := rfl
@[simp] theorem exec_andn (d : GReg) (a : GReg) (b : GReg) (ta : Bool) (tb : Bool) (s : State) : exec (.andn d a b ta tb) s = execAndn d a b ta tb s := rfl
@[simp] theorem exec_shl (d : GReg) (a : GReg) (b : GReg) (ta : Bool) (tb : Bool) (s : State) : exec (.shl d a b ta tb) s = execShl d a b ta tb s := rfl
@[simp] theorem exec_shr (d : GReg) (a : GReg) (b : GReg) (ta : Bool) (tb : Bool) (s : State) : exec (.shr d a b ta tb) s = execShr d a b ta tb s := rfl
@[simp] theorem exec_sra (d : GReg) (a : GReg) (b : GReg) (ta : Bool) (tb : Bool) (s : State) : exec (.sra d a b ta tb) s = execSra d a b ta tb s := rfl
@[simp] theorem exec_mins (d : GReg) (a : GReg) (b : GReg) (ta : Bool) (tb : Bool) (s : State) : exec (.mins d a b ta tb) s = execMins d a b ta tb s := rfl
@[simp] theorem exec_minu (d : GReg) (a : GReg) (b : GReg) (ta : Bool) (tb : Bool) (s : State) : exec (.minu d a b ta tb) s = execMinu d a b ta tb s := rfl
@[simp] theorem exec_maxs (d : GReg) (a : GReg) (b : GReg) (ta : Bool) (tb : Bool) (s : State) : exec (.maxs d a b ta tb) s = execMaxs d a b ta tb s := rfl
@[simp] theorem exec_maxu (d : GReg) (a : GReg) (b : GReg) (ta : Bool) (tb : Bool) (s : State) : exec (.maxu d a b ta tb) s = execMaxu d a b ta tb s := rfl
@[simp] theorem exec_clz (d : GReg) (a : GReg) (ta : Bool) (s : State) : exec (.clz d a ta) s = execClz d a ta s := rfl
@[simp] theorem exec_ctz (d : GReg) (a : GReg) (ta : Bool) (s : State) : exec (.ctz d a ta) s = execCtz d a ta s := rfl
@[simp] theorem exec_popc (d : GReg) (a : GReg) (ta : Bool) (s : State) : exec (.popc d a ta) s = execPopc d a ta s := rfl
@[simp] theorem exec_rol (d : GReg) (a : GReg) (b : GReg) (ta : Bool) (tb : Bool) (s : State) : exec (.rol d a b ta tb) s = execRol d a b ta tb s := rfl
@[simp] theorem exec_bfx (d : GReg) (a : GReg) (b : GReg) (ta : Bool) (tb : Bool) (s : State) : exec (.bfx d a b ta tb) s = execBfx d a b ta tb s := rfl
@[simp] theorem exec_bfi (d : GReg) (a : GReg) (b : GReg) (ta : Bool) (tb : Bool) (s : State) : exec (.bfi d a b ta tb) s = execBfi d a b ta tb s := rfl
@[simp] theorem exec_shli (d : GReg) (a : GReg) (n : BitVec 6) (ta : Bool) (s : State) : exec (.shli d a n ta) s = execShli d a n ta s := rfl
@[simp] theorem exec_shri (d : GReg) (a : GReg) (n : BitVec 6) (ta : Bool) (s : State) : exec (.shri d a n ta) s = execShri d a n ta s := rfl
@[simp] theorem exec_srai (d : GReg) (a : GReg) (n : BitVec 6) (ta : Bool) (s : State) : exec (.srai d a n ta) s = execSrai d a n ta s := rfl
@[simp] theorem exec_addx8 (d : GReg) (a : GReg) (b : GReg) (ta : Bool) (tb : Bool) (s : State) : exec (.addx8 d a b ta tb) s = execAddx8 d a b ta tb s := rfl
@[simp] theorem exec_addi (d : GReg) (a : GReg) (im : BitVec 12) (s : State) : exec (.addi d a im) s = execAddi d a im s := rfl
@[simp] theorem exec_andi (d : GReg) (a : GReg) (im : BitVec 12) (s : State) : exec (.andi d a im) s = execAndi d a im s := rfl
@[simp] theorem exec_ori (d : GReg) (a : GReg) (im : BitVec 12) (s : State) : exec (.ori d a im) s = execOri d a im s := rfl
@[simp] theorem exec_xori (d : GReg) (a : GReg) (im : BitVec 12) (s : State) : exec (.xori d a im) s = execXori d a im s := rfl
@[simp] theorem exec_lui (d : GReg) (im : BitVec 18) (s : State) : exec (.lui d im) s = execLui d im s := rfl
@[simp] theorem exec_cmpeq (d : PReg) (a : GReg) (b : GReg) (ta : Bool) (tb : Bool) (s : State) : exec (.cmpeq d a b ta tb) s = execCmpeq d a b ta tb s := rfl
@[simp] theorem exec_cmpne (d : PReg) (a : GReg) (b : GReg) (ta : Bool) (tb : Bool) (s : State) : exec (.cmpne d a b ta tb) s = execCmpne d a b ta tb s := rfl
@[simp] theorem exec_cmplt (d : PReg) (a : GReg) (b : GReg) (ta : Bool) (tb : Bool) (s : State) : exec (.cmplt d a b ta tb) s = execCmplt d a b ta tb s := rfl
@[simp] theorem exec_cmpltu (d : PReg) (a : GReg) (b : GReg) (ta : Bool) (tb : Bool) (s : State) : exec (.cmpltu d a b ta tb) s = execCmpltu d a b ta tb s := rfl
@[simp] theorem exec_cmple (d : PReg) (a : GReg) (b : GReg) (ta : Bool) (tb : Bool) (s : State) : exec (.cmple d a b ta tb) s = execCmple d a b ta tb s := rfl
@[simp] theorem exec_cmpleu (d : PReg) (a : GReg) (b : GReg) (ta : Bool) (tb : Bool) (s : State) : exec (.cmpleu d a b ta tb) s = execCmpleu d a b ta tb s := rfl
@[simp] theorem exec_pand (d : PReg) (a : PReg) (b : PReg) (s : State) : exec (.pand d a b) s = execPand d a b s := rfl
@[simp] theorem exec_por (d : PReg) (a : PReg) (b : PReg) (s : State) : exec (.por d a b) s = execPor d a b s := rfl
@[simp] theorem exec_pxor (d : PReg) (a : PReg) (b : PReg) (s : State) : exec (.pxor d a b) s = execPxor d a b s := rfl
@[simp] theorem exec_pandn (d : PReg) (a : PReg) (b : PReg) (s : State) : exec (.pandn d a b) s = execPandn d a b s := rfl
@[simp] theorem exec_pnot (d : PReg) (a : PReg) (s : State) : exec (.pnot d a) s = execPnot d a s := rfl
@[simp] theorem exec_pmov (d : PReg) (a : PReg) (s : State) : exec (.pmov d a) s = execPmov d a s := rfl
@[simp] theorem exec_pget (d : GReg) (s : State) : exec (.pget d) s = execPget d s := rfl
@[simp] theorem exec_pset (a : GReg) (ta : Bool) (s : State) : exec (.pset a ta) s = execPset a ta s := rfl
@[simp] theorem exec_cmpi (p : PReg) (a : GReg) (c : Cond) (im : BitVec 9) (s : State) : exec (.cmpi p a c im) s = execCmpi p a c im s := rfl
@[simp] theorem exec_br (n : Bool) (p : PReg) (o : BitVec 17) (s : State) : exec (.br n p o) s = execBr n p o s := rfl
@[simp] theorem exec_call (o : BitVec 24) (s : State) : exec (.call o) s = execCall o s := rfl
@[simp] theorem exec_jr (a : GReg) (ta : Bool) (s : State) : exec (.jr a ta) s = execJr a ta s := rfl
@[simp] theorem exec_jalr (d : GReg) (a : GReg) (ta : Bool) (s : State) : exec (.jalr d a ta) s = execJalr d a ta s := rfl
@[simp] theorem exec_ret (s : State) : exec (.ret) s = execRet s := rfl
@[simp] theorem exec_spawn (d : GReg) (a : GReg) (b : GReg) (ta : Bool) (tb : Bool) (s : State) : exec (.spawn d a b ta tb) s = execSpawn d a b ta tb s := rfl
@[simp] theorem exec_halt (s : State) : exec (.halt) s = execHalt s := rfl
@[simp] theorem exec_yield (s : State) : exec (.yield) s = execYield s := rfl
@[simp] theorem exec_setrpt (a : GReg) (ta : Bool) (s : State) : exec (.setrpt a ta) s = execSetrpt a ta s := rfl
@[simp] theorem exec_trap (n : BitVec 6) (s : State) : exec (.trap n) s = execTrap n s := rfl
@[simp] theorem exec_brk (n : BitVec 6) (s : State) : exec (.brk n) s = execBrk n s := rfl
@[simp] theorem exec_nop (s : State) : exec (.nop) s = execNop s := rfl
@[simp] theorem exec_waitstr (m : BitVec 2) (s : State) : exec (.waitstr m) s = execWaitstr m s := rfl
@[simp] theorem exec_mfs (d : GReg) (n : BitVec 6) (s : State) : exec (.mfs d n) s = execMfs d n s := rfl
@[simp] theorem exec_mts (n : BitVec 6) (a : GReg) (ta : Bool) (s : State) : exec (.mts n a ta) s = execMts n a ta s := rfl
@[simp] theorem exec_safe (mask : BitVec 64) (s : State) : exec (.safe mask) s = execSafe mask s := rfl
@[simp] theorem exec_lit (d : GReg) (x : BitVec 64) (s : State) : exec (.lit d x) s = execLit d x s := rfl
@[simp] theorem exec_trel (t : TReg) (s : State) : exec (.trel t) s = execTrel t s := rfl
@[simp] theorem exec_tmark (t : TReg) (s : State) : exec (.tmark t) s = execTmark t s := rfl
@[simp] theorem exec_tstat (d : GReg) (t : TReg) (s : State) : exec (.tstat d t) s = execTstat d t s := rfl
@[simp] theorem exec_tclr (t : TReg) (s : State) : exec (.tclr t) s = execTclr t s := rfl
@[simp] theorem exec_lds (d : GReg) (a : GReg) (sz : Size) (o : BitVec 10) (s : State) : exec (.lds d a sz o) s = execLds d a sz o s := rfl
@[simp] theorem exec_sts (d : GReg) (a : GReg) (sz : Size) (o : BitVec 10) (s : State) : exec (.sts d a sz o) s = execSts d a sz o s := rfl
@[simp] theorem exec_ldg (d : GReg) (h : HReg) (a : GReg) (sz : Size) (o : BitVec 6) (s : State) : exec (.ldg d h a sz o) s = execLdg d h a sz o s := rfl
@[simp] theorem exec_stg (d : GReg) (h : HReg) (a : GReg) (sz : Size) (o : BitVec 6) (s : State) : exec (.stg d h a sz o) s = execStg d h a sz o s := rfl
@[simp] theorem exec_xlate (h : HReg) (a : GReg) (ta : Bool) (s : State) : exec (.xlate h a ta) s = execXlate h a ta s := rfl
@[simp] theorem exec_probe (a : GReg) (b : GReg) (ta : Bool) (tb : Bool) (s : State) : exec (.probe a b ta tb) s = execProbe a b ta tb s := rfl
@[simp] theorem exec_hrel (h : HReg) (s : State) : exec (.hrel h) s = execHrel h s := rfl
@[simp] theorem exec_hinfo (d : GReg) (h : HReg) (s : State) : exec (.hinfo d h) s = execHinfo d h s := rfl
@[simp] theorem exec_hrenew (h : HReg) (s : State) : exec (.hrenew h) s = execHrenew h s := rfl
@[simp] theorem exec_amo (d : GReg) (h : HReg) (a : GReg) (op : AmoOp) (sc : Scope) (z : Bool) (r : Bool) (s : State) : exec (.amo d h a op sc z r) s = execAmo d h a op sc z r s := rfl
@[simp] theorem exec_fence (sc : Scope) (s : State) : exec (.fence sc) s = execFence sc s := rfl
@[simp] theorem exec_flush (a : GReg) (b : GReg) (ta : Bool) (tb : Bool) (s : State) : exec (.flush a b ta tb) s = execFlush a b ta tb s := rfl
@[simp] theorem exec_push (a : GReg) (q : BitVec 3) (ta : Bool) (s : State) : exec (.push a q ta) s = execPush a q ta s := rfl
@[simp] theorem exec_qroom (d : GReg) (q : BitVec 3) (s : State) : exec (.qroom d q) s = execQroom d q s := rfl
@[simp] theorem exec_wmark (d : GReg) (q : BitVec 3) (s : State) : exec (.wmark d q) s = execWmark d q s := rfl
@[simp] theorem exec_wmwait (a : GReg) (q : BitVec 3) (ta : Bool) (s : State) : exec (.wmwait a q ta) s = execWmwait a q ta s := rfl
@[simp] theorem exec_bacq (d : GReg) (n : BitVec 3) (s : State) : exec (.bacq d n) s = execBacq d n s := rfl
@[simp] theorem exec_brel (a : GReg) (n : BitVec 3) (ta : Bool) (s : State) : exec (.brel a n ta) s = execBrel a n ta s := rfl
@[simp] theorem exec_ksig (g : GReg) (k : BitVec 8) (amt : BitVec 4) (tg : Bool) (s : State) : exec (.ksig g k amt tg) s = execKsig g k amt tg s := rfl
@[simp] theorem exec_kwait (g : GReg) (k : BitVec 8) (amt : BitVec 4) (tg : Bool) (s : State) : exec (.kwait g k amt tg) s = execKwait g k amt tg s := rfl
@[simp] theorem exec_ktwait (g : GReg) (k : BitVec 8) (amt : BitVec 4) (tg : Bool) (s : State) : exec (.ktwait g k amt tg) s = execKtwait g k amt tg s := rfl
@[simp] theorem exec_kread (g : GReg) (k : BitVec 8) (s : State) : exec (.kread g k) s = execKread g k s := rfl
@[simp] theorem exec_kset (g : GReg) (k : BitVec 8) (tg : Bool) (s : State) : exec (.kset g k tg) s = execKset g k tg s := rfl
@[simp] theorem exec_carv (g : GReg) (b : BitVec 4) (s : State) : exec (.carv g b) s = execCarv g b s := rfl
@[simp] theorem exec_cwait (g : GReg) (b : BitVec 4) (tg : Bool) (s : State) : exec (.cwait g b tg) s = execCwait g b tg s := rfl
@[simp] theorem exec_ctwait (g : GReg) (b : BitVec 4) (tg : Bool) (s : State) : exec (.ctwait g b tg) s = execCtwait g b tg s := rfl
@[simp] theorem exec_cbset (g : GReg) (b : BitVec 4) (tg : Bool) (s : State) : exec (.cbset g b tg) s = execCbset g b tg s := rfl
@[simp] theorem exec_vadd (d : VReg) (a : VReg) (b : VReg) (k : MReg) (ty : VType) (s : State) : exec (.vadd d a b k ty) s = execVadd d a b k ty s := rfl
@[simp] theorem exec_vsub (d : VReg) (a : VReg) (b : VReg) (k : MReg) (ty : VType) (s : State) : exec (.vsub d a b k ty) s = execVsub d a b k ty s := rfl
@[simp] theorem exec_vmul (d : VReg) (a : VReg) (b : VReg) (k : MReg) (ty : VType) (s : State) : exec (.vmul d a b k ty) s = execVmul d a b k ty s := rfl
@[simp] theorem exec_vfma (d : VReg) (a : VReg) (b : VReg) (k : MReg) (ty : VType) (s : State) : exec (.vfma d a b k ty) s = execVfma d a b k ty s := rfl
@[simp] theorem exec_vmin (d : VReg) (a : VReg) (b : VReg) (k : MReg) (ty : VType) (s : State) : exec (.vmin d a b k ty) s = execVmin d a b k ty s := rfl
@[simp] theorem exec_vmax (d : VReg) (a : VReg) (b : VReg) (k : MReg) (ty : VType) (s : State) : exec (.vmax d a b k ty) s = execVmax d a b k ty s := rfl
@[simp] theorem exec_vsadd (d : VReg) (a : VReg) (b : VReg) (k : MReg) (ty : VType) (s : State) : exec (.vsadd d a b k ty) s = execVsadd d a b k ty s := rfl
@[simp] theorem exec_vssub (d : VReg) (a : VReg) (b : VReg) (k : MReg) (ty : VType) (s : State) : exec (.vssub d a b k ty) s = execVssub d a b k ty s := rfl
@[simp] theorem exec_vand (d : VReg) (a : VReg) (b : VReg) (k : MReg) (s : State) : exec (.vand d a b k) s = execVand d a b k s := rfl
@[simp] theorem exec_vor (d : VReg) (a : VReg) (b : VReg) (k : MReg) (s : State) : exec (.vor d a b k) s = execVor d a b k s := rfl
@[simp] theorem exec_vxor (d : VReg) (a : VReg) (b : VReg) (k : MReg) (s : State) : exec (.vxor d a b k) s = execVxor d a b k s := rfl
@[simp] theorem exec_vshl (d : VReg) (a : VReg) (b : VReg) (k : MReg) (ty : VType) (s : State) : exec (.vshl d a b k ty) s = execVshl d a b k ty s := rfl
@[simp] theorem exec_vshr (d : VReg) (a : VReg) (b : VReg) (k : MReg) (ty : VType) (s : State) : exec (.vshr d a b k ty) s = execVshr d a b k ty s := rfl
@[simp] theorem exec_vsra (d : VReg) (a : VReg) (b : VReg) (k : MReg) (ty : VType) (s : State) : exec (.vsra d a b k ty) s = execVsra d a b k ty s := rfl
@[simp] theorem exec_vabs (d : VReg) (a : VReg) (k : MReg) (ty : VType) (s : State) : exec (.vabs d a k ty) s = execVabs d a k ty s := rfl
@[simp] theorem exec_vneg (d : VReg) (a : VReg) (k : MReg) (ty : VType) (s : State) : exec (.vneg d a k ty) s = execVneg d a k ty s := rfl
@[simp] theorem exec_vcmpeq (d : MReg) (a : VReg) (b : VReg) (k : MReg) (ty : VType) (s : State) : exec (.vcmpeq d a b k ty) s = execVcmpeq d a b k ty s := rfl
@[simp] theorem exec_vcmplt (d : MReg) (a : VReg) (b : VReg) (k : MReg) (ty : VType) (s : State) : exec (.vcmplt d a b k ty) s = execVcmplt d a b k ty s := rfl
@[simp] theorem exec_vcmple (d : MReg) (a : VReg) (b : VReg) (k : MReg) (ty : VType) (s : State) : exec (.vcmple d a b k ty) s = execVcmple d a b k ty s := rfl
@[simp] theorem exec_vsel (d : VReg) (a : VReg) (b : VReg) (k : MReg) (s : State) : exec (.vsel d a b k) s = execVsel d a b k s := rfl
@[simp] theorem exec_vmov (d : VReg) (a : VReg) (k : MReg) (s : State) : exec (.vmov d a k) s = execVmov d a k s := rfl
@[simp] theorem exec_vbcast (d : VReg) (b : BitVec 5) (k : MReg) (ty : VType) (s : State) : exec (.vbcast d b k ty) s = execVbcast d b k ty s := rfl
@[simp] theorem exec_vext (d : BitVec 5) (a : VReg) (b : BitVec 5) (k : MReg) (ty : VType) (s : State) : exec (.vext d a b k ty) s = execVext d a b k ty s := rfl
@[simp] theorem exec_vperm (d : VReg) (a : VReg) (b : VReg) (k : MReg) (s : State) : exec (.vperm d a b k) s = execVperm d a b k s := rfl
@[simp] theorem exec_vcvt (d : VReg) (a : VReg) (rm : BitVec 2) (src : VType) (k : MReg) (ty : VType) (s : State) : exec (.vcvt d a rm src k ty) s = execVcvt d a rm src k ty s := rfl
@[simp] theorem exec_vrcp (d : VReg) (a : VReg) (k : MReg) (s : State) : exec (.vrcp d a k) s = execVrcp d a k s := rfl
@[simp] theorem exec_vrsq (d : VReg) (a : VReg) (k : MReg) (s : State) : exec (.vrsq d a k) s = execVrsq d a k s := rfl
@[simp] theorem exec_vexp2 (d : VReg) (a : VReg) (k : MReg) (s : State) : exec (.vexp2 d a k) s = execVexp2 d a k s := rfl
@[simp] theorem exec_vlut (d : VReg) (a : VReg) (b : BitVec 5) (k : MReg) (ty : VType) (s : State) : exec (.vlut d a b k ty) s = execVlut d a b k ty s := rfl
@[simp] theorem exec_vunpk3 (d : VReg) (a : VReg) (sub : Bool) (h : BitVec 3) (k : MReg) (s : State) : exec (.vunpk3 d a sub h k) s = execVunpk3 d a sub h k s := rfl
@[simp] theorem exec_vtacc (d : VReg) (a : VReg) (b : VReg) (k : MReg) (ty : VType) (s : State) : exec (.vtacc d a b k ty) s = execVtacc d a b k ty s := rfl
@[simp] theorem exec_vdot4 (d : VReg) (a : VReg) (b : VReg) (k : MReg) (ty : VType) (s : State) : exec (.vdot4 d a b k ty) s = execVdot4 d a b k ty s := rfl
@[simp] theorem exec_vlds (d : VReg) (a : BitVec 5) (im : BitVec 5) (k : MReg) (s : State) : exec (.vlds d a im k) s = execVlds d a im k s := rfl
@[simp] theorem exec_vsts (d : VReg) (a : BitVec 5) (im : BitVec 5) (k : MReg) (s : State) : exec (.vsts d a im k) s = execVsts d a im k s := rfl
@[simp] theorem exec_vldt (d : VReg) (t : TReg) (b : BitVec 5) (k : MReg) (s : State) : exec (.vldt d t b k) s = execVldt d t b k s := rfl
@[simp] theorem exec_vstt (d : VReg) (t : TReg) (b : BitVec 5) (k : MReg) (s : State) : exec (.vstt d t b k) s = execVstt d t b k s := rfl
@[simp] theorem exec_vldg (d : VReg) (h : HReg) (b : BitVec 5) (k : MReg) (s : State) : exec (.vldg d h b k) s = execVldg d h b k s := rfl
@[simp] theorem exec_vstg (d : VReg) (h : HReg) (b : BitVec 5) (k : MReg) (s : State) : exec (.vstg d h b k) s = execVstg d h b k s := rfl
@[simp] theorem exec_vgaths (d : VReg) (a : BitVec 5) (b : VReg) (k : MReg) (s : State) : exec (.vgaths d a b k) s = execVgaths d a b k s := rfl
@[simp] theorem exec_vscats (d : VReg) (a : BitVec 5) (b : VReg) (k : MReg) (s : State) : exec (.vscats d a b k) s = execVscats d a b k s := rfl
@[simp] theorem exec_vrsum (d : BitVec 5) (a : VReg) (k : MReg) (ty : VType) (s : State) : exec (.vrsum d a k ty) s = execVrsum d a k ty s := rfl
@[simp] theorem exec_vrmax (d : BitVec 5) (a : VReg) (k : MReg) (ty : VType) (s : State) : exec (.vrmax d a k ty) s = execVrmax d a k ty s := rfl
@[simp] theorem exec_vrmin (d : BitVec 5) (a : VReg) (k : MReg) (ty : VType) (s : State) : exec (.vrmin d a k ty) s = execVrmin d a k ty s := rfl
@[simp] theorem exec_vpfx (d : VReg) (a : VReg) (k : MReg) (ty : VType) (s : State) : exec (.vpfx d a k ty) s = execVpfx d a k ty s := rfl
@[simp] theorem exec_vmsk (d : BitVec 5) (a : BitVec 5) (b : BitVec 5) (f : MskFunc) (s : State) : exec (.vmsk d a b f) s = execVmsk d a b f s := rfl
@[simp] theorem exec_vpop (d : BitVec 5) (a : MReg) (s : State) : exec (.vpop d a) s = execVpop d a s := rfl
@[simp] theorem exec_vcomp (d : VReg) (a : VReg) (k : MReg) (s : State) : exec (.vcomp d a k) s = execVcomp d a k s := rfl
@[simp] theorem exec_viota (d : VReg) (k : MReg) (s : State) : exec (.viota d k) s = execViota d k s := rfl
@[simp] theorem exec_nset (n : BitVec 6) (a : GReg) (ta : Bool) (s : State) : exec (.nset n a ta) s = execNset n a ta s := rfl
@[simp] theorem exec_nclr (s : State) : exec (.nclr) s = execNclr s := rfl
@[simp] theorem exec_msrc (n : BitVec 6) (a : GReg) (ta : Bool) (s : State) : exec (.msrc n a ta) s = execMsrc n a ta s := rfl
@[simp] theorem exec_mdst (d : GReg) (a : GReg) (b : GReg) (ta : Bool) (tb : Bool) (s : State) : exec (.mdst d a b ta tb) s = execMdst d a b ta tb s := rfl
@[simp] theorem exec_mepi (n : BitVec 2) (a : GReg) (ta : Bool) (s : State) : exec (.mepi n a ta) s = execMepi n a ta s := rfl
@[simp] theorem exec_mmode (c : BitVec 3) (w : BitVec 2) (ord : Bool) (asg : Bool) (s : State) : exec (.mmode c w ord asg) s = execMmode c w ord asg s := rfl
@[simp] theorem exec_mgo (fa : Fmt) (fb : Fmt) (acc : Acc) (v : GReg) (tv : Bool) (s : State) : exec (.mgo fa fb acc v tv) s = execMgo fa fb acc v tv s := rfl
@[simp] theorem exec_mwait (s : State) : exec (.mwait) s = execMwait s := rfl
@[simp] theorem exec_mdrain (n : BitVec 2) (ds : Bool) (quant : Bool) (act : Bool) (bias : Bool) (a : GReg) (ipl : Bool) (satm : Bool) (ta : Bool) (s : State) : exec (.mdrain n ds quant act bias a ipl satm ta) s = execMdrain n ds quant act bias a ipl satm ta s := rfl
@[simp] theorem exec_mazero (n : BitVec 2) (s : State) : exec (.mazero n) s = execMazero n s := rfl
@[simp] theorem exec_mscacc (n : BitVec 2) (sfa : Bool) (sfb : Bool) (nsa : Bool) (nsb : Bool) (a : GReg) (b : GReg) (ta : Bool) (tb : Bool) (s : State) : exec (.mscacc n sfa sfb nsa nsb a b ta tb) s = execMscacc n sfa sfb nsa nsb a b ta tb s := rfl
@[simp] theorem exec_mstat (d : GReg) (s : State) : exec (.mstat d) s = execMstat d s := rfl
@[simp] theorem exec_mlut (a : GReg) (ta : Bool) (s : State) : exec (.mlut a ta) s = execMlut a ta s := rfl
@[simp] theorem exec_rst (d : GReg) (a : GReg) (sz : Size) (ta : Bool) (s : State) : exec (.rst d a sz ta) s = execRst d a sz ta s := rfl
@[simp] theorem exec_rld (d : GReg) (a : GReg) (sz : Size) (ta : Bool) (s : State) : exec (.rld d a sz ta) s = execRld d a sz ta s := rfl
@[simp] theorem exec_cnlaL (d : GReg) (a : GReg) (h : HReg) (ta : Bool) (s : State) : exec (.cnlaL d a h ta) s = execCnlaL d a h ta s := rfl
@[simp] theorem exec_cnlaI (d : GReg) (a : GReg) (h : HReg) (ta : Bool) (s : State) : exec (.cnlaI d a h ta) s = execCnlaI d a h ta s := rfl
@[simp] theorem exec_cnld (d : GReg) (a : GReg) (h : HReg) (ta : Bool) (s : State) : exec (.cnld d a h ta) s = execCnld d a h ta s := rfl
@[simp] theorem exec_cnhold (d : GReg) (h : HReg) (s : State) : exec (.cnhold d h) s = execCnhold d h s := rfl
@[simp] theorem exec_cndrop (d : GReg) (h : HReg) (s : State) : exec (.cndrop d h) s = execCndrop d h s := rfl
@[simp] theorem exec_rswap (d : GReg) (a : GReg) (h : HReg) (ta : Bool) (s : State) : exec (.rswap d a h ta) s = execRswap d a h ta s := rfl
@[simp] theorem exec_rget (d : GReg) (hr : HReg) (hc : HReg) (s : State) : exec (.rget d hr hc) s = execRget d hr hc s := rfl
@[simp] theorem exec_cnhash (d : GReg) (a : GReg) (h : HReg) (ta : Bool) (s : State) : exec (.cnhash d a h ta) s = execCnhash d a h ta s := rfl
@[simp] theorem exec_fst (d : GReg) (a : GReg) (b : GReg) (ta : Bool) (tb : Bool) (s : State) : exec (.fst d a b ta tb) s = execFst d a b ta tb s := rfl
@[simp] theorem exec_fld (d : GReg) (a : GReg) (b : GReg) (ta : Bool) (tb : Bool) (s : State) : exec (.fld d a b ta tb) s = execFld d a b ta tb s := rfl
@[simp] theorem exec_famo (d : GReg) (a : GReg) (b : GReg) (ta : Bool) (tb : Bool) (s : State) : exec (.famo d a b ta tb) s = execFamo d a b ta tb s := rfl
@[simp] theorem exec_ffence (s : State) : exec (.ffence) s = execFfence s := rfl
@[simp] theorem exec_fwait (d : GReg) (s : State) : exec (.fwait d) s = execFwait d s := rfl
@[simp] theorem exec_glaunch (a : GReg) (b : GReg) (ta : Bool) (tb : Bool) (s : State) : exec (.glaunch a b ta tb) s = execGlaunch a b ta tb s := rfl
@[simp] theorem exec_cNop (s : State) : exec (.cNop) s = execCNop s := rfl
@[simp] theorem exec_cHalt (s : State) : exec (.cHalt) s = execCHalt s := rfl
@[simp] theorem exec_cYield (s : State) : exec (.cYield) s = execCYield s := rfl
@[simp] theorem exec_cBrk (s : State) : exec (.cBrk) s = execCBrk s := rfl
@[simp] theorem exec_cIf (p : PReg) (s : State) : exec (.cIf p) s = execCIf p s := rfl
@[simp] theorem exec_cIfn (p : PReg) (s : State) : exec (.cIfn p) s = execCIfn p s := rfl
@[simp] theorem exec_cMov (d : GReg) (a : GReg) (s : State) : exec (.cMov d a) s = execCMov d a s := rfl
@[simp] theorem exec_cAddi (d : BitVec 4) (im : BitVec 8) (s : State) : exec (.cAddi d im) s = execCAddi d im s := rfl
@[simp] theorem exec_cAdd (d : GReg) (b : GReg) (s : State) : exec (.cAdd d b) s = execCAdd d b s := rfl
@[simp] theorem exec_cSub (d : GReg) (b : GReg) (s : State) : exec (.cSub d b) s = execCSub d b s := rfl
@[simp] theorem exec_cLdsD (d : BitVec 4) (a : BitVec 4) (o : BitVec 4) (s : State) : exec (.cLdsD d a o) s = execCLdsD d a o s := rfl
@[simp] theorem exec_cStsD (d : BitVec 4) (a : BitVec 4) (o : BitVec 4) (s : State) : exec (.cStsD d a o) s = execCStsD d a o s := rfl
@[simp] theorem exec_cBr (o : BitVec 12) (s : State) : exec (.cBr o) s = execCBr o s := rfl
@[simp] theorem exec_cKsig (k : BitVec 8) (amt : BitVec 4) (s : State) : exec (.cKsig k amt) s = execCKsig k amt s := rfl
@[simp] theorem exec_cKwait (k : BitVec 8) (amt : BitVec 4) (s : State) : exec (.cKwait k amt) s = execCKwait k amt s := rfl
@[simp] theorem exec_cTrel (t : TReg) (s : State) : exec (.cTrel t) s = execCTrel t s := rfl
@[simp] theorem exec_cTmark (t : TReg) (s : State) : exec (.cTmark t) s = execCTmark t s := rfl
@[simp] theorem exec_cShli (d : GReg) (n : BitVec 6) (s : State) : exec (.cShli d n) s = execCShli d n s := rfl
@[simp] theorem exec_cLi (d : BitVec 4) (im : BitVec 8) (s : State) : exec (.cLi d im) s = execCLi d im s := rfl
@[simp] theorem exec_copyin (c : CoreId) (q : QueueId) (s : State) : exec (.copyin c q) s = execCopyin c q s := rfl
@[simp] theorem exec_copyout (c : CoreId) (q : QueueId) (s : State) : exec (.copyout c q) s = execCopyout c q s := rfl
@[simp] theorem exec_decode (c : CoreId) (q : QueueId) (s : State) : exec (.decode c q) s = execDecode c q s := rfl
@[simp] theorem exec_encode (c : CoreId) (q : QueueId) (s : State) : exec (.encode c q) s = execEncode c q s := rfl
@[simp] theorem exec_fill (c : CoreId) (q : QueueId) (s : State) : exec (.fill c q) s = execFill c q s := rfl
@[simp] theorem exec_compact (c : CoreId) (q : QueueId) (s : State) : exec (.compact c q) s = execCompact c q s := rfl
@[simp] theorem exec_qfence (c : CoreId) (q : QueueId) (s : State) : exec (.qfence c q) s = execQfence c q s := rfl
@[simp] theorem exec_layset (c : CoreId) (q : QueueId) (s : State) : exec (.layset c q) s = execLayset c q s := rfl
@[simp] theorem exec_laysync (c : CoreId) (q : QueueId) (s : State) : exec (.laysync c q) s = execLaysync c q s := rfl
@[simp] theorem exec_resume (c : CoreId) (q : QueueId) (s : State) : exec (.resume c q) s = execResume c q s := rfl
@[simp] theorem exec_gather (c : CoreId) (q : QueueId) (s : State) : exec (.gather c q) s = execGather c q s := rfl
@[simp] theorem exec_scatter (c : CoreId) (q : QueueId) (s : State) : exec (.scatter c q) s = execScatter c q s := rfl
@[simp] theorem exec_scatadd (c : CoreId) (q : QueueId) (s : State) : exec (.scatadd c q) s = execScatadd c q s := rfl
@[simp] theorem exec_madd (c : CoreId) (q : QueueId) (s : State) : exec (.madd c q) s = execMadd c q s := rfl
@[simp] theorem exec_mpfx (c : CoreId) (q : QueueId) (s : State) : exec (.mpfx c q) s = execMpfx c q s := rfl
@[simp] theorem exec_munion (c : CoreId) (q : QueueId) (s : State) : exec (.munion c q) s = execMunion c q s := rfl
@[simp] theorem exec_rsend (c : CoreId) (q : QueueId) (s : State) : exec (.rsend c q) s = execRsend c q s := rfl
@[simp] theorem exec_rfetch (c : CoreId) (q : QueueId) (s : State) : exec (.rfetch c q) s = execRfetch c q s := rfl
@[simp] theorem exec_rsignal (c : CoreId) (q : QueueId) (s : State) : exec (.rsignal c q) s = execRsignal c q s := rfl
@[simp] theorem exec_cnout (c : CoreId) (q : QueueId) (s : State) : exec (.cnout c q) s = execCnout c q s := rfl
@[simp] theorem exec_cnin (c : CoreId) (q : QueueId) (s : State) : exec (.cnin c q) s = execCnin c q s := rfl
@[simp] theorem exec_cndiff (c : CoreId) (q : QueueId) (s : State) : exec (.cndiff c q) s = execCndiff c q s := rfl
@[simp] theorem exec_jobPop (c : CoreId) (q : QueueId) (s : State) : exec (.jobPop c q) s = execJobPop c q s := rfl
@[simp] theorem exec_semaphoreCycle (c : CoreId) (s : State) : exec (.semaphoreCycle c) s = execSemaphoreCycle c s := rfl
@[simp] theorem exec_ktwaitTimeout (w : Who) (til : Nat) (s : State) : exec (.ktwaitTimeout w til) s = execKtwaitTimeout w til s := rfl
@[simp] theorem exec_tileBitApply (c : CoreId) (s : State) : exec (.tileBitApply c) s = execTileBitApply c s := rfl
@[simp] theorem exec_leaveGrant (d : DieId) (s : State) : exec (.leaveGrant d) s = execLeaveGrant d s := rfl
@[simp] theorem exec_jobComplete (c : CoreId) (q : QueueId) (s : State) : exec (.jobComplete c q) s = execJobComplete c q s := rfl
@[simp] theorem exec_jobsDropped (c : CoreId) (q : QueueId) (s : State) : exec (.jobsDropped c q) s = execJobsDropped c q s := rfl
@[simp] theorem exec_gregFill (w : Who) (d : GReg) (x : Dword) (s : State) : exec (.gregFill w d x) s = execGregFill w d x s := rfl
@[simp] theorem exec_walkComplete (w : Who) (h : HReg) (x : SpaceAddr) (s : State) : exec (.walkComplete w h x) s = execWalkComplete w h x s := rfl
@[simp] theorem exec_walkRestart (w : Who) (h : HReg) (x : SpaceAddr) (s : State) : exec (.walkRestart w h x) s = execWalkRestart w h x s := rfl
@[simp] theorem exec_engineLeaseRenew (c : CoreId) (q : QueueId) (s : State) : exec (.engineLeaseRenew c q) s = execEngineLeaseRenew c q s := rfl
@[simp] theorem exec_codeFetch (w : Who) (va : Dword) (s : State) : exec (.codeFetch w va) s = execCodeFetch w va s := rfl
@[simp] theorem exec_homeAccess (a : Access) (s : State) : exec (.homeAccess a) s = execHomeAccess a s := rfl
@[simp] theorem exec_crossdieWriteApply (d : DieId) (s : State) : exec (.crossdieWriteApply d) s = execCrossdieWriteApply d s := rfl
@[simp] theorem exec_appliedCountReport (d : DieId) (s : State) : exec (.appliedCountReport d) s = execAppliedCountReport d s := rfl
@[simp] theorem exec_atomicWriteback (sc : Scope) (point : Nat) (loc : Nat) (s : State) : exec (.atomicWriteback sc point loc) s = execAtomicWriteback sc point loc s := rfl
@[simp] theorem exec_flushComplete (w : Who) (s : State) : exec (.flushComplete w) s = execFlushComplete w s := rfl
@[simp] theorem exec_hostAccess (pa : Nat) (n : Nat) (wr : Bool) (x : Dword) (s : State) : exec (.hostAccess pa n wr x) s = execHostAccess pa n wr x s := rfl
@[simp] theorem exec_clusterAccess (w : Who) (tgt : CoreId) (off : Nat) (n : Nat) (x : Option Dword) (d : GReg) (s : State) : exec (.clusterAccess w tgt off n x d) s = execClusterAccess w tgt off n x d s := rfl
@[simp] theorem exec_barrierApply (k : ClusterId) (s : State) : exec (.barrierApply k) s = execBarrierApply k s := rfl
@[simp] theorem exec_ctwaitTimeout (w : Who) (til : Nat) (s : State) : exec (.ctwaitTimeout w til) s = execCtwaitTimeout w til s := rfl
@[simp] theorem exec_multicastTimeout (c : CoreId) (til : Nat) (s : State) : exec (.multicastTimeout c til) s = execMulticastTimeout c til s := rfl
@[simp] theorem exec_multicastLoad (c : CoreId) (s : State) : exec (.multicastLoad c) s = execMulticastLoad c s := rfl
@[simp] theorem exec_stepBegin (c : CoreId) (s : State) : exec (.stepBegin c) s = execStepBegin c s := rfl
@[simp] theorem exec_laneEvaluate (c : CoreId) (lane : Fin 64) (s : State) : exec (.laneEvaluate c lane) s = execLaneEvaluate c lane s := rfl
@[simp] theorem exec_windowLoad (c : CoreId) (s : State) : exec (.windowLoad c) s = execWindowLoad c s := rfl
@[simp] theorem exec_rodTakeItem (c : CoreId) (rod : Fin 64) (s : State) : exec (.rodTakeItem c rod) s = execRodTakeItem c rod s := rfl
@[simp] theorem exec_itemArrival (c : CoreId) (rod : Fin 64) (s : State) : exec (.itemArrival c rod) s = execItemArrival c rod s := rfl
@[simp] theorem exec_frameJobComplete (c : CoreId) (s : State) : exec (.frameJobComplete c) s = execFrameJobComplete c s := rfl
@[simp] theorem exec_frameJobPause (c : CoreId) (s : State) : exec (.frameJobPause c) s = execFrameJobPause c s := rfl
@[simp] theorem exec_drainRowWrite (c : CoreId) (s : State) : exec (.drainRowWrite c) s = execDrainRowWrite c s := rfl
@[simp] theorem exec_mlutCopyDone (c : CoreId) (s : State) : exec (.mlutCopyDone c) s = execMlutCopyDone c s := rfl
@[simp] theorem exec_reclaimLine (s : State) : exec (.reclaimLine) s = execReclaimLine s := rfl
@[simp] theorem exec_instanceDispatch (s : State) : exec (.instanceDispatch) s = execInstanceDispatch s := rfl
@[simp] theorem exec_preemptRequest (s : State) : exec (.preemptRequest) s = execPreemptRequest s := rfl
@[simp] theorem exec_instanceSave (k : Nat) (s : State) : exec (.instanceSave k) s = execInstanceSave k s := rfl
@[simp] theorem exec_instanceResume (k : Nat) (s : State) : exec (.instanceResume k) s = execInstanceResume k s := rfl
@[simp] theorem exec_suspendTimeout (k : Nat) (s : State) : exec (.suspendTimeout k) s = execSuspendTimeout k s := rfl
@[simp] theorem exec_instanceRetire (k : Nat) (s : State) : exec (.instanceRetire k) s = execInstanceRetire k s := rfl
@[simp] theorem exec_safepointOverrun (w : Who) (s : State) : exec (.safepointOverrun w) s = execSafepointOverrun w s := rfl
@[simp] theorem exec_deadlockFault (c : CoreId) (s : State) : exec (.deadlockFault c) s = execDeadlockFault c s := rfl
@[simp] theorem exec_doorbellRecord (n : Nat) (x : Dword) (s : State) : exec (.doorbellRecord n x) s = execDoorbellRecord n x s := rfl
@[simp] theorem exec_restart (n : Nat) (s : State) : exec (.restart n) s = execRestart n s := rfl
@[simp] theorem exec_reload (n : Nat) (s : State) : exec (.reload n) s = execReload n s := rfl
@[simp] theorem exec_wqConsume (q : Nat) (s : State) : exec (.wqConsume q) s = execWqConsume q s := rfl
@[simp] theorem exec_devqConsume (q : Nat) (s : State) : exec (.devqConsume q) s = execDevqConsume q s := rfl
@[simp] theorem exec_launch (q : Nat) (e : Dword) (s : State) : exec (.launch q e) s = execLaunch q e s := rfl
@[simp] theorem exec_struct (q : Nat) (e : Dword) (s : State) : exec (.struct q e) s = execStruct q e s := rfl
@[simp] theorem exec_conditionalRead (r : Nat) (im : Nat) (s : State) : exec (.conditionalRead r im) s = execConditionalRead r im s := rfl
@[simp] theorem exec_replayDone (r : Nat) (s : State) : exec (.replayDone r) s = execReplayDone r s := rfl
@[simp] theorem exec_loadFigure (s : State) : exec (.loadFigure) s = execLoadFigure s := rfl
@[simp] theorem exec_stealRequest (s : State) : exec (.stealRequest) s = execStealRequest s := rfl
@[simp] theorem exec_stealGrant (p : Port) (slots : Nat) (s : State) : exec (.stealGrant p slots) s = execStealGrant p slots s := rfl
@[simp] theorem exec_stolenArrival (p : Port) (x : Stolen) (s : State) : exec (.stolenArrival p x) s = execStolenArrival p x s := rfl
@[simp] theorem exec_stealRetireReport (k : Nat) (s : State) : exec (.stealRetireReport k) s = execStealRetireReport k s := rfl
@[simp] theorem exec_lcuMeasure (d : DieId) (ofs : Int) (s : State) : exec (.lcuMeasure d ofs) s = execLcuMeasure d ofs s := rfl
@[simp] theorem exec_skewResync (d : DieId) (s : State) : exec (.skewResync d) s = execSkewResync d s := rfl
@[simp] theorem exec_skewResyncTimeout (d : DieId) (s : State) : exec (.skewResyncTimeout d) s = execSkewResyncTimeout d s := rfl
@[simp] theorem exec_dieFence (d : DieId) (s : State) : exec (.dieFence d) s = execDieFence d s := rfl
@[simp] theorem exec_masterElection (s : State) : exec (.masterElection) s = execMasterElection s := rfl
@[simp] theorem exec_migrationArm (d : DieId) (e : MigId) (x : Dword) (s : State) : exec (.migrationArm d e x) s = execMigrationArm d e x s := rfl
@[simp] theorem exec_migrationRemove (d : DieId) (e : MigId) (s : State) : exec (.migrationRemove d e) s = execMigrationRemove d e s := rfl
@[simp] theorem exec_migrationLineCopy (d : DieId) (e : MigId) (s : State) : exec (.migrationLineCopy d e) s = execMigrationLineCopy d e s := rfl
@[simp] theorem exec_moduleStart (u : Startup) (s : State) : exec (.moduleStart u) s = execModuleStart u s := rfl
@[simp] theorem exec_tamperAlarm (s : State) : exec (.tamperAlarm) s = execTamperAlarm s := rfl
@[simp] theorem exec_voltageGlitch (s : State) : exec (.voltageGlitch) s = execVoltageGlitch s := rfl
@[simp] theorem exec_clockGlitch (s : State) : exec (.clockGlitch) s = execClockGlitch s := rfl
@[simp] theorem exec_coolantThrottle (d : DieId) (s : State) : exec (.coolantThrottle d) s = execCoolantThrottle d s := rfl
@[simp] theorem exec_pwrcapWrite (d : DieId) (x : Dword) (s : State) : exec (.pwrcapWrite d x) s = execPwrcapWrite d x s := rfl
@[simp] theorem exec_secstatAdv (s : State) : exec (.secstatAdv) s = execSecstatAdv s := rfl
@[simp] theorem exec_alarmpolWrite (x : Dword) (s : State) : exec (.alarmpolWrite x) s = execAlarmpolWrite x s := rfl
@[simp] theorem exec_registerWrite (off : Nat) (x : Dword) (host : Bool) (s : State) : exec (.registerWrite off x host) s = execRegisterWrite off x host s := rfl
@[simp] theorem exec_fabrd (s : State) : exec (.fabrd) s = execFabrd s := rfl
@[simp] theorem exec_fabwr (s : State) : exec (.fabwr) s = execFabwr s := rfl
@[simp] theorem exec_kempub (s : State) : exec (.kempub) s = execKempub s := rfl
@[simp] theorem exec_kekset (s : State) : exec (.kekset) s = execKekset s := rfl
@[simp] theorem exec_linkkey (s : State) : exec (.linkkey) s = execLinkkey s := rfl
@[simp] theorem exec_cnkey (s : State) : exec (.cnkey) s = execCnkey s := rfl
@[simp] theorem exec_cnkeyclr (s : State) : exec (.cnkeyclr) s = execCnkeyclr s := rfl
@[simp] theorem exec_spareret (s : State) : exec (.spareret) s = execSpareret s := rfl
@[simp] theorem exec_quote (s : State) : exec (.quote) s = execQuote s := rfl
@[simp] theorem exec_mailboxComplete (s : State) : exec (.mailboxComplete) s = execMailboxComplete s := rfl
@[simp] theorem exec_flitSend (p : Port) (d : DieId) (s : State) : exec (.flitSend p d) s = execFlitSend p d s := rfl
@[simp] theorem exec_flitReceive (p : Port) (d : DieId) (f : Flit) (s : State) : exec (.flitReceive p d f) s = execFlitReceive p d f s := rfl
@[simp] theorem exec_nakReceive (p : Port) (d : DieId) (ack : BitVec 12) (s : State) : exec (.nakReceive p d ack) s = execNakReceive p d ack s := rfl
@[simp] theorem exec_retrainDone (p : Port) (d : DieId) (s : State) : exec (.retrainDone p d) s = execRetrainDone p d s := rfl
@[simp] theorem exec_retrainTimeout (p : Port) (d : DieId) (til : Nat) (s : State) : exec (.retrainTimeout p d til) s = execRetrainTimeout p d til s := rfl
@[simp] theorem exec_laneRepair (p : Port) (tx : Bool) (d : DieId) (s : State) : exec (.laneRepair p tx d) s = execLaneRepair p tx d s := rfl
@[simp] theorem exec_write (d : DieId) (x : Packet) (s : State) : exec (.write d x) s = execWrite d x s := rfl
@[simp] theorem exec_read (d : DieId) (x : Packet) (s : State) : exec (.read d x) s = execRead d x s := rfl
@[simp] theorem exec_readresp (x : Packet) (s : State) : exec (.readresp x) s = execReadresp x s := rfl
@[simp] theorem exec_atomic (d : DieId) (x : Packet) (s : State) : exec (.atomic d x) s = execAtomic d x s := rfl
@[simp] theorem exec_atomresp (x : Packet) (s : State) : exec (.atomresp x) s = execAtomresp x s := rfl
@[simp] theorem exec_signal (d : DieId) (x : Packet) (s : State) : exec (.signal d x) s = execSignal d x s := rfl
@[simp] theorem exec_ack (x : Packet) (s : State) : exec (.ack x) s = execAck x s := rfl
@[simp] theorem exec_steal (p : Port) (x : StealMsg) (s : State) : exec (.steal p x) s = execSteal p x s := rfl
@[simp] theorem exec_heldRequestTimeout (d : DieId) (n : Nat) (s : State) : exec (.heldRequestTimeout d n) s = execHeldRequestTimeout d n s := rfl
@[simp] theorem exec_remoteTimeout (t : Word) (s : State) : exec (.remoteTimeout t) s = execRemoteTimeout t s := rfl
@[simp] theorem exec_clusterNetworkFlitFailure (w : Who) (s : State) : exec (.clusterNetworkFlitFailure w) s = execClusterNetworkFlitFailure w s := rfl
@[simp] theorem exec_coolantBelowLimit (d : DieId) (s : State) : exec (.coolantBelowLimit d) s = execCoolantBelowLimit d s := rfl
@[simp] theorem exec_contentNamedOperation (x : CnReq) (s : State) : exec (.contentNamedOperation x) s = execContentNamedOperation x s := rfl
@[simp] theorem exec_vldgLanesArrive (w : Who) (d : VReg) (mask : Dword) (s : State) : exec (.vldgLanesArrive w d mask) s = execVldgLanesArrive w d mask s := rfl
@[simp] theorem exec_replicaAcknowledge (d : DieId) (s : State) : exec (.replicaAcknowledge d) s = execReplicaAcknowledge d s := rfl

end Sys2Proof.Machine
end

