-- ==== Sys2Proof/Laws/State.lean ====
section
/-!
SUPPORT. What each update of the state leaves as it was, field by field, and what an accessor reads after it.
-/

namespace Sys2Proof.Machine

/-! ### The package -/

@[simp] theorem State.setCore_clusters (s : State) (c : CoreId) (x : Core) : (s.setCore c x).clusters = s.clusters := rfl
@[simp] theorem State.setCore_dies (s : State) (c : CoreId) (x : Core) : (s.setCore c x).dies = s.dies := rfl
@[simp] theorem State.setCore_insts (s : State) (c : CoreId) (x : Core) : (s.setCore c x).insts = s.insts := rfl
@[simp] theorem State.setCore_dist (s : State) (c : CoreId) (x : Core) : (s.setCore c x).dist = s.dist := rfl
@[simp] theorem State.setCore_plat (s : State) (c : CoreId) (x : Core) : (s.setCore c x).plat = s.plat := rfl
@[simp] theorem State.setCore_fab (s : State) (c : CoreId) (x : Core) : (s.setCore c x).fab = s.fab := rfl
@[simp] theorem State.setCore_reclaim (s : State) (c : CoreId) (x : Core) : (s.setCore c x).reclaim = s.reclaim := rfl
@[simp] theorem State.setCore_mem (s : State) (c : CoreId) (x : Core) : (s.setCore c x).mem = s.mem := rfl
@[simp] theorem State.setCore_flaws (s : State) (c : CoreId) (x : Core) : (s.setCore c x).flaws = s.flaws := rfl
@[simp] theorem State.setCore_unseen (s : State) (c : CoreId) (x : Core) : (s.setCore c x).unseen = s.unseen := rfl
@[simp] theorem State.setCore_stamps (s : State) (c : CoreId) (x : Core) : (s.setCore c x).stamps = s.stamps := rfl
@[simp] theorem State.setCore_held (s : State) (c : CoreId) (x : Core) : (s.setCore c x).held = s.held := rfl
@[simp] theorem State.setCore_slices (s : State) (c : CoreId) (x : Core) : (s.setCore c x).slices = s.slices := rfl
@[simp] theorem State.setCore_posts (s : State) (c : CoreId) (x : Core) : (s.setCore c x).posts = s.posts := rfl
@[simp] theorem State.setCore_time (s : State) (c : CoreId) (x : Core) : (s.setCore c x).time = s.time := rfl
@[simp] theorem State.setCore_now (s : State) (c : CoreId) (x : Core) : (s.setCore c x).now = s.now := rfl
@[simp] theorem State.setCore_cycle (s : State) (c : CoreId) (x : Core) : (s.setCore c x).cycle = s.cycle := rfl
@[simp] theorem State.setCore_peer (s : State) (c : CoreId) (x : Core) : (s.setCore c x).peer = s.peer := rfl
@[simp] theorem State.setCore_hostRead (s : State) (c : CoreId) (x : Core) : (s.setCore c x).hostRead = s.hostRead := rfl
@[simp] theorem State.setCore_turn (s : State) (c : CoreId) (x : Core) : (s.setCore c x).turn = s.turn := rfl
@[simp] theorem State.setCore_roster (s : State) (c : CoreId) (x : Core) : (s.setCore c x).roster = s.roster := rfl
@[simp] theorem State.setCore_agenda (s : State) (c : CoreId) (x : Core) : (s.setCore c x).agenda = s.agenda := rfl
@[simp] theorem State.setCore_timers (s : State) (c : CoreId) (x : Core) : (s.setCore c x).timers = s.timers := rfl
@[simp] theorem State.setCore_fresh (s : State) (c : CoreId) (x : Core) : (s.setCore c x).fresh = s.fresh := rfl
@[simp] theorem State.setStrand_clusters (s : State) (w : Who) (z : Strand) : (s.setStrand w z).clusters = s.clusters := rfl
@[simp] theorem State.setStrand_dies (s : State) (w : Who) (z : Strand) : (s.setStrand w z).dies = s.dies := rfl
@[simp] theorem State.setStrand_insts (s : State) (w : Who) (z : Strand) : (s.setStrand w z).insts = s.insts := rfl
@[simp] theorem State.setStrand_dist (s : State) (w : Who) (z : Strand) : (s.setStrand w z).dist = s.dist := rfl
@[simp] theorem State.setStrand_plat (s : State) (w : Who) (z : Strand) : (s.setStrand w z).plat = s.plat := rfl
@[simp] theorem State.setStrand_fab (s : State) (w : Who) (z : Strand) : (s.setStrand w z).fab = s.fab := rfl
@[simp] theorem State.setStrand_reclaim (s : State) (w : Who) (z : Strand) : (s.setStrand w z).reclaim = s.reclaim := rfl
@[simp] theorem State.setStrand_mem (s : State) (w : Who) (z : Strand) : (s.setStrand w z).mem = s.mem := rfl
@[simp] theorem State.setStrand_flaws (s : State) (w : Who) (z : Strand) : (s.setStrand w z).flaws = s.flaws := rfl
@[simp] theorem State.setStrand_unseen (s : State) (w : Who) (z : Strand) : (s.setStrand w z).unseen = s.unseen := rfl
@[simp] theorem State.setStrand_stamps (s : State) (w : Who) (z : Strand) : (s.setStrand w z).stamps = s.stamps := rfl
@[simp] theorem State.setStrand_held (s : State) (w : Who) (z : Strand) : (s.setStrand w z).held = s.held := rfl
@[simp] theorem State.setStrand_slices (s : State) (w : Who) (z : Strand) : (s.setStrand w z).slices = s.slices := rfl
@[simp] theorem State.setStrand_posts (s : State) (w : Who) (z : Strand) : (s.setStrand w z).posts = s.posts := rfl
@[simp] theorem State.setStrand_time (s : State) (w : Who) (z : Strand) : (s.setStrand w z).time = s.time := rfl
@[simp] theorem State.setStrand_now (s : State) (w : Who) (z : Strand) : (s.setStrand w z).now = s.now := rfl
@[simp] theorem State.setStrand_cycle (s : State) (w : Who) (z : Strand) : (s.setStrand w z).cycle = s.cycle := rfl
@[simp] theorem State.setStrand_peer (s : State) (w : Who) (z : Strand) : (s.setStrand w z).peer = s.peer := rfl
@[simp] theorem State.setStrand_hostRead (s : State) (w : Who) (z : Strand) : (s.setStrand w z).hostRead = s.hostRead := rfl
@[simp] theorem State.setStrand_turn (s : State) (w : Who) (z : Strand) : (s.setStrand w z).turn = s.turn := rfl
@[simp] theorem State.setStrand_roster (s : State) (w : Who) (z : Strand) : (s.setStrand w z).roster = s.roster := rfl
@[simp] theorem State.setStrand_agenda (s : State) (w : Who) (z : Strand) : (s.setStrand w z).agenda = s.agenda := rfl
@[simp] theorem State.setStrand_timers (s : State) (w : Who) (z : Strand) : (s.setStrand w z).timers = s.timers := rfl
@[simp] theorem State.setStrand_fresh (s : State) (w : Who) (z : Strand) : (s.setStrand w z).fresh = s.fresh := rfl
@[simp] theorem State.setMe_clusters (s : State) (z : Strand) : (s.setMe z).clusters = s.clusters := rfl
@[simp] theorem State.setMe_dies (s : State) (z : Strand) : (s.setMe z).dies = s.dies := rfl
@[simp] theorem State.setMe_insts (s : State) (z : Strand) : (s.setMe z).insts = s.insts := rfl
@[simp] theorem State.setMe_dist (s : State) (z : Strand) : (s.setMe z).dist = s.dist := rfl
@[simp] theorem State.setMe_plat (s : State) (z : Strand) : (s.setMe z).plat = s.plat := rfl
@[simp] theorem State.setMe_fab (s : State) (z : Strand) : (s.setMe z).fab = s.fab := rfl
@[simp] theorem State.setMe_reclaim (s : State) (z : Strand) : (s.setMe z).reclaim = s.reclaim := rfl
@[simp] theorem State.setMe_mem (s : State) (z : Strand) : (s.setMe z).mem = s.mem := rfl
@[simp] theorem State.setMe_flaws (s : State) (z : Strand) : (s.setMe z).flaws = s.flaws := rfl
@[simp] theorem State.setMe_unseen (s : State) (z : Strand) : (s.setMe z).unseen = s.unseen := rfl
@[simp] theorem State.setMe_stamps (s : State) (z : Strand) : (s.setMe z).stamps = s.stamps := rfl
@[simp] theorem State.setMe_held (s : State) (z : Strand) : (s.setMe z).held = s.held := rfl
@[simp] theorem State.setMe_slices (s : State) (z : Strand) : (s.setMe z).slices = s.slices := rfl
@[simp] theorem State.setMe_posts (s : State) (z : Strand) : (s.setMe z).posts = s.posts := rfl
@[simp] theorem State.setMe_time (s : State) (z : Strand) : (s.setMe z).time = s.time := rfl
@[simp] theorem State.setMe_now (s : State) (z : Strand) : (s.setMe z).now = s.now := rfl
@[simp] theorem State.setMe_cycle (s : State) (z : Strand) : (s.setMe z).cycle = s.cycle := rfl
@[simp] theorem State.setMe_peer (s : State) (z : Strand) : (s.setMe z).peer = s.peer := rfl
@[simp] theorem State.setMe_hostRead (s : State) (z : Strand) : (s.setMe z).hostRead = s.hostRead := rfl
@[simp] theorem State.setMe_turn (s : State) (z : Strand) : (s.setMe z).turn = s.turn := rfl
@[simp] theorem State.setMe_roster (s : State) (z : Strand) : (s.setMe z).roster = s.roster := rfl
@[simp] theorem State.setMe_agenda (s : State) (z : Strand) : (s.setMe z).agenda = s.agenda := rfl
@[simp] theorem State.setMe_timers (s : State) (z : Strand) : (s.setMe z).timers = s.timers := rfl
@[simp] theorem State.setMe_fresh (s : State) (z : Strand) : (s.setMe z).fresh = s.fresh := rfl
@[simp] theorem State.setHere_clusters (s : State) (x : Core) : (s.setHere x).clusters = s.clusters := rfl
@[simp] theorem State.setHere_dies (s : State) (x : Core) : (s.setHere x).dies = s.dies := rfl
@[simp] theorem State.setHere_insts (s : State) (x : Core) : (s.setHere x).insts = s.insts := rfl
@[simp] theorem State.setHere_dist (s : State) (x : Core) : (s.setHere x).dist = s.dist := rfl
@[simp] theorem State.setHere_plat (s : State) (x : Core) : (s.setHere x).plat = s.plat := rfl
@[simp] theorem State.setHere_fab (s : State) (x : Core) : (s.setHere x).fab = s.fab := rfl
@[simp] theorem State.setHere_reclaim (s : State) (x : Core) : (s.setHere x).reclaim = s.reclaim := rfl
@[simp] theorem State.setHere_mem (s : State) (x : Core) : (s.setHere x).mem = s.mem := rfl
@[simp] theorem State.setHere_flaws (s : State) (x : Core) : (s.setHere x).flaws = s.flaws := rfl
@[simp] theorem State.setHere_unseen (s : State) (x : Core) : (s.setHere x).unseen = s.unseen := rfl
@[simp] theorem State.setHere_stamps (s : State) (x : Core) : (s.setHere x).stamps = s.stamps := rfl
@[simp] theorem State.setHere_held (s : State) (x : Core) : (s.setHere x).held = s.held := rfl
@[simp] theorem State.setHere_slices (s : State) (x : Core) : (s.setHere x).slices = s.slices := rfl
@[simp] theorem State.setHere_posts (s : State) (x : Core) : (s.setHere x).posts = s.posts := rfl
@[simp] theorem State.setHere_time (s : State) (x : Core) : (s.setHere x).time = s.time := rfl
@[simp] theorem State.setHere_now (s : State) (x : Core) : (s.setHere x).now = s.now := rfl
@[simp] theorem State.setHere_cycle (s : State) (x : Core) : (s.setHere x).cycle = s.cycle := rfl
@[simp] theorem State.setHere_peer (s : State) (x : Core) : (s.setHere x).peer = s.peer := rfl
@[simp] theorem State.setHere_hostRead (s : State) (x : Core) : (s.setHere x).hostRead = s.hostRead := rfl
@[simp] theorem State.setHere_turn (s : State) (x : Core) : (s.setHere x).turn = s.turn := rfl
@[simp] theorem State.setHere_roster (s : State) (x : Core) : (s.setHere x).roster = s.roster := rfl
@[simp] theorem State.setHere_agenda (s : State) (x : Core) : (s.setHere x).agenda = s.agenda := rfl
@[simp] theorem State.setHere_timers (s : State) (x : Core) : (s.setHere x).timers = s.timers := rfl
@[simp] theorem State.setHere_fresh (s : State) (x : Core) : (s.setHere x).fresh = s.fresh := rfl
@[simp] theorem State.setDie_cores (s : State) (d : DieId) (x : Die) : (s.setDie d x).cores = s.cores := rfl
@[simp] theorem State.setDie_clusters (s : State) (d : DieId) (x : Die) : (s.setDie d x).clusters = s.clusters := rfl
@[simp] theorem State.setDie_insts (s : State) (d : DieId) (x : Die) : (s.setDie d x).insts = s.insts := rfl
@[simp] theorem State.setDie_dist (s : State) (d : DieId) (x : Die) : (s.setDie d x).dist = s.dist := rfl
@[simp] theorem State.setDie_plat (s : State) (d : DieId) (x : Die) : (s.setDie d x).plat = s.plat := rfl
@[simp] theorem State.setDie_fab (s : State) (d : DieId) (x : Die) : (s.setDie d x).fab = s.fab := rfl
@[simp] theorem State.setDie_reclaim (s : State) (d : DieId) (x : Die) : (s.setDie d x).reclaim = s.reclaim := rfl
@[simp] theorem State.setDie_mem (s : State) (d : DieId) (x : Die) : (s.setDie d x).mem = s.mem := rfl
@[simp] theorem State.setDie_flaws (s : State) (d : DieId) (x : Die) : (s.setDie d x).flaws = s.flaws := rfl
@[simp] theorem State.setDie_unseen (s : State) (d : DieId) (x : Die) : (s.setDie d x).unseen = s.unseen := rfl
@[simp] theorem State.setDie_stamps (s : State) (d : DieId) (x : Die) : (s.setDie d x).stamps = s.stamps := rfl
@[simp] theorem State.setDie_held (s : State) (d : DieId) (x : Die) : (s.setDie d x).held = s.held := rfl
@[simp] theorem State.setDie_slices (s : State) (d : DieId) (x : Die) : (s.setDie d x).slices = s.slices := rfl
@[simp] theorem State.setDie_posts (s : State) (d : DieId) (x : Die) : (s.setDie d x).posts = s.posts := rfl
@[simp] theorem State.setDie_time (s : State) (d : DieId) (x : Die) : (s.setDie d x).time = s.time := rfl
@[simp] theorem State.setDie_now (s : State) (d : DieId) (x : Die) : (s.setDie d x).now = s.now := rfl
@[simp] theorem State.setDie_cycle (s : State) (d : DieId) (x : Die) : (s.setDie d x).cycle = s.cycle := rfl
@[simp] theorem State.setDie_peer (s : State) (d : DieId) (x : Die) : (s.setDie d x).peer = s.peer := rfl
@[simp] theorem State.setDie_hostRead (s : State) (d : DieId) (x : Die) : (s.setDie d x).hostRead = s.hostRead := rfl
@[simp] theorem State.setDie_turn (s : State) (d : DieId) (x : Die) : (s.setDie d x).turn = s.turn := rfl
@[simp] theorem State.setDie_roster (s : State) (d : DieId) (x : Die) : (s.setDie d x).roster = s.roster := rfl
@[simp] theorem State.setDie_agenda (s : State) (d : DieId) (x : Die) : (s.setDie d x).agenda = s.agenda := rfl
@[simp] theorem State.setDie_timers (s : State) (d : DieId) (x : Die) : (s.setDie d x).timers = s.timers := rfl
@[simp] theorem State.setDie_fresh (s : State) (d : DieId) (x : Die) : (s.setDie d x).fresh = s.fresh := rfl
@[simp] theorem State.setInst_cores (s : State) (k : Nat) (x : Inst) : (s.setInst k x).cores = s.cores := rfl
@[simp] theorem State.setInst_clusters (s : State) (k : Nat) (x : Inst) : (s.setInst k x).clusters = s.clusters := rfl
@[simp] theorem State.setInst_dies (s : State) (k : Nat) (x : Inst) : (s.setInst k x).dies = s.dies := rfl
@[simp] theorem State.setInst_dist (s : State) (k : Nat) (x : Inst) : (s.setInst k x).dist = s.dist := rfl
@[simp] theorem State.setInst_plat (s : State) (k : Nat) (x : Inst) : (s.setInst k x).plat = s.plat := rfl
@[simp] theorem State.setInst_fab (s : State) (k : Nat) (x : Inst) : (s.setInst k x).fab = s.fab := rfl
@[simp] theorem State.setInst_reclaim (s : State) (k : Nat) (x : Inst) : (s.setInst k x).reclaim = s.reclaim := rfl
@[simp] theorem State.setInst_mem (s : State) (k : Nat) (x : Inst) : (s.setInst k x).mem = s.mem := rfl
@[simp] theorem State.setInst_flaws (s : State) (k : Nat) (x : Inst) : (s.setInst k x).flaws = s.flaws := rfl
@[simp] theorem State.setInst_unseen (s : State) (k : Nat) (x : Inst) : (s.setInst k x).unseen = s.unseen := rfl
@[simp] theorem State.setInst_stamps (s : State) (k : Nat) (x : Inst) : (s.setInst k x).stamps = s.stamps := rfl
@[simp] theorem State.setInst_held (s : State) (k : Nat) (x : Inst) : (s.setInst k x).held = s.held := rfl
@[simp] theorem State.setInst_slices (s : State) (k : Nat) (x : Inst) : (s.setInst k x).slices = s.slices := rfl
@[simp] theorem State.setInst_posts (s : State) (k : Nat) (x : Inst) : (s.setInst k x).posts = s.posts := rfl
@[simp] theorem State.setInst_time (s : State) (k : Nat) (x : Inst) : (s.setInst k x).time = s.time := rfl
@[simp] theorem State.setInst_now (s : State) (k : Nat) (x : Inst) : (s.setInst k x).now = s.now := rfl
@[simp] theorem State.setInst_cycle (s : State) (k : Nat) (x : Inst) : (s.setInst k x).cycle = s.cycle := rfl
@[simp] theorem State.setInst_peer (s : State) (k : Nat) (x : Inst) : (s.setInst k x).peer = s.peer := rfl
@[simp] theorem State.setInst_hostRead (s : State) (k : Nat) (x : Inst) : (s.setInst k x).hostRead = s.hostRead := rfl
@[simp] theorem State.setInst_turn (s : State) (k : Nat) (x : Inst) : (s.setInst k x).turn = s.turn := rfl
@[simp] theorem State.setInst_roster (s : State) (k : Nat) (x : Inst) : (s.setInst k x).roster = s.roster := rfl
@[simp] theorem State.setInst_agenda (s : State) (k : Nat) (x : Inst) : (s.setInst k x).agenda = s.agenda := rfl
@[simp] theorem State.setInst_timers (s : State) (k : Nat) (x : Inst) : (s.setInst k x).timers = s.timers := rfl
@[simp] theorem State.setInst_fresh (s : State) (k : Nat) (x : Inst) : (s.setInst k x).fresh = s.fresh := rfl
@[simp] theorem State.setCluster_cores (s : State) (k : ClusterId) (x : Cluster) : (s.setCluster k x).cores = s.cores := rfl
@[simp] theorem State.setCluster_dies (s : State) (k : ClusterId) (x : Cluster) : (s.setCluster k x).dies = s.dies := rfl
@[simp] theorem State.setCluster_insts (s : State) (k : ClusterId) (x : Cluster) : (s.setCluster k x).insts = s.insts := rfl
@[simp] theorem State.setCluster_dist (s : State) (k : ClusterId) (x : Cluster) : (s.setCluster k x).dist = s.dist := rfl
@[simp] theorem State.setCluster_plat (s : State) (k : ClusterId) (x : Cluster) : (s.setCluster k x).plat = s.plat := rfl
@[simp] theorem State.setCluster_fab (s : State) (k : ClusterId) (x : Cluster) : (s.setCluster k x).fab = s.fab := rfl
@[simp] theorem State.setCluster_reclaim (s : State) (k : ClusterId) (x : Cluster) : (s.setCluster k x).reclaim = s.reclaim := rfl
@[simp] theorem State.setCluster_mem (s : State) (k : ClusterId) (x : Cluster) : (s.setCluster k x).mem = s.mem := rfl
@[simp] theorem State.setCluster_flaws (s : State) (k : ClusterId) (x : Cluster) : (s.setCluster k x).flaws = s.flaws := rfl
@[simp] theorem State.setCluster_unseen (s : State) (k : ClusterId) (x : Cluster) : (s.setCluster k x).unseen = s.unseen := rfl
@[simp] theorem State.setCluster_stamps (s : State) (k : ClusterId) (x : Cluster) : (s.setCluster k x).stamps = s.stamps := rfl
@[simp] theorem State.setCluster_held (s : State) (k : ClusterId) (x : Cluster) : (s.setCluster k x).held = s.held := rfl
@[simp] theorem State.setCluster_slices (s : State) (k : ClusterId) (x : Cluster) : (s.setCluster k x).slices = s.slices := rfl
@[simp] theorem State.setCluster_posts (s : State) (k : ClusterId) (x : Cluster) : (s.setCluster k x).posts = s.posts := rfl
@[simp] theorem State.setCluster_time (s : State) (k : ClusterId) (x : Cluster) : (s.setCluster k x).time = s.time := rfl
@[simp] theorem State.setCluster_now (s : State) (k : ClusterId) (x : Cluster) : (s.setCluster k x).now = s.now := rfl
@[simp] theorem State.setCluster_cycle (s : State) (k : ClusterId) (x : Cluster) : (s.setCluster k x).cycle = s.cycle := rfl
@[simp] theorem State.setCluster_peer (s : State) (k : ClusterId) (x : Cluster) : (s.setCluster k x).peer = s.peer := rfl
@[simp] theorem State.setCluster_hostRead (s : State) (k : ClusterId) (x : Cluster) : (s.setCluster k x).hostRead = s.hostRead := rfl
@[simp] theorem State.setCluster_turn (s : State) (k : ClusterId) (x : Cluster) : (s.setCluster k x).turn = s.turn := rfl
@[simp] theorem State.setCluster_roster (s : State) (k : ClusterId) (x : Cluster) : (s.setCluster k x).roster = s.roster := rfl
@[simp] theorem State.setCluster_agenda (s : State) (k : ClusterId) (x : Cluster) : (s.setCluster k x).agenda = s.agenda := rfl
@[simp] theorem State.setCluster_timers (s : State) (k : ClusterId) (x : Cluster) : (s.setCluster k x).timers = s.timers := rfl
@[simp] theorem State.setCluster_fresh (s : State) (k : ClusterId) (x : Cluster) : (s.setCluster k x).fresh = s.fresh := rfl
@[simp] theorem State.due_cores (s : State) (e : Event) : (s.due e).cores = s.cores := rfl
@[simp] theorem State.due_clusters (s : State) (e : Event) : (s.due e).clusters = s.clusters := rfl
@[simp] theorem State.due_dies (s : State) (e : Event) : (s.due e).dies = s.dies := rfl
@[simp] theorem State.due_insts (s : State) (e : Event) : (s.due e).insts = s.insts := rfl
@[simp] theorem State.due_dist (s : State) (e : Event) : (s.due e).dist = s.dist := rfl
@[simp] theorem State.due_plat (s : State) (e : Event) : (s.due e).plat = s.plat := rfl
@[simp] theorem State.due_fab (s : State) (e : Event) : (s.due e).fab = s.fab := rfl
@[simp] theorem State.due_reclaim (s : State) (e : Event) : (s.due e).reclaim = s.reclaim := rfl
@[simp] theorem State.due_mem (s : State) (e : Event) : (s.due e).mem = s.mem := rfl
@[simp] theorem State.due_flaws (s : State) (e : Event) : (s.due e).flaws = s.flaws := rfl
@[simp] theorem State.due_unseen (s : State) (e : Event) : (s.due e).unseen = s.unseen := rfl
@[simp] theorem State.due_stamps (s : State) (e : Event) : (s.due e).stamps = s.stamps := rfl
@[simp] theorem State.due_held (s : State) (e : Event) : (s.due e).held = s.held := rfl
@[simp] theorem State.due_slices (s : State) (e : Event) : (s.due e).slices = s.slices := rfl
@[simp] theorem State.due_posts (s : State) (e : Event) : (s.due e).posts = s.posts := rfl
@[simp] theorem State.due_time (s : State) (e : Event) : (s.due e).time = s.time := rfl
@[simp] theorem State.due_now (s : State) (e : Event) : (s.due e).now = s.now := rfl
@[simp] theorem State.due_cycle (s : State) (e : Event) : (s.due e).cycle = s.cycle := rfl
@[simp] theorem State.due_peer (s : State) (e : Event) : (s.due e).peer = s.peer := rfl
@[simp] theorem State.due_hostRead (s : State) (e : Event) : (s.due e).hostRead = s.hostRead := rfl
@[simp] theorem State.due_turn (s : State) (e : Event) : (s.due e).turn = s.turn := rfl
@[simp] theorem State.due_roster (s : State) (e : Event) : (s.due e).roster = s.roster := rfl
@[simp] theorem State.due_timers (s : State) (e : Event) : (s.due e).timers = s.timers := rfl
@[simp] theorem State.due_fresh (s : State) (e : Event) : (s.due e).fresh = s.fresh := rfl
@[simp] theorem State.dueAll_cores (s : State) (es : List Event) : (s.dueAll es).cores = s.cores := rfl
@[simp] theorem State.dueAll_clusters (s : State) (es : List Event) : (s.dueAll es).clusters = s.clusters := rfl
@[simp] theorem State.dueAll_dies (s : State) (es : List Event) : (s.dueAll es).dies = s.dies := rfl
@[simp] theorem State.dueAll_insts (s : State) (es : List Event) : (s.dueAll es).insts = s.insts := rfl
@[simp] theorem State.dueAll_dist (s : State) (es : List Event) : (s.dueAll es).dist = s.dist := rfl
@[simp] theorem State.dueAll_plat (s : State) (es : List Event) : (s.dueAll es).plat = s.plat := rfl
@[simp] theorem State.dueAll_fab (s : State) (es : List Event) : (s.dueAll es).fab = s.fab := rfl
@[simp] theorem State.dueAll_reclaim (s : State) (es : List Event) : (s.dueAll es).reclaim = s.reclaim := rfl
@[simp] theorem State.dueAll_mem (s : State) (es : List Event) : (s.dueAll es).mem = s.mem := rfl
@[simp] theorem State.dueAll_flaws (s : State) (es : List Event) : (s.dueAll es).flaws = s.flaws := rfl
@[simp] theorem State.dueAll_unseen (s : State) (es : List Event) : (s.dueAll es).unseen = s.unseen := rfl
@[simp] theorem State.dueAll_stamps (s : State) (es : List Event) : (s.dueAll es).stamps = s.stamps := rfl
@[simp] theorem State.dueAll_held (s : State) (es : List Event) : (s.dueAll es).held = s.held := rfl
@[simp] theorem State.dueAll_slices (s : State) (es : List Event) : (s.dueAll es).slices = s.slices := rfl
@[simp] theorem State.dueAll_posts (s : State) (es : List Event) : (s.dueAll es).posts = s.posts := rfl
@[simp] theorem State.dueAll_time (s : State) (es : List Event) : (s.dueAll es).time = s.time := rfl
@[simp] theorem State.dueAll_now (s : State) (es : List Event) : (s.dueAll es).now = s.now := rfl
@[simp] theorem State.dueAll_cycle (s : State) (es : List Event) : (s.dueAll es).cycle = s.cycle := rfl
@[simp] theorem State.dueAll_peer (s : State) (es : List Event) : (s.dueAll es).peer = s.peer := rfl
@[simp] theorem State.dueAll_hostRead (s : State) (es : List Event) : (s.dueAll es).hostRead = s.hostRead := rfl
@[simp] theorem State.dueAll_turn (s : State) (es : List Event) : (s.dueAll es).turn = s.turn := rfl
@[simp] theorem State.dueAll_roster (s : State) (es : List Event) : (s.dueAll es).roster = s.roster := rfl
@[simp] theorem State.dueAll_timers (s : State) (es : List Event) : (s.dueAll es).timers = s.timers := rfl
@[simp] theorem State.dueAll_fresh (s : State) (es : List Event) : (s.dueAll es).fresh = s.fresh := rfl
@[simp] theorem State.timer_cores (s : State) (t : Nat) (e : Event) : (s.timer t e).cores = s.cores := rfl
@[simp] theorem State.timer_clusters (s : State) (t : Nat) (e : Event) : (s.timer t e).clusters = s.clusters := rfl
@[simp] theorem State.timer_dies (s : State) (t : Nat) (e : Event) : (s.timer t e).dies = s.dies := rfl
@[simp] theorem State.timer_insts (s : State) (t : Nat) (e : Event) : (s.timer t e).insts = s.insts := rfl
@[simp] theorem State.timer_dist (s : State) (t : Nat) (e : Event) : (s.timer t e).dist = s.dist := rfl
@[simp] theorem State.timer_plat (s : State) (t : Nat) (e : Event) : (s.timer t e).plat = s.plat := rfl
@[simp] theorem State.timer_fab (s : State) (t : Nat) (e : Event) : (s.timer t e).fab = s.fab := rfl
@[simp] theorem State.timer_reclaim (s : State) (t : Nat) (e : Event) : (s.timer t e).reclaim = s.reclaim := rfl
@[simp] theorem State.timer_mem (s : State) (t : Nat) (e : Event) : (s.timer t e).mem = s.mem := rfl
@[simp] theorem State.timer_flaws (s : State) (t : Nat) (e : Event) : (s.timer t e).flaws = s.flaws := rfl
@[simp] theorem State.timer_unseen (s : State) (t : Nat) (e : Event) : (s.timer t e).unseen = s.unseen := rfl
@[simp] theorem State.timer_stamps (s : State) (t : Nat) (e : Event) : (s.timer t e).stamps = s.stamps := rfl
@[simp] theorem State.timer_held (s : State) (t : Nat) (e : Event) : (s.timer t e).held = s.held := rfl
@[simp] theorem State.timer_slices (s : State) (t : Nat) (e : Event) : (s.timer t e).slices = s.slices := rfl
@[simp] theorem State.timer_posts (s : State) (t : Nat) (e : Event) : (s.timer t e).posts = s.posts := rfl
@[simp] theorem State.timer_time (s : State) (t : Nat) (e : Event) : (s.timer t e).time = s.time := rfl
@[simp] theorem State.timer_now (s : State) (t : Nat) (e : Event) : (s.timer t e).now = s.now := rfl
@[simp] theorem State.timer_cycle (s : State) (t : Nat) (e : Event) : (s.timer t e).cycle = s.cycle := rfl
@[simp] theorem State.timer_peer (s : State) (t : Nat) (e : Event) : (s.timer t e).peer = s.peer := rfl
@[simp] theorem State.timer_hostRead (s : State) (t : Nat) (e : Event) : (s.timer t e).hostRead = s.hostRead := rfl
@[simp] theorem State.timer_turn (s : State) (t : Nat) (e : Event) : (s.timer t e).turn = s.turn := rfl
@[simp] theorem State.timer_roster (s : State) (t : Nat) (e : Event) : (s.timer t e).roster = s.roster := rfl
@[simp] theorem State.timer_agenda (s : State) (t : Nat) (e : Event) : (s.timer t e).agenda = s.agenda := rfl
@[simp] theorem State.timer_fresh (s : State) (t : Nat) (e : Event) : (s.timer t e).fresh = s.fresh := rfl
@[simp] theorem State.whenReady_cores (s : State) (e : Event) : (s.whenReady e).cores = s.cores := rfl
@[simp] theorem State.whenReady_clusters (s : State) (e : Event) : (s.whenReady e).clusters = s.clusters := rfl
@[simp] theorem State.whenReady_dies (s : State) (e : Event) : (s.whenReady e).dies = s.dies := rfl
@[simp] theorem State.whenReady_insts (s : State) (e : Event) : (s.whenReady e).insts = s.insts := rfl
@[simp] theorem State.whenReady_dist (s : State) (e : Event) : (s.whenReady e).dist = s.dist := rfl
@[simp] theorem State.whenReady_plat (s : State) (e : Event) : (s.whenReady e).plat = s.plat := rfl
@[simp] theorem State.whenReady_fab (s : State) (e : Event) : (s.whenReady e).fab = s.fab := rfl
@[simp] theorem State.whenReady_reclaim (s : State) (e : Event) : (s.whenReady e).reclaim = s.reclaim := rfl
@[simp] theorem State.whenReady_mem (s : State) (e : Event) : (s.whenReady e).mem = s.mem := rfl
@[simp] theorem State.whenReady_flaws (s : State) (e : Event) : (s.whenReady e).flaws = s.flaws := rfl
@[simp] theorem State.whenReady_unseen (s : State) (e : Event) : (s.whenReady e).unseen = s.unseen := rfl
@[simp] theorem State.whenReady_stamps (s : State) (e : Event) : (s.whenReady e).stamps = s.stamps := rfl
@[simp] theorem State.whenReady_held (s : State) (e : Event) : (s.whenReady e).held = s.held := rfl
@[simp] theorem State.whenReady_slices (s : State) (e : Event) : (s.whenReady e).slices = s.slices := rfl
@[simp] theorem State.whenReady_posts (s : State) (e : Event) : (s.whenReady e).posts = s.posts := rfl
@[simp] theorem State.whenReady_time (s : State) (e : Event) : (s.whenReady e).time = s.time := rfl
@[simp] theorem State.whenReady_now (s : State) (e : Event) : (s.whenReady e).now = s.now := rfl
@[simp] theorem State.whenReady_cycle (s : State) (e : Event) : (s.whenReady e).cycle = s.cycle := rfl
@[simp] theorem State.whenReady_peer (s : State) (e : Event) : (s.whenReady e).peer = s.peer := rfl
@[simp] theorem State.whenReady_hostRead (s : State) (e : Event) : (s.whenReady e).hostRead = s.hostRead := rfl
@[simp] theorem State.whenReady_turn (s : State) (e : Event) : (s.whenReady e).turn = s.turn := rfl
@[simp] theorem State.whenReady_roster (s : State) (e : Event) : (s.whenReady e).roster = s.roster := rfl
@[simp] theorem State.whenReady_agenda (s : State) (e : Event) : (s.whenReady e).agenda = s.agenda := rfl
@[simp] theorem State.setPhys_cores (s : State) (pa n v : Nat) : (s.setPhys pa n v).cores = s.cores := rfl
@[simp] theorem State.setPhys_clusters (s : State) (pa n v : Nat) : (s.setPhys pa n v).clusters = s.clusters := rfl
@[simp] theorem State.setPhys_dies (s : State) (pa n v : Nat) : (s.setPhys pa n v).dies = s.dies := rfl
@[simp] theorem State.setPhys_insts (s : State) (pa n v : Nat) : (s.setPhys pa n v).insts = s.insts := rfl
@[simp] theorem State.setPhys_dist (s : State) (pa n v : Nat) : (s.setPhys pa n v).dist = s.dist := rfl
@[simp] theorem State.setPhys_plat (s : State) (pa n v : Nat) : (s.setPhys pa n v).plat = s.plat := rfl
@[simp] theorem State.setPhys_fab (s : State) (pa n v : Nat) : (s.setPhys pa n v).fab = s.fab := rfl
@[simp] theorem State.setPhys_reclaim (s : State) (pa n v : Nat) : (s.setPhys pa n v).reclaim = s.reclaim := rfl
@[simp] theorem State.setPhys_stamps (s : State) (pa n v : Nat) : (s.setPhys pa n v).stamps = s.stamps := rfl
@[simp] theorem State.setPhys_held (s : State) (pa n v : Nat) : (s.setPhys pa n v).held = s.held := rfl
@[simp] theorem State.setPhys_slices (s : State) (pa n v : Nat) : (s.setPhys pa n v).slices = s.slices := rfl
@[simp] theorem State.setPhys_posts (s : State) (pa n v : Nat) : (s.setPhys pa n v).posts = s.posts := rfl
@[simp] theorem State.setPhys_time (s : State) (pa n v : Nat) : (s.setPhys pa n v).time = s.time := rfl
@[simp] theorem State.setPhys_now (s : State) (pa n v : Nat) : (s.setPhys pa n v).now = s.now := rfl
@[simp] theorem State.setPhys_cycle (s : State) (pa n v : Nat) : (s.setPhys pa n v).cycle = s.cycle := rfl
@[simp] theorem State.setPhys_peer (s : State) (pa n v : Nat) : (s.setPhys pa n v).peer = s.peer := rfl
@[simp] theorem State.setPhys_hostRead (s : State) (pa n v : Nat) : (s.setPhys pa n v).hostRead = s.hostRead := rfl
@[simp] theorem State.setPhys_turn (s : State) (pa n v : Nat) : (s.setPhys pa n v).turn = s.turn := rfl
@[simp] theorem State.setPhys_roster (s : State) (pa n v : Nat) : (s.setPhys pa n v).roster = s.roster := rfl
@[simp] theorem State.setPhys_agenda (s : State) (pa n v : Nat) : (s.setPhys pa n v).agenda = s.agenda := rfl
@[simp] theorem State.setPhys_timers (s : State) (pa n v : Nat) : (s.setPhys pa n v).timers = s.timers := rfl
@[simp] theorem State.setPhys_fresh (s : State) (pa n v : Nat) : (s.setPhys pa n v).fresh = s.fresh := rfl
@[simp] theorem State.keepRegion_cores (s : State) (n : Nat) (r : Region) : (s.keepRegion n r).cores = s.cores := rfl
@[simp] theorem State.keepRegion_clusters (s : State) (n : Nat) (r : Region) : (s.keepRegion n r).clusters = s.clusters := rfl
@[simp] theorem State.keepRegion_dies (s : State) (n : Nat) (r : Region) : (s.keepRegion n r).dies = s.dies := rfl
@[simp] theorem State.keepRegion_insts (s : State) (n : Nat) (r : Region) : (s.keepRegion n r).insts = s.insts := rfl
@[simp] theorem State.keepRegion_plat (s : State) (n : Nat) (r : Region) : (s.keepRegion n r).plat = s.plat := rfl
@[simp] theorem State.keepRegion_fab (s : State) (n : Nat) (r : Region) : (s.keepRegion n r).fab = s.fab := rfl
@[simp] theorem State.keepRegion_reclaim (s : State) (n : Nat) (r : Region) : (s.keepRegion n r).reclaim = s.reclaim := rfl
@[simp] theorem State.keepRegion_mem (s : State) (n : Nat) (r : Region) : (s.keepRegion n r).mem = s.mem := rfl
@[simp] theorem State.keepRegion_flaws (s : State) (n : Nat) (r : Region) : (s.keepRegion n r).flaws = s.flaws := rfl
@[simp] theorem State.keepRegion_unseen (s : State) (n : Nat) (r : Region) : (s.keepRegion n r).unseen = s.unseen := rfl
@[simp] theorem State.keepRegion_stamps (s : State) (n : Nat) (r : Region) : (s.keepRegion n r).stamps = s.stamps := rfl
@[simp] theorem State.keepRegion_held (s : State) (n : Nat) (r : Region) : (s.keepRegion n r).held = s.held := rfl
@[simp] theorem State.keepRegion_slices (s : State) (n : Nat) (r : Region) : (s.keepRegion n r).slices = s.slices := rfl
@[simp] theorem State.keepRegion_posts (s : State) (n : Nat) (r : Region) : (s.keepRegion n r).posts = s.posts := rfl
@[simp] theorem State.keepRegion_time (s : State) (n : Nat) (r : Region) : (s.keepRegion n r).time = s.time := rfl
@[simp] theorem State.keepRegion_now (s : State) (n : Nat) (r : Region) : (s.keepRegion n r).now = s.now := rfl
@[simp] theorem State.keepRegion_cycle (s : State) (n : Nat) (r : Region) : (s.keepRegion n r).cycle = s.cycle := rfl
@[simp] theorem State.keepRegion_peer (s : State) (n : Nat) (r : Region) : (s.keepRegion n r).peer = s.peer := rfl
@[simp] theorem State.keepRegion_hostRead (s : State) (n : Nat) (r : Region) : (s.keepRegion n r).hostRead = s.hostRead := rfl
@[simp] theorem State.keepRegion_turn (s : State) (n : Nat) (r : Region) : (s.keepRegion n r).turn = s.turn := rfl
@[simp] theorem State.keepRegion_roster (s : State) (n : Nat) (r : Region) : (s.keepRegion n r).roster = s.roster := rfl
@[simp] theorem State.keepRegion_agenda (s : State) (n : Nat) (r : Region) : (s.keepRegion n r).agenda = s.agenda := rfl
@[simp] theorem State.keepRegion_timers (s : State) (n : Nat) (r : Region) : (s.keepRegion n r).timers = s.timers := rfl
@[simp] theorem State.keepRegion_fresh (s : State) (n : Nat) (r : Region) : (s.keepRegion n r).fresh = s.fresh := rfl

@[simp] theorem State.due_agenda (s : State) (e : Event) : (s.due e).agenda = s.agenda ++ [e] := rfl
@[simp] theorem State.dueAll_agenda (s : State) (es : List Event) : (s.dueAll es).agenda = s.agenda ++ es := rfl
@[simp] theorem State.timer_timers (s : State) (t : Nat) (e : Event) : (s.timer t e).timers = s.timers ++ [(t, e)] := rfl

@[simp] theorem State.core_setCore (s : State) (c : CoreId) (x : Core) : (s.setCore c x).core c = x := by
  simp [State.core, State.setCore]
theorem State.core_setCore_ne (s : State) (c d : CoreId) (x : Core) (h : c ≠ d) : (s.setCore c x).core d = s.core d := by
  have : c.val ≠ d.val := fun e => h (Fin.ext e)
  simp [State.core, State.setCore, Vector.getElem_set_ne, this]
@[simp] theorem State.setCore_setCore (s : State) (c : CoreId) (x y : Core) : (s.setCore c x).setCore c y = s.setCore c y := by
  simp [State.setCore]
@[simp] theorem State.setCore_core (s : State) (c : CoreId) : s.setCore c (s.core c) = s := by
  simp [State.setCore, State.core]
@[simp] theorem State.core_due (s : State) (e : Event) (c : CoreId) : (s.due e).core c = s.core c := rfl
@[simp] theorem State.core_dueAll (s : State) (es : List Event) (c : CoreId) : (s.dueAll es).core c = s.core c := rfl
@[simp] theorem State.core_timer (s : State) (t : Nat) (e : Event) (c : CoreId) : (s.timer t e).core c = s.core c := rfl
@[simp] theorem State.core_whenReady (s : State) (e : Event) (c : CoreId) : (s.whenReady e).core c = s.core c := rfl
@[simp] theorem State.core_setInst (s : State) (k : Nat) (x : Inst) (c : CoreId) : (s.setInst k x).core c = s.core c := rfl
@[simp] theorem State.core_setDie (s : State) (d : DieId) (x : Die) (c : CoreId) : (s.setDie d x).core c = s.core c := rfl
@[simp] theorem State.core_setCluster (s : State) (k : ClusterId) (x : Cluster) (c : CoreId) :
    (s.setCluster k x).core c = s.core c := rfl
@[simp] theorem State.core_setPhys (s : State) (pa n v : Nat) (c : CoreId) : (s.setPhys pa n v).core c = s.core c := rfl

@[simp] theorem State.die_setDie (s : State) (d : DieId) (x : Die) : (s.setDie d x).die d = x := by simp [State.die, State.setDie]
theorem State.die_setDie_ne (s : State) (d e : DieId) (x : Die) (h : d ≠ e) : (s.setDie d x).die e = s.die e := by
  have : d.val ≠ e.val := fun q => h (Fin.ext q)
  simp [State.die, State.setDie, Vector.getElem_set_ne, this]
@[simp] theorem State.die_setCore (s : State) (c : CoreId) (x : Core) (d : DieId) : (s.setCore c x).die d = s.die d := rfl
@[simp] theorem State.die_setStrand (s : State) (w : Who) (z : Strand) (d : DieId) : (s.setStrand w z).die d = s.die d := rfl
@[simp] theorem State.die_setMe (s : State) (z : Strand) (d : DieId) : (s.setMe z).die d = s.die d := rfl
@[simp] theorem State.die_due (s : State) (e : Event) (d : DieId) : (s.due e).die d = s.die d := rfl
@[simp] theorem State.cluster_setCluster (s : State) (k : ClusterId) (x : Cluster) : (s.setCluster k x).cluster k = x := by
  simp [State.cluster, State.setCluster]

/-! ### Cores -/


@[simp] theorem Core.setStrand_s_v (c : Core) (z : Strand) : (c.setStrand .s z).v = c.v := rfl
@[simp] theorem Core.setStrand_s_m (c : Core) (z : Strand) : (c.setStrand .s z).m = c.m := rfl
@[simp] theorem Core.setStrand_s_inst (c : Core) (z : Strand) : (c.setStrand .s z).inst = c.inst := rfl
@[simp] theorem Core.setStrand_s_spad (c : Core) (z : Strand) : (c.setStrand .s z).spad = c.spad := rfl
@[simp] theorem Core.setStrand_s_lastSpace (c : Core) (z : Strand) : (c.setStrand .s z).lastSpace = c.lastSpace := rfl
@[simp] theorem Core.setStrand_s_tiles (c : Core) (z : Strand) : (c.setStrand .s z).tiles = c.tiles := rfl
@[simp] theorem Core.setStrand_s_tileFull (c : Core) (z : Strand) : (c.setStrand .s z).tileFull = c.tileFull := rfl
@[simp] theorem Core.setStrand_s_tileChanges (c : Core) (z : Strand) : (c.setStrand .s z).tileChanges = c.tileChanges := rfl
@[simp] theorem Core.setStrand_s_deck (c : Core) (z : Strand) : (c.setStrand .s z).deck = c.deck := rfl
@[simp] theorem Core.setStrand_s_sem (c : Core) (z : Strand) : (c.setStrand .s z).sem = c.sem := rfl
@[simp] theorem Core.setStrand_s_semWait (c : Core) (z : Strand) : (c.setStrand .s z).semWait = c.semWait := rfl
@[simp] theorem Core.setStrand_s_signals (c : Core) (z : Strand) : (c.setStrand .s z).signals = c.signals := rfl
@[simp] theorem Core.setStrand_s_queues (c : Core) (z : Strand) : (c.setStrand .s z).queues = c.queues := rfl
@[simp] theorem Core.setStrand_s_board (c : Core) (z : Strand) : (c.setStrand .s z).board = c.board := rfl
@[simp] theorem Core.setStrand_s_rings (c : Core) (z : Strand) : (c.setStrand .s z).rings = c.rings := rfl
@[simp] theorem Core.setStrand_s_frame (c : Core) (z : Strand) : (c.setStrand .s z).frame = c.frame := rfl
@[simp] theorem Core.setStrand_s_deadlock (c : Core) (z : Strand) : (c.setStrand .s z).deadlock = c.deadlock := rfl
@[simp] theorem Core.setStrand_s_netFails (c : Core) (z : Strand) : (c.setStrand .s z).netFails = c.netFails := rfl
@[simp] theorem Core.setStrand_v_s (c : Core) (z : Strand) : (c.setStrand .v z).s = c.s := rfl
@[simp] theorem Core.setStrand_v_m (c : Core) (z : Strand) : (c.setStrand .v z).m = c.m := rfl
@[simp] theorem Core.setStrand_v_inst (c : Core) (z : Strand) : (c.setStrand .v z).inst = c.inst := rfl
@[simp] theorem Core.setStrand_v_spad (c : Core) (z : Strand) : (c.setStrand .v z).spad = c.spad := rfl
@[simp] theorem Core.setStrand_v_lastSpace (c : Core) (z : Strand) : (c.setStrand .v z).lastSpace = c.lastSpace := rfl
@[simp] theorem Core.setStrand_v_tiles (c : Core) (z : Strand) : (c.setStrand .v z).tiles = c.tiles := rfl
@[simp] theorem Core.setStrand_v_tileFull (c : Core) (z : Strand) : (c.setStrand .v z).tileFull = c.tileFull := rfl
@[simp] theorem Core.setStrand_v_tileChanges (c : Core) (z : Strand) : (c.setStrand .v z).tileChanges = c.tileChanges := rfl
@[simp] theorem Core.setStrand_v_deck (c : Core) (z : Strand) : (c.setStrand .v z).deck = c.deck := rfl
@[simp] theorem Core.setStrand_v_sem (c : Core) (z : Strand) : (c.setStrand .v z).sem = c.sem := rfl
@[simp] theorem Core.setStrand_v_semWait (c : Core) (z : Strand) : (c.setStrand .v z).semWait = c.semWait := rfl
@[simp] theorem Core.setStrand_v_signals (c : Core) (z : Strand) : (c.setStrand .v z).signals = c.signals := rfl
@[simp] theorem Core.setStrand_v_queues (c : Core) (z : Strand) : (c.setStrand .v z).queues = c.queues := rfl
@[simp] theorem Core.setStrand_v_board (c : Core) (z : Strand) : (c.setStrand .v z).board = c.board := rfl
@[simp] theorem Core.setStrand_v_rings (c : Core) (z : Strand) : (c.setStrand .v z).rings = c.rings := rfl
@[simp] theorem Core.setStrand_v_frame (c : Core) (z : Strand) : (c.setStrand .v z).frame = c.frame := rfl
@[simp] theorem Core.setStrand_v_deadlock (c : Core) (z : Strand) : (c.setStrand .v z).deadlock = c.deadlock := rfl
@[simp] theorem Core.setStrand_v_netFails (c : Core) (z : Strand) : (c.setStrand .v z).netFails = c.netFails := rfl
@[simp] theorem Core.setStrand_m_s (c : Core) (z : Strand) : (c.setStrand .m z).s = c.s := rfl
@[simp] theorem Core.setStrand_m_v (c : Core) (z : Strand) : (c.setStrand .m z).v = c.v := rfl
@[simp] theorem Core.setStrand_m_inst (c : Core) (z : Strand) : (c.setStrand .m z).inst = c.inst := rfl
@[simp] theorem Core.setStrand_m_spad (c : Core) (z : Strand) : (c.setStrand .m z).spad = c.spad := rfl
@[simp] theorem Core.setStrand_m_lastSpace (c : Core) (z : Strand) : (c.setStrand .m z).lastSpace = c.lastSpace := rfl
@[simp] theorem Core.setStrand_m_tiles (c : Core) (z : Strand) : (c.setStrand .m z).tiles = c.tiles := rfl
@[simp] theorem Core.setStrand_m_tileFull (c : Core) (z : Strand) : (c.setStrand .m z).tileFull = c.tileFull := rfl
@[simp] theorem Core.setStrand_m_tileChanges (c : Core) (z : Strand) : (c.setStrand .m z).tileChanges = c.tileChanges := rfl
@[simp] theorem Core.setStrand_m_deck (c : Core) (z : Strand) : (c.setStrand .m z).deck = c.deck := rfl
@[simp] theorem Core.setStrand_m_sem (c : Core) (z : Strand) : (c.setStrand .m z).sem = c.sem := rfl
@[simp] theorem Core.setStrand_m_semWait (c : Core) (z : Strand) : (c.setStrand .m z).semWait = c.semWait := rfl
@[simp] theorem Core.setStrand_m_signals (c : Core) (z : Strand) : (c.setStrand .m z).signals = c.signals := rfl
@[simp] theorem Core.setStrand_m_queues (c : Core) (z : Strand) : (c.setStrand .m z).queues = c.queues := rfl
@[simp] theorem Core.setStrand_m_board (c : Core) (z : Strand) : (c.setStrand .m z).board = c.board := rfl
@[simp] theorem Core.setStrand_m_rings (c : Core) (z : Strand) : (c.setStrand .m z).rings = c.rings := rfl
@[simp] theorem Core.setStrand_m_frame (c : Core) (z : Strand) : (c.setStrand .m z).frame = c.frame := rfl
@[simp] theorem Core.setStrand_m_deadlock (c : Core) (z : Strand) : (c.setStrand .m z).deadlock = c.deadlock := rfl
@[simp] theorem Core.setStrand_m_netFails (c : Core) (z : Strand) : (c.setStrand .m z).netFails = c.netFails := rfl
@[simp] theorem Core.setStrand_inst (c : Core) (i : StrandId) (z : Strand) : (c.setStrand i z).inst = c.inst := by cases i <;> rfl
@[simp] theorem Core.setStrand_spad (c : Core) (i : StrandId) (z : Strand) : (c.setStrand i z).spad = c.spad := by cases i <;> rfl
@[simp] theorem Core.setStrand_lastSpace (c : Core) (i : StrandId) (z : Strand) : (c.setStrand i z).lastSpace = c.lastSpace := by cases i <;> rfl
@[simp] theorem Core.setStrand_tiles (c : Core) (i : StrandId) (z : Strand) : (c.setStrand i z).tiles = c.tiles := by cases i <;> rfl
@[simp] theorem Core.setStrand_tileFull (c : Core) (i : StrandId) (z : Strand) : (c.setStrand i z).tileFull = c.tileFull := by cases i <;> rfl
@[simp] theorem Core.setStrand_tileChanges (c : Core) (i : StrandId) (z : Strand) : (c.setStrand i z).tileChanges = c.tileChanges := by cases i <;> rfl
@[simp] theorem Core.setStrand_deck (c : Core) (i : StrandId) (z : Strand) : (c.setStrand i z).deck = c.deck := by cases i <;> rfl
@[simp] theorem Core.setStrand_sem (c : Core) (i : StrandId) (z : Strand) : (c.setStrand i z).sem = c.sem := by cases i <;> rfl
@[simp] theorem Core.setStrand_semWait (c : Core) (i : StrandId) (z : Strand) : (c.setStrand i z).semWait = c.semWait := by cases i <;> rfl
@[simp] theorem Core.setStrand_signals (c : Core) (i : StrandId) (z : Strand) : (c.setStrand i z).signals = c.signals := by cases i <;> rfl
@[simp] theorem Core.setStrand_queues (c : Core) (i : StrandId) (z : Strand) : (c.setStrand i z).queues = c.queues := by cases i <;> rfl
@[simp] theorem Core.setStrand_board (c : Core) (i : StrandId) (z : Strand) : (c.setStrand i z).board = c.board := by cases i <;> rfl
@[simp] theorem Core.setStrand_rings (c : Core) (i : StrandId) (z : Strand) : (c.setStrand i z).rings = c.rings := by cases i <;> rfl
@[simp] theorem Core.setStrand_frame (c : Core) (i : StrandId) (z : Strand) : (c.setStrand i z).frame = c.frame := by cases i <;> rfl
@[simp] theorem Core.setStrand_deadlock (c : Core) (i : StrandId) (z : Strand) : (c.setStrand i z).deadlock = c.deadlock := by cases i <;> rfl
@[simp] theorem Core.setStrand_netFails (c : Core) (i : StrandId) (z : Strand) : (c.setStrand i z).netFails = c.netFails := by cases i <;> rfl
@[simp] theorem Core.strand_setStrand (c : Core) (i : StrandId) (z : Strand) : (c.setStrand i z).strand i = z := by cases i <;> rfl
theorem Core.strand_setStrand_ne (c : Core) (i j : StrandId) (z : Strand) (h : i ≠ j) :
    (c.setStrand i z).strand j = c.strand j := by cases i <;> cases j <;> first | rfl | exact absurd rfl h
@[simp] theorem Core.setStrand_setStrand (c : Core) (i : StrandId) (y z : Strand) :
    (c.setStrand i y).setStrand i z = c.setStrand i z := by cases i <;> rfl

/-! ### The strand whose turn it is -/

@[simp] theorem State.strand_setStrand (s : State) (w : Who) (z : Strand) : (s.setStrand w z).strand w = z := by
  simp [State.strand, State.setStrand]
theorem State.strand_setStrand_ne (s : State) (w x : Who) (z : Strand) (h : w ≠ x) :
    (s.setStrand w z).strand x = s.strand x := by
  obtain ⟨c, i⟩ := w
  obtain ⟨d, j⟩ := x
  by_cases hc : c = d
  · subst hc
    have hij : i ≠ j := fun e => h (by rw [e])
    simp [State.strand, State.setStrand, Core.strand_setStrand_ne _ _ _ _ hij]
  · simp [State.strand, State.setStrand, State.core_setCore_ne _ _ _ _ hc]
@[simp] theorem State.setStrand_setStrand (s : State) (w : Who) (y z : Strand) :
    (s.setStrand w y).setStrand w z = s.setStrand w z := by simp [State.setStrand]
@[simp] theorem State.me_setMe (s : State) (z : Strand) : (s.setMe z).me = z := by
  simp [State.me, State.setMe]
@[simp] theorem State.setMe_setMe (s : State) (y z : Strand) : (s.setMe y).setMe z = s.setMe z := by
  simp [State.setMe]
@[simp] theorem State.me_due (s : State) (e : Event) : (s.due e).me = s.me := rfl
@[simp] theorem State.me_dueAll (s : State) (es : List Event) : (s.dueAll es).me = s.me := rfl
@[simp] theorem State.me_timer (s : State) (t : Nat) (e : Event) : (s.timer t e).me = s.me := rfl
@[simp] theorem State.me_setInst (s : State) (k : Nat) (x : Inst) : (s.setInst k x).me = s.me := rfl
@[simp] theorem State.me_setDie (s : State) (d : DieId) (x : Die) : (s.setDie d x).me = s.me := rfl
@[simp] theorem State.me_setCluster (s : State) (k : ClusterId) (x : Cluster) : (s.setCluster k x).me = s.me := rfl
@[simp] theorem State.strand_due (s : State) (e : Event) (w : Who) : (s.due e).strand w = s.strand w := rfl
@[simp] theorem State.strand_dueAll (s : State) (es : List Event) (w : Who) : (s.dueAll es).strand w = s.strand w := rfl
@[simp] theorem State.strand_timer (s : State) (t : Nat) (e : Event) (w : Who) : (s.timer t e).strand w = s.strand w := rfl
@[simp] theorem State.setMe_due (s : State) (e : Event) (z : Strand) : (s.due e).setMe z = (s.setMe z).due e := rfl
@[simp] theorem State.here_due (s : State) (e : Event) : (s.due e).here = s.here := rfl
@[simp] theorem State.here_setMe (s : State) (z : Strand) : (s.setMe z).here = s.here.setStrand s.turn.strand z := by
  simp [State.here, State.setMe, State.setStrand]
@[simp] theorem State.here_setHere (s : State) (x : Core) : (s.setHere x).here = x := by simp [State.here, State.setHere]
@[simp] theorem State.setHere_setHere (s : State) (x y : Core) : (s.setHere x).setHere y = s.setHere y := by simp [State.setHere]
@[simp] theorem State.me_setHere (s : State) (x : Core) : (s.setHere x).me = x.strand s.turn.strand := by
  simp [State.me, State.strand, State.setHere]
theorem State.me_eq (s : State) : s.me = s.here.strand s.turn.strand := rfl
@[simp] theorem State.myInst_setMe (s : State) (z : Strand) : (s.setMe z).myInst = s.myInst := by
  simp [State.myInst, State.instOn, State.setMe, State.setStrand]

/-! ### Registers -/


@[simp] theorem Strand.wg_life (z : Strand) (r : GReg) (x : Dword) : (z.wg r x).life = z.life := by unfold Strand.wg; split <;> rfl
@[simp] theorem Strand.wg_cond (z : Strand) (r : GReg) (x : Dword) : (z.wg r x).cond = z.cond := by unfold Strand.wg; split <;> rfl
@[simp] theorem Strand.wg_held (z : Strand) (r : GReg) (x : Dword) : (z.wg r x).held = z.held := by unfold Strand.wg; split <;> rfl
@[simp] theorem Strand.wg_live (z : Strand) (r : GReg) (x : Dword) : (z.wg r x).live = z.live := by unfold Strand.wg; split <;> rfl
@[simp] theorem Strand.wg_pc (z : Strand) (r : GReg) (x : Dword) : (z.wg r x).pc = z.pc := by unfold Strand.wg; split <;> rfl
@[simp] theorem Strand.wg_block (z : Strand) (r : GReg) (x : Dword) : (z.wg r x).block = z.block := by unfold Strand.wg; split <;> rfl
@[simp] theorem Strand.wg_guard (z : Strand) (r : GReg) (x : Dword) : (z.wg r x).guard = z.guard := by unfold Strand.wg; split <;> rfl
@[simp] theorem Strand.wg_full (z : Strand) (r : GReg) (x : Dword) : (z.wg r x).full = z.full := by unfold Strand.wg; split <;> rfl
@[simp] theorem Strand.wg_p (z : Strand) (r : GReg) (x : Dword) : (z.wg r x).p = z.p := by unfold Strand.wg; split <;> rfl
@[simp] theorem Strand.wg_h (z : Strand) (r : GReg) (x : Dword) : (z.wg r x).h = z.h := by unfold Strand.wg; split <;> rfl
@[simp] theorem Strand.wg_v (z : Strand) (r : GReg) (x : Dword) : (z.wg r x).v = z.v := by unfold Strand.wg; split <;> rfl
@[simp] theorem Strand.wg_m (z : Strand) (r : GReg) (x : Dword) : (z.wg r x).m = z.m := by unfold Strand.wg; split <;> rfl
@[simp] theorem Strand.wg_spr (z : Strand) (r : GReg) (x : Dword) : (z.wg r x).spr = z.spr := by unfold Strand.wg; split <;> rfl
@[simp] theorem Strand.wg_wait (z : Strand) (r : GReg) (x : Dword) : (z.wg r x).wait = z.wait := by unfold Strand.wg; split <;> rfl
@[simp] theorem Strand.wg_vload (z : Strand) (r : GReg) (x : Dword) : (z.wg r x).vload = z.vload := by unfold Strand.wg; split <;> rfl
@[simp] theorem Strand.wg_lines (z : Strand) (r : GReg) (x : Dword) : (z.wg r x).lines = z.lines := by unfold Strand.wg; split <;> rfl
@[simp] theorem Strand.wg_lease (z : Strand) (r : GReg) (x : Dword) : (z.wg r x).lease = z.lease := by unfold Strand.wg; split <;> rfl
@[simp] theorem Strand.wg_flushes (z : Strand) (r : GReg) (x : Dword) : (z.wg r x).flushes = z.flushes := by unfold Strand.wg; split <;> rfl
@[simp] theorem Strand.wp_life (z : Strand) (r : PReg) (b : Bool) : (z.wp r b).life = z.life := by unfold Strand.wp; split <;> rfl
@[simp] theorem Strand.wp_cond (z : Strand) (r : PReg) (b : Bool) : (z.wp r b).cond = z.cond := by unfold Strand.wp; split <;> rfl
@[simp] theorem Strand.wp_held (z : Strand) (r : PReg) (b : Bool) : (z.wp r b).held = z.held := by unfold Strand.wp; split <;> rfl
@[simp] theorem Strand.wp_live (z : Strand) (r : PReg) (b : Bool) : (z.wp r b).live = z.live := by unfold Strand.wp; split <;> rfl
@[simp] theorem Strand.wp_pc (z : Strand) (r : PReg) (b : Bool) : (z.wp r b).pc = z.pc := by unfold Strand.wp; split <;> rfl
@[simp] theorem Strand.wp_block (z : Strand) (r : PReg) (b : Bool) : (z.wp r b).block = z.block := by unfold Strand.wp; split <;> rfl
@[simp] theorem Strand.wp_guard (z : Strand) (r : PReg) (b : Bool) : (z.wp r b).guard = z.guard := by unfold Strand.wp; split <;> rfl
@[simp] theorem Strand.wp_g (z : Strand) (r : PReg) (b : Bool) : (z.wp r b).g = z.g := by unfold Strand.wp; split <;> rfl
@[simp] theorem Strand.wp_full (z : Strand) (r : PReg) (b : Bool) : (z.wp r b).full = z.full := by unfold Strand.wp; split <;> rfl
@[simp] theorem Strand.wp_h (z : Strand) (r : PReg) (b : Bool) : (z.wp r b).h = z.h := by unfold Strand.wp; split <;> rfl
@[simp] theorem Strand.wp_v (z : Strand) (r : PReg) (b : Bool) : (z.wp r b).v = z.v := by unfold Strand.wp; split <;> rfl
@[simp] theorem Strand.wp_m (z : Strand) (r : PReg) (b : Bool) : (z.wp r b).m = z.m := by unfold Strand.wp; split <;> rfl
@[simp] theorem Strand.wp_spr (z : Strand) (r : PReg) (b : Bool) : (z.wp r b).spr = z.spr := by unfold Strand.wp; split <;> rfl
@[simp] theorem Strand.wp_wait (z : Strand) (r : PReg) (b : Bool) : (z.wp r b).wait = z.wait := by unfold Strand.wp; split <;> rfl
@[simp] theorem Strand.wp_vload (z : Strand) (r : PReg) (b : Bool) : (z.wp r b).vload = z.vload := by unfold Strand.wp; split <;> rfl
@[simp] theorem Strand.wp_lines (z : Strand) (r : PReg) (b : Bool) : (z.wp r b).lines = z.lines := by unfold Strand.wp; split <;> rfl
@[simp] theorem Strand.wp_lease (z : Strand) (r : PReg) (b : Bool) : (z.wp r b).lease = z.lease := by unfold Strand.wp; split <;> rfl
@[simp] theorem Strand.wp_flushes (z : Strand) (r : PReg) (b : Bool) : (z.wp r b).flushes = z.flushes := by unfold Strand.wp; split <;> rfl
@[simp] theorem Strand.wm_life (z : Strand) (k : MReg) (x : Dword) : (z.wm k x).life = z.life := by unfold Strand.wm; split <;> rfl
@[simp] theorem Strand.wm_cond (z : Strand) (k : MReg) (x : Dword) : (z.wm k x).cond = z.cond := by unfold Strand.wm; split <;> rfl
@[simp] theorem Strand.wm_held (z : Strand) (k : MReg) (x : Dword) : (z.wm k x).held = z.held := by unfold Strand.wm; split <;> rfl
@[simp] theorem Strand.wm_live (z : Strand) (k : MReg) (x : Dword) : (z.wm k x).live = z.live := by unfold Strand.wm; split <;> rfl
@[simp] theorem Strand.wm_pc (z : Strand) (k : MReg) (x : Dword) : (z.wm k x).pc = z.pc := by unfold Strand.wm; split <;> rfl
@[simp] theorem Strand.wm_block (z : Strand) (k : MReg) (x : Dword) : (z.wm k x).block = z.block := by unfold Strand.wm; split <;> rfl
@[simp] theorem Strand.wm_guard (z : Strand) (k : MReg) (x : Dword) : (z.wm k x).guard = z.guard := by unfold Strand.wm; split <;> rfl
@[simp] theorem Strand.wm_g (z : Strand) (k : MReg) (x : Dword) : (z.wm k x).g = z.g := by unfold Strand.wm; split <;> rfl
@[simp] theorem Strand.wm_full (z : Strand) (k : MReg) (x : Dword) : (z.wm k x).full = z.full := by unfold Strand.wm; split <;> rfl
@[simp] theorem Strand.wm_p (z : Strand) (k : MReg) (x : Dword) : (z.wm k x).p = z.p := by unfold Strand.wm; split <;> rfl
@[simp] theorem Strand.wm_h (z : Strand) (k : MReg) (x : Dword) : (z.wm k x).h = z.h := by unfold Strand.wm; split <;> rfl
@[simp] theorem Strand.wm_v (z : Strand) (k : MReg) (x : Dword) : (z.wm k x).v = z.v := by unfold Strand.wm; split <;> rfl
@[simp] theorem Strand.wm_spr (z : Strand) (k : MReg) (x : Dword) : (z.wm k x).spr = z.spr := by unfold Strand.wm; split <;> rfl
@[simp] theorem Strand.wm_wait (z : Strand) (k : MReg) (x : Dword) : (z.wm k x).wait = z.wait := by unfold Strand.wm; split <;> rfl
@[simp] theorem Strand.wm_vload (z : Strand) (k : MReg) (x : Dword) : (z.wm k x).vload = z.vload := by unfold Strand.wm; split <;> rfl
@[simp] theorem Strand.wm_lines (z : Strand) (k : MReg) (x : Dword) : (z.wm k x).lines = z.lines := by unfold Strand.wm; split <;> rfl
@[simp] theorem Strand.wm_lease (z : Strand) (k : MReg) (x : Dword) : (z.wm k x).lease = z.lease := by unfold Strand.wm; split <;> rfl
@[simp] theorem Strand.wm_flushes (z : Strand) (k : MReg) (x : Dword) : (z.wm k x).flushes = z.flushes := by unfold Strand.wm; split <;> rfl
@[simp] theorem Strand.wv_life (z : Strand) (r : VReg) (x : Vector Word 64) : (z.wv r x).life = z.life := rfl
@[simp] theorem Strand.wv_cond (z : Strand) (r : VReg) (x : Vector Word 64) : (z.wv r x).cond = z.cond := rfl
@[simp] theorem Strand.wv_held (z : Strand) (r : VReg) (x : Vector Word 64) : (z.wv r x).held = z.held := rfl
@[simp] theorem Strand.wv_live (z : Strand) (r : VReg) (x : Vector Word 64) : (z.wv r x).live = z.live := rfl
@[simp] theorem Strand.wv_pc (z : Strand) (r : VReg) (x : Vector Word 64) : (z.wv r x).pc = z.pc := rfl
@[simp] theorem Strand.wv_block (z : Strand) (r : VReg) (x : Vector Word 64) : (z.wv r x).block = z.block := rfl
@[simp] theorem Strand.wv_guard (z : Strand) (r : VReg) (x : Vector Word 64) : (z.wv r x).guard = z.guard := rfl
@[simp] theorem Strand.wv_g (z : Strand) (r : VReg) (x : Vector Word 64) : (z.wv r x).g = z.g := rfl
@[simp] theorem Strand.wv_full (z : Strand) (r : VReg) (x : Vector Word 64) : (z.wv r x).full = z.full := rfl
@[simp] theorem Strand.wv_p (z : Strand) (r : VReg) (x : Vector Word 64) : (z.wv r x).p = z.p := rfl
@[simp] theorem Strand.wv_h (z : Strand) (r : VReg) (x : Vector Word 64) : (z.wv r x).h = z.h := rfl
@[simp] theorem Strand.wv_m (z : Strand) (r : VReg) (x : Vector Word 64) : (z.wv r x).m = z.m := rfl
@[simp] theorem Strand.wv_spr (z : Strand) (r : VReg) (x : Vector Word 64) : (z.wv r x).spr = z.spr := rfl
@[simp] theorem Strand.wv_wait (z : Strand) (r : VReg) (x : Vector Word 64) : (z.wv r x).wait = z.wait := rfl
@[simp] theorem Strand.wv_vload (z : Strand) (r : VReg) (x : Vector Word 64) : (z.wv r x).vload = z.vload := rfl
@[simp] theorem Strand.wv_lines (z : Strand) (r : VReg) (x : Vector Word 64) : (z.wv r x).lines = z.lines := rfl
@[simp] theorem Strand.wv_lease (z : Strand) (r : VReg) (x : Vector Word 64) : (z.wv r x).lease = z.lease := rfl
@[simp] theorem Strand.wv_flushes (z : Strand) (r : VReg) (x : Vector Word 64) : (z.wv r x).flushes = z.flushes := rfl
@[simp] theorem Strand.wh_life (z : Strand) (r : HReg) (x : Handle) : (z.wh r x).life = z.life := rfl
@[simp] theorem Strand.wh_cond (z : Strand) (r : HReg) (x : Handle) : (z.wh r x).cond = z.cond := rfl
@[simp] theorem Strand.wh_held (z : Strand) (r : HReg) (x : Handle) : (z.wh r x).held = z.held := rfl
@[simp] theorem Strand.wh_live (z : Strand) (r : HReg) (x : Handle) : (z.wh r x).live = z.live := rfl
@[simp] theorem Strand.wh_pc (z : Strand) (r : HReg) (x : Handle) : (z.wh r x).pc = z.pc := rfl
@[simp] theorem Strand.wh_block (z : Strand) (r : HReg) (x : Handle) : (z.wh r x).block = z.block := rfl
@[simp] theorem Strand.wh_guard (z : Strand) (r : HReg) (x : Handle) : (z.wh r x).guard = z.guard := rfl
@[simp] theorem Strand.wh_g (z : Strand) (r : HReg) (x : Handle) : (z.wh r x).g = z.g := rfl
@[simp] theorem Strand.wh_full (z : Strand) (r : HReg) (x : Handle) : (z.wh r x).full = z.full := rfl
@[simp] theorem Strand.wh_p (z : Strand) (r : HReg) (x : Handle) : (z.wh r x).p = z.p := rfl
@[simp] theorem Strand.wh_v (z : Strand) (r : HReg) (x : Handle) : (z.wh r x).v = z.v := rfl
@[simp] theorem Strand.wh_m (z : Strand) (r : HReg) (x : Handle) : (z.wh r x).m = z.m := rfl
@[simp] theorem Strand.wh_spr (z : Strand) (r : HReg) (x : Handle) : (z.wh r x).spr = z.spr := rfl
@[simp] theorem Strand.wh_wait (z : Strand) (r : HReg) (x : Handle) : (z.wh r x).wait = z.wait := rfl
@[simp] theorem Strand.wh_vload (z : Strand) (r : HReg) (x : Handle) : (z.wh r x).vload = z.vload := rfl
@[simp] theorem Strand.wh_lines (z : Strand) (r : HReg) (x : Handle) : (z.wh r x).lines = z.lines := rfl
@[simp] theorem Strand.wh_lease (z : Strand) (r : HReg) (x : Handle) : (z.wh r x).lease = z.lease := rfl
@[simp] theorem Strand.wh_flushes (z : Strand) (r : HReg) (x : Handle) : (z.wh r x).flushes = z.flushes := rfl
@[simp] theorem Strand.empty_life (z : Strand) (r : GReg) : (z.empty r).life = z.life := by unfold Strand.empty; split <;> rfl
@[simp] theorem Strand.empty_cond (z : Strand) (r : GReg) : (z.empty r).cond = z.cond := by unfold Strand.empty; split <;> rfl
@[simp] theorem Strand.empty_held (z : Strand) (r : GReg) : (z.empty r).held = z.held := by unfold Strand.empty; split <;> rfl
@[simp] theorem Strand.empty_live (z : Strand) (r : GReg) : (z.empty r).live = z.live := by unfold Strand.empty; split <;> rfl
@[simp] theorem Strand.empty_pc (z : Strand) (r : GReg) : (z.empty r).pc = z.pc := by unfold Strand.empty; split <;> rfl
@[simp] theorem Strand.empty_block (z : Strand) (r : GReg) : (z.empty r).block = z.block := by unfold Strand.empty; split <;> rfl
@[simp] theorem Strand.empty_guard (z : Strand) (r : GReg) : (z.empty r).guard = z.guard := by unfold Strand.empty; split <;> rfl
@[simp] theorem Strand.empty_g (z : Strand) (r : GReg) : (z.empty r).g = z.g := by unfold Strand.empty; split <;> rfl
@[simp] theorem Strand.empty_p (z : Strand) (r : GReg) : (z.empty r).p = z.p := by unfold Strand.empty; split <;> rfl
@[simp] theorem Strand.empty_h (z : Strand) (r : GReg) : (z.empty r).h = z.h := by unfold Strand.empty; split <;> rfl
@[simp] theorem Strand.empty_v (z : Strand) (r : GReg) : (z.empty r).v = z.v := by unfold Strand.empty; split <;> rfl
@[simp] theorem Strand.empty_m (z : Strand) (r : GReg) : (z.empty r).m = z.m := by unfold Strand.empty; split <;> rfl
@[simp] theorem Strand.empty_spr (z : Strand) (r : GReg) : (z.empty r).spr = z.spr := by unfold Strand.empty; split <;> rfl
@[simp] theorem Strand.empty_wait (z : Strand) (r : GReg) : (z.empty r).wait = z.wait := by unfold Strand.empty; split <;> rfl
@[simp] theorem Strand.empty_vload (z : Strand) (r : GReg) : (z.empty r).vload = z.vload := by unfold Strand.empty; split <;> rfl
@[simp] theorem Strand.empty_lines (z : Strand) (r : GReg) : (z.empty r).lines = z.lines := by unfold Strand.empty; split <;> rfl
@[simp] theorem Strand.empty_lease (z : Strand) (r : GReg) : (z.empty r).lease = z.lease := by unfold Strand.empty; split <;> rfl
@[simp] theorem Strand.empty_flushes (z : Strand) (r : GReg) : (z.empty r).flushes = z.flushes := by unfold Strand.empty; split <;> rfl
@[simp] theorem Strand.fill_life (z : Strand) (r : GReg) (x : Dword) : (z.fill r x).life = z.life := by unfold Strand.fill; split <;> simp
@[simp] theorem Strand.fill_cond (z : Strand) (r : GReg) (x : Dword) : (z.fill r x).cond = z.cond := by unfold Strand.fill; split <;> simp
@[simp] theorem Strand.fill_held (z : Strand) (r : GReg) (x : Dword) : (z.fill r x).held = z.held := by unfold Strand.fill; split <;> simp
@[simp] theorem Strand.fill_live (z : Strand) (r : GReg) (x : Dword) : (z.fill r x).live = z.live := by unfold Strand.fill; split <;> simp
@[simp] theorem Strand.fill_pc (z : Strand) (r : GReg) (x : Dword) : (z.fill r x).pc = z.pc := by unfold Strand.fill; split <;> simp
@[simp] theorem Strand.fill_block (z : Strand) (r : GReg) (x : Dword) : (z.fill r x).block = z.block := by unfold Strand.fill; split <;> simp
@[simp] theorem Strand.fill_guard (z : Strand) (r : GReg) (x : Dword) : (z.fill r x).guard = z.guard := by unfold Strand.fill; split <;> simp
@[simp] theorem Strand.fill_p (z : Strand) (r : GReg) (x : Dword) : (z.fill r x).p = z.p := by unfold Strand.fill; split <;> simp
@[simp] theorem Strand.fill_h (z : Strand) (r : GReg) (x : Dword) : (z.fill r x).h = z.h := by unfold Strand.fill; split <;> simp
@[simp] theorem Strand.fill_v (z : Strand) (r : GReg) (x : Dword) : (z.fill r x).v = z.v := by unfold Strand.fill; split <;> simp
@[simp] theorem Strand.fill_m (z : Strand) (r : GReg) (x : Dword) : (z.fill r x).m = z.m := by unfold Strand.fill; split <;> simp
@[simp] theorem Strand.fill_spr (z : Strand) (r : GReg) (x : Dword) : (z.fill r x).spr = z.spr := by unfold Strand.fill; split <;> simp
@[simp] theorem Strand.fill_wait (z : Strand) (r : GReg) (x : Dword) : (z.fill r x).wait = z.wait := by unfold Strand.fill; split <;> simp
@[simp] theorem Strand.fill_vload (z : Strand) (r : GReg) (x : Dword) : (z.fill r x).vload = z.vload := by unfold Strand.fill; split <;> simp
@[simp] theorem Strand.fill_lines (z : Strand) (r : GReg) (x : Dword) : (z.fill r x).lines = z.lines := by unfold Strand.fill; split <;> simp
@[simp] theorem Strand.fill_lease (z : Strand) (r : GReg) (x : Dword) : (z.fill r x).lease = z.lease := by unfold Strand.fill; split <;> simp
@[simp] theorem Strand.fill_flushes (z : Strand) (r : GReg) (x : Dword) : (z.fill r x).flushes = z.flushes := by unfold Strand.fill; split <;> simp
@[simp] theorem Strand.flags_life (z : Strand) (f : BitVec 9) : (z.flags f).life = z.life := rfl
@[simp] theorem Strand.flags_cond (z : Strand) (f : BitVec 9) : (z.flags f).cond = z.cond := rfl
@[simp] theorem Strand.flags_held (z : Strand) (f : BitVec 9) : (z.flags f).held = z.held := rfl
@[simp] theorem Strand.flags_live (z : Strand) (f : BitVec 9) : (z.flags f).live = z.live := rfl
@[simp] theorem Strand.flags_pc (z : Strand) (f : BitVec 9) : (z.flags f).pc = z.pc := rfl
@[simp] theorem Strand.flags_block (z : Strand) (f : BitVec 9) : (z.flags f).block = z.block := rfl
@[simp] theorem Strand.flags_guard (z : Strand) (f : BitVec 9) : (z.flags f).guard = z.guard := rfl
@[simp] theorem Strand.flags_g (z : Strand) (f : BitVec 9) : (z.flags f).g = z.g := rfl
@[simp] theorem Strand.flags_full (z : Strand) (f : BitVec 9) : (z.flags f).full = z.full := rfl
@[simp] theorem Strand.flags_p (z : Strand) (f : BitVec 9) : (z.flags f).p = z.p := rfl
@[simp] theorem Strand.flags_h (z : Strand) (f : BitVec 9) : (z.flags f).h = z.h := rfl
@[simp] theorem Strand.flags_v (z : Strand) (f : BitVec 9) : (z.flags f).v = z.v := rfl
@[simp] theorem Strand.flags_m (z : Strand) (f : BitVec 9) : (z.flags f).m = z.m := rfl
@[simp] theorem Strand.flags_wait (z : Strand) (f : BitVec 9) : (z.flags f).wait = z.wait := rfl
@[simp] theorem Strand.flags_vload (z : Strand) (f : BitVec 9) : (z.flags f).vload = z.vload := rfl
@[simp] theorem Strand.flags_lines (z : Strand) (f : BitVec 9) : (z.flags f).lines = z.lines := rfl
@[simp] theorem Strand.flags_lease (z : Strand) (f : BitVec 9) : (z.flags f).lease = z.lease := rfl
@[simp] theorem Strand.flags_flushes (z : Strand) (f : BitVec 9) : (z.flags f).flushes = z.flushes := rfl
@[simp] theorem Strand.count_life (z : Strand) : (z.count).life = z.life := rfl
@[simp] theorem Strand.count_cond (z : Strand) : (z.count).cond = z.cond := rfl
@[simp] theorem Strand.count_held (z : Strand) : (z.count).held = z.held := rfl
@[simp] theorem Strand.count_live (z : Strand) : (z.count).live = z.live := rfl
@[simp] theorem Strand.count_pc (z : Strand) : (z.count).pc = z.pc := rfl
@[simp] theorem Strand.count_block (z : Strand) : (z.count).block = z.block := rfl
@[simp] theorem Strand.count_guard (z : Strand) : (z.count).guard = z.guard := rfl
@[simp] theorem Strand.count_g (z : Strand) : (z.count).g = z.g := rfl
@[simp] theorem Strand.count_full (z : Strand) : (z.count).full = z.full := rfl
@[simp] theorem Strand.count_p (z : Strand) : (z.count).p = z.p := rfl
@[simp] theorem Strand.count_h (z : Strand) : (z.count).h = z.h := rfl
@[simp] theorem Strand.count_v (z : Strand) : (z.count).v = z.v := rfl
@[simp] theorem Strand.count_m (z : Strand) : (z.count).m = z.m := rfl
@[simp] theorem Strand.count_wait (z : Strand) : (z.count).wait = z.wait := rfl
@[simp] theorem Strand.count_vload (z : Strand) : (z.count).vload = z.vload := rfl
@[simp] theorem Strand.count_lines (z : Strand) : (z.count).lines = z.lines := rfl
@[simp] theorem Strand.count_lease (z : Strand) : (z.count).lease = z.lease := rfl
@[simp] theorem Strand.count_flushes (z : Strand) : (z.count).flushes = z.flushes := rfl
@[simp] theorem Strand.dropped_life (z : Strand) (n : Nat) : (z.dropped n).life = z.life := rfl
@[simp] theorem Strand.dropped_cond (z : Strand) (n : Nat) : (z.dropped n).cond = z.cond := rfl
@[simp] theorem Strand.dropped_held (z : Strand) (n : Nat) : (z.dropped n).held = z.held := rfl
@[simp] theorem Strand.dropped_live (z : Strand) (n : Nat) : (z.dropped n).live = z.live := rfl
@[simp] theorem Strand.dropped_pc (z : Strand) (n : Nat) : (z.dropped n).pc = z.pc := rfl
@[simp] theorem Strand.dropped_block (z : Strand) (n : Nat) : (z.dropped n).block = z.block := rfl
@[simp] theorem Strand.dropped_guard (z : Strand) (n : Nat) : (z.dropped n).guard = z.guard := rfl
@[simp] theorem Strand.dropped_g (z : Strand) (n : Nat) : (z.dropped n).g = z.g := rfl
@[simp] theorem Strand.dropped_full (z : Strand) (n : Nat) : (z.dropped n).full = z.full := rfl
@[simp] theorem Strand.dropped_p (z : Strand) (n : Nat) : (z.dropped n).p = z.p := rfl
@[simp] theorem Strand.dropped_h (z : Strand) (n : Nat) : (z.dropped n).h = z.h := rfl
@[simp] theorem Strand.dropped_v (z : Strand) (n : Nat) : (z.dropped n).v = z.v := rfl
@[simp] theorem Strand.dropped_m (z : Strand) (n : Nat) : (z.dropped n).m = z.m := rfl
@[simp] theorem Strand.dropped_wait (z : Strand) (n : Nat) : (z.dropped n).wait = z.wait := rfl
@[simp] theorem Strand.dropped_vload (z : Strand) (n : Nat) : (z.dropped n).vload = z.vload := rfl
@[simp] theorem Strand.dropped_lines (z : Strand) (n : Nat) : (z.dropped n).lines = z.lines := rfl
@[simp] theorem Strand.dropped_lease (z : Strand) (n : Nat) : (z.dropped n).lease = z.lease := rfl
@[simp] theorem Strand.dropped_flushes (z : Strand) (n : Nat) : (z.dropped n).flushes = z.flushes := rfl
@[simp] theorem Strand.corrected_life (z : Strand) (n : Nat) : (z.corrected n).life = z.life := rfl
@[simp] theorem Strand.corrected_cond (z : Strand) (n : Nat) : (z.corrected n).cond = z.cond := rfl
@[simp] theorem Strand.corrected_held (z : Strand) (n : Nat) : (z.corrected n).held = z.held := rfl
@[simp] theorem Strand.corrected_live (z : Strand) (n : Nat) : (z.corrected n).live = z.live := rfl
@[simp] theorem Strand.corrected_pc (z : Strand) (n : Nat) : (z.corrected n).pc = z.pc := rfl
@[simp] theorem Strand.corrected_block (z : Strand) (n : Nat) : (z.corrected n).block = z.block := rfl
@[simp] theorem Strand.corrected_guard (z : Strand) (n : Nat) : (z.corrected n).guard = z.guard := rfl
@[simp] theorem Strand.corrected_g (z : Strand) (n : Nat) : (z.corrected n).g = z.g := rfl
@[simp] theorem Strand.corrected_full (z : Strand) (n : Nat) : (z.corrected n).full = z.full := rfl
@[simp] theorem Strand.corrected_p (z : Strand) (n : Nat) : (z.corrected n).p = z.p := rfl
@[simp] theorem Strand.corrected_h (z : Strand) (n : Nat) : (z.corrected n).h = z.h := rfl
@[simp] theorem Strand.corrected_v (z : Strand) (n : Nat) : (z.corrected n).v = z.v := rfl
@[simp] theorem Strand.corrected_m (z : Strand) (n : Nat) : (z.corrected n).m = z.m := rfl
@[simp] theorem Strand.corrected_wait (z : Strand) (n : Nat) : (z.corrected n).wait = z.wait := rfl
@[simp] theorem Strand.corrected_vload (z : Strand) (n : Nat) : (z.corrected n).vload = z.vload := rfl
@[simp] theorem Strand.corrected_lines (z : Strand) (n : Nat) : (z.corrected n).lines = z.lines := rfl
@[simp] theorem Strand.corrected_lease (z : Strand) (n : Nat) : (z.corrected n).lease = z.lease := rfl
@[simp] theorem Strand.corrected_flushes (z : Strand) (n : Nat) : (z.corrected n).flushes = z.flushes := rfl
@[simp] theorem Strand.rewind_life (z : Strand) : (z.rewind).life = z.life := rfl
@[simp] theorem Strand.rewind_cond (z : Strand) : (z.rewind).cond = z.cond := rfl
@[simp] theorem Strand.rewind_held (z : Strand) : (z.rewind).held = z.held := rfl
@[simp] theorem Strand.rewind_live (z : Strand) : (z.rewind).live = z.live := rfl
@[simp] theorem Strand.rewind_block (z : Strand) : (z.rewind).block = z.block := rfl
@[simp] theorem Strand.rewind_g (z : Strand) : (z.rewind).g = z.g := rfl
@[simp] theorem Strand.rewind_full (z : Strand) : (z.rewind).full = z.full := rfl
@[simp] theorem Strand.rewind_p (z : Strand) : (z.rewind).p = z.p := rfl
@[simp] theorem Strand.rewind_h (z : Strand) : (z.rewind).h = z.h := rfl
@[simp] theorem Strand.rewind_v (z : Strand) : (z.rewind).v = z.v := rfl
@[simp] theorem Strand.rewind_m (z : Strand) : (z.rewind).m = z.m := rfl
@[simp] theorem Strand.rewind_spr (z : Strand) : (z.rewind).spr = z.spr := rfl
@[simp] theorem Strand.rewind_wait (z : Strand) : (z.rewind).wait = z.wait := rfl
@[simp] theorem Strand.rewind_vload (z : Strand) : (z.rewind).vload = z.vload := rfl
@[simp] theorem Strand.rewind_lines (z : Strand) : (z.rewind).lines = z.lines := rfl
@[simp] theorem Strand.rewind_lease (z : Strand) : (z.rewind).lease = z.lease := rfl
@[simp] theorem Strand.rewind_flushes (z : Strand) : (z.rewind).flushes = z.flushes := rfl

theorem Strand.rg_zero (z : Strand) : z.rg 0 = 0 := rfl
theorem Strand.wg_zero (z : Strand) (x : Dword) : z.wg 0 x = z := rfl
theorem Strand.rg_wg (z : Strand) (r q : GReg) (x : Dword) :
    (z.wg r x).rg q = if q = r ∧ r ≠ 0 then x else z.rg q := by
  by_cases hr : r = 0#6
  · simp [Strand.wg, hr]
  by_cases hq : q = 0#6
  · have h0 : ¬(0#6 = r) := fun h => hr h.symm
    simp [Strand.rg, hq, h0]
  by_cases e : q = r
  · subst e
    simp [Strand.wg, Strand.rg, hq]
  · have h : r.toNat ≠ q.toNat := fun h => e (BitVec.eq_of_toNat_eq h.symm)
    simp [Strand.wg, Strand.rg, hr, hq, e, Vector.getElem_set_ne, h]

end Sys2Proof.Machine
end

