-- ==== Sys2Proof/Laws/Issue.lean ====
section
/-!
SUPPORT. What `issue` answers once its checks hold, and what passing a unit leaves.
-/

namespace Sys2Proof.Machine

/-- What becomes of an instruction whose checks hold, by what its body answers (R17, R25, R36, R119). -/
theorem issue_of_full (u : Use) (body : State → Body) (s : State) (hon : s.turn.strand ∈ u.on) (hg : s.me.guard ≠ some false)
    (hsrc : ∀ x ∈ u.src, s.me.isFull x.1 = true) (hdst : ∀ r ∈ u.dst, s.me.isFull r = true)
    (hr : s.resultDue (u.dst ++ u.src.map (·.1)) [] = false) (hh : u.hold s = none) (ho : s.overrun = false ∨ u.safe = true) :
    issue u body s =
      match body (if u.safe then s else s.setMe s.me.count) with
      | .trap cause addr detail => .next (s.trap cause addr detail)
      | .wait c s' => .next ((s'.setMe { s'.me with spr := { s'.me.spr with spcnt := s.me.spr.spcnt } }).block c)
      | .next s' => .next (s'.pass u.len)
      | .jump s' t => .next (s'.setMe (s'.me.jump t))
      | .trapAfter cause arg =>
        .next (((if u.safe then s else s.setMe s.me.count).pass u.len).faultAt s.turn cause arg 0 0)
      | .fatal s' cause addr detail =>
        .next ((s'.setMe { s'.me with spr := { s'.me.spr with spcnt := s.me.spr.spcnt } }).fatal s.turn cause addr detail)
      | .resumable s' cause addr => .next ((s'.setMe s'.me.rewind).faultAt s.turn cause 0 addr 0) := by
  have e1 : u.on.contains s.turn.strand = true := by simpa using hon
  have e2 : (s.me.guard == some false) = false := by simpa using hg
  have e3 : (u.src.any fun x => !x.2 && !s.me.isFull x.1) = false := by
    simp only [List.any_eq_false]
    intro x hx
    simp [hsrc x hx]
  have e4 : (u.src.any fun x => x.2 && !s.me.isFull x.1) = false := by
    simp only [List.any_eq_false]
    intro x hx
    simp [hsrc x hx]
  have e5 : (u.dst.any fun r => !s.me.isFull r) = false := by
    simp only [List.any_eq_false]
    intro x hx
    simp [hdst x hx]
  have e6 : (s.overrun && !u.safe) = false := by
    rcases ho with h | h <;> simp [h]
  simp only [issue, e1, e2, e3, e4, e5, e6, hr, hh, Bool.or_false, Bool.not_true, if_false, Bool.false_eq_true]
  generalize body (if u.safe = true then s else s.setMe s.me.count) = b
  cases b <;> rfl

/-- An instruction of another strand's class is the illegal instruction (R17). -/
theorem issue_of_class (u : Use) (body : State → Body) (s : State) (hon : s.turn.strand ∉ u.on) :
    issue u body s = .next (s.trap 0x0001 0 0) := by
  have e1 : u.on.contains s.turn.strand = false := by simpa using hon
  unfold issue
  rw [e1]
  rfl

/-- A unit whose guard failed only passes (R36). -/
theorem issue_of_guard (u : Use) (body : State → Body) (s : State) (hon : s.turn.strand ∈ u.on) (hg : s.me.guard = some false)
    (ho : s.overrun = false) : issue u body s = .next ((s.setMe s.me.count).pass u.len) := by
  have e1 : u.on.contains s.turn.strand = true := by simpa using hon
  unfold issue
  simp only [e1, hg, ho]
  rfl

/-- An instruction always answers a next state, whatever its operands. -/
theorem issue_next (u : Use) (body : State → Body) (s : State) : ∃ t, issue u body s = .next t := by
  simp only [issue]
  repeat' split
  all_goals exact ⟨_, rfl⟩

/-- A body that writes one `g` register changes the strand alone (R87). -/
theorem issue_writeG (u : Use) (d : GReg) (f : Strand → Dword) (s : State) (hon : s.turn.strand ∈ u.on)
    (hg : s.me.guard ≠ some false) (hsrc : ∀ x ∈ u.src, s.me.isFull x.1 = true) (hdst : ∀ r ∈ u.dst, s.me.isFull r = true)
    (hr : s.resultDue (u.dst ++ u.src.map (·.1)) [] = false) (hh : u.hold s = none) (ho : s.overrun = false) (hs : u.safe = false) :
    issue u (writeG d f) s = .next ((s.setMe (s.me.count.wg d (f s.me.count))).pass u.len) := by
  rw [issue_of_full u _ s hon hg hsrc hdst hr hh (.inl ho)]
  simp [hs, writeG]

/-- A body that writes one predicate changes the strand alone (R94). -/
theorem issue_writeP (u : Use) (d : PReg) (f : Strand → Bool) (s : State) (hon : s.turn.strand ∈ u.on)
    (hg : s.me.guard ≠ some false) (hsrc : ∀ x ∈ u.src, s.me.isFull x.1 = true) (hdst : ∀ r ∈ u.dst, s.me.isFull r = true)
    (hr : s.resultDue (u.dst ++ u.src.map (·.1)) [] = false) (hh : u.hold s = none) (ho : s.overrun = false) (hs : u.safe = false) :
    issue u (writeP d f) s = .next ((s.setMe (s.me.count.wp d (f s.me.count))).pass u.len) := by
  rw [issue_of_full u _ s hon hg hsrc hdst hr hh (.inl ho)]
  simp [hs, writeP]

end Sys2Proof.Machine
end

