-- ==== Sys2Proof/Laws/Memory.lean ====
section
/-!
SUPPORT. Byte memories and tables: every operation keeps the canonical form, a byte reads as it was last written, and two
canonical memories that read alike are one list.
-/

namespace Sys2Proof.Machine

/-! ### The canonical form -/

/-- The canonical form from an address on: addresses rise, none lies below, and no byte is 0. -/
theorem Mem.wfFrom_iff (m : Mem) (lo : Nat) :
    Mem.wfFrom lo m = true ↔ m.Pairwise (fun x y => x.1 < y.1) ∧ ∀ x ∈ m, lo ≤ x.1 ∧ x.2 ≠ 0 := by
  induction m generalizing lo with
  | nil => simp [Mem.wfFrom]
  | cons p r ih =>
    obtain ⟨k, x⟩ := p
    simp only [Mem.wfFrom, Bool.and_eq_true, decide_eq_true_eq, bne_iff_ne, ih, List.pairwise_cons, List.mem_cons,
      forall_eq_or_imp]
    constructor
    · rintro ⟨⟨h1, h2⟩, h3, h4⟩
      exact ⟨⟨fun y hy => by have := (h4 y hy).1; omega, h3⟩, ⟨h1, h2⟩, fun y hy =>
        ⟨by have := (h4 y hy).1; omega, (h4 y hy).2⟩⟩
    · rintro ⟨⟨h1, h2⟩, ⟨h3, h4⟩, h5⟩
      exact ⟨⟨h3, h4⟩, h2, fun y hy => ⟨by have := h1 y hy; omega, (h5 y hy).2⟩⟩

/-- The canonical form: addresses rise and no byte is 0. -/
theorem Mem.wf_iff (m : Mem) : m.wf = true ↔ m.Pairwise (fun x y => x.1 < y.1) ∧ ∀ x ∈ m, x.2 ≠ 0 := by
  simp [Mem.wf, Mem.wfFrom_iff]

@[simp] theorem Mem.wf_nil : Mem.wf [] = true := rfl

theorem Mem.mem_insert {m : Mem} {a : Nat} {x : Byte} {y : Host.Cell} (h : y ∈ Mem.insert m a x) : y = (a, x) ∨ y ∈ m := by
  induction m with
  | nil => simpa [Mem.insert] using h
  | cons p r ih =>
    simp only [Mem.insert] at h
    split at h
    · rcases List.mem_cons.1 h with h | h
      · exact .inl h
      · exact .inr (List.mem_cons_of_mem _ h)
    · split at h
      · rcases List.mem_cons.1 h with h | h
        · exact .inl h
        · exact .inr h
      · rcases List.mem_cons.1 h with h | h
        · exact .inr (h ▸ List.mem_cons_self ..)
        · exact (ih h).imp_right (List.mem_cons_of_mem _)

theorem Mem.mem_erase {m : Mem} {a : Nat} {y : Host.Cell} (h : y ∈ Mem.erase m a) : y ∈ m := by
  induction m with
  | nil => simp [Mem.erase] at h
  | cons p r ih =>
    simp only [Mem.erase] at h
    split at h
    · exact List.mem_cons_of_mem _ h
    · split at h
      · exact h
      · rcases List.mem_cons.1 h with h | h
        · exact h ▸ List.mem_cons_self ..
        · exact List.mem_cons_of_mem _ (ih h)

theorem Mem.wf_insert {m : Mem} {a : Nat} {x : Byte} (hx : x ≠ 0) (h : m.wf = true) : (Mem.insert m a x).wf = true := by
  rw [Mem.wf_iff] at h ⊢
  induction m with
  | nil => simpa [Mem.insert] using hx
  | cons p r ih =>
    obtain ⟨h1, h2⟩ := h
    rw [List.pairwise_cons] at h1
    have hr : ∀ y ∈ r, y.2 ≠ 0 := fun y hy => h2 y (List.mem_cons_of_mem _ hy)
    simp only [Mem.insert]
    split
    · rename_i e
      refine ⟨List.pairwise_cons.2 ⟨fun y hy => e ▸ h1.1 y hy, h1.2⟩, ?_⟩
      rintro y hy
      rcases List.mem_cons.1 hy with rfl | hy
      · exact hx
      · exact hr y hy
    · split
      · rename_i e
        refine ⟨List.pairwise_cons.2 ⟨?_, List.pairwise_cons.2 h1⟩, ?_⟩
        · intro y hy
          rcases List.mem_cons.1 hy with rfl | hy
          · exact e
          · exact Nat.lt_trans e (h1.1 y hy)
        · rintro y hy
          rcases List.mem_cons.1 hy with rfl | hy
          · exact hx
          · exact h2 y hy
      · obtain ⟨i1, i2⟩ := ih ⟨h1.2, hr⟩
        refine ⟨List.pairwise_cons.2 ⟨?_, i1⟩, ?_⟩
        · intro y hy
          rcases Mem.mem_insert hy with rfl | hy
          · show p.1 < a
            omega
          · exact h1.1 y hy
        · intro y hy
          rcases List.mem_cons.1 hy with e | hy
          · exact e ▸ h2 p (List.mem_cons_self ..)
          · exact i2 y hy

theorem Mem.wf_erase {m : Mem} {a : Nat} (h : m.wf = true) : (Mem.erase m a).wf = true := by
  rw [Mem.wf_iff] at h ⊢
  refine ⟨?_, fun y hy => h.2 y (Mem.mem_erase hy)⟩
  replace h := h.1
  induction m with
  | nil => simp [Mem.erase]
  | cons p r ih =>
    rw [List.pairwise_cons] at h
    simp only [Mem.erase]
    split
    · exact h.2
    · split
      · exact List.pairwise_cons.2 h
      · exact List.pairwise_cons.2 ⟨fun y hy => h.1 y (Mem.mem_erase hy), ih h.2⟩

/-- A write keeps the canonical form. -/
theorem Mem.wf_put {m : Mem} {a : Nat} {x : Byte} (h : m.wf = true) : (m.put a x).wf = true := by
  unfold Mem.put
  split
  · exact Mem.wf_erase h
  · exact Mem.wf_insert ‹_› h

/-- A write of a number keeps the canonical form. -/
theorem Mem.wf_putNat {m : Mem} {a n v : Nat} (h : m.wf = true) : (m.putNat a n v).wf = true := by
  induction n generalizing m a v with
  | zero => exact h
  | succ n ih => exact ih (Mem.wf_put h)

/-- A write of bytes keeps the canonical form. -/
theorem Mem.wf_putBytes {m : Mem} {a : Nat} {bs : List Byte} (h : m.wf = true) : (m.putBytes a bs).wf = true := by
  induction bs generalizing m a with
  | nil => exact h
  | cons b r ih => exact ih (Mem.wf_put h)

/-- What cells make is canonical. -/
theorem Mem.wf_canon (xs : Mem) : (Mem.canon xs).wf = true := by
  suffices h : ∀ m : Mem, m.wf = true → (xs.foldl (fun m x => m.put x.1 x.2) m).wf = true from h [] rfl
  induction xs with
  | nil => exact fun m h => h
  | cons x r ih => exact fun m h => ih _ (Mem.wf_put h)

/-- A choice of the cells keeps the canonical form. -/
theorem Mem.wf_filter {m : Mem} (p : Host.Cell → Bool) (h : m.wf = true) : Mem.wf (m.filter p) = true := by
  rw [Mem.wf_iff] at h ⊢
  exact ⟨h.1.sublist List.filter_sublist, fun y hy => h.2 y (List.mem_filter.1 hy).1⟩

/-- The cells of a range keep the canonical form. -/
theorem Mem.wf_slice {m : Mem} (a n : Nat) (h : m.wf = true) : (m.slice a n).wf = true := by
  rw [Mem.wf_iff] at h ⊢
  refine ⟨?_, ?_⟩
  · refine List.pairwise_map.2 ?_
    refine (h.1.sublist List.filter_sublist).imp_of_mem ?_
    intro x y hx hy hxy
    have h1 := (List.mem_filter.1 hx).2
    have h2 := (List.mem_filter.1 hy).2
    simp only [Bool.and_eq_true, decide_eq_true_eq] at h1 h2
    simp only
    omega
  · intro y hy
    obtain ⟨z, hz, rfl⟩ := List.mem_map.1 hy
    exact h.2 z (List.mem_filter.1 hz).1

theorem Mem.canon_bound {xs : Mem} {n : Nat} (h : ∀ x ∈ xs, x.1 < n) : ∀ y ∈ Mem.canon xs, y.1 < n := by
  suffices g : ∀ m : Mem, (∀ y ∈ m, y.1 < n) → ∀ y ∈ xs.foldl (fun m x => m.put x.1 x.2) m, y.1 < n from
    g [] (by simp)
  induction xs with
  | nil => exact fun m g => g
  | cons x r ih =>
    intro m g
    refine ih (fun y hy => h y (List.mem_cons_of_mem _ hy)) _ ?_
    intro y hy
    simp only [Mem.put] at hy
    split at hy
    · exact g y (Mem.mem_erase hy)
    · rcases Mem.mem_insert hy with rfl | hy
      · exact h x (List.mem_cons_self ..)
      · exact g y hy

/-- A replaced range keeps the canonical form. -/
theorem Mem.wf_splice {m : Mem} (a n : Nat) (xs : Mem) (h : m.wf = true) : (m.splice a n xs).wf = true := by
  have hc := (Mem.wf_iff _).1 (Mem.wf_canon (xs.slice 0 n))
  have hb : ∀ y ∈ Mem.canon (xs.slice 0 n), y.1 < n := Mem.canon_bound (by
    intro x hx
    obtain ⟨z, hz, rfl⟩ := List.mem_map.1 hx
    have := (List.mem_filter.1 hz).2
    simp only [Bool.and_eq_true, decide_eq_true_eq] at this
    simp only
    omega)
  rw [Mem.wf_iff] at h ⊢
  unfold Mem.splice
  simp only [List.pairwise_append, List.mem_append, List.mem_map, List.mem_filter, decide_eq_true_eq, List.pairwise_map]
  refine ⟨⟨⟨h.1.sublist List.filter_sublist, hc.1.imp (fun h => by omega), ?_⟩, h.1.sublist List.filter_sublist, ?_⟩, ?_⟩
  · rintro x ⟨-, hx⟩ _ ⟨y, -, rfl⟩
    simp only
    omega
  · rintro x (⟨-, hx⟩ | ⟨y, hy, rfl⟩) z ⟨-, hz⟩
    · omega
    · have := hb y hy
      simp only
      omega
  · rintro x ((⟨hx, -⟩ | ⟨y, hy, rfl⟩) | ⟨hx, -⟩)
    · exact h.2 x hx
    · exact hc.2 y hy
    · exact h.2 x hx

/-! ### What a byte reads as -/

theorem Mem.get_of_lt {m : Mem} {a : Nat} (h : ∀ x ∈ m, a < x.1) : m.get a = 0 := by
  cases m with
  | nil => rfl
  | cons p r =>
    have := h p (List.mem_cons_self ..)
    simp only [Mem.get]
    rw [if_neg (by omega), if_pos this]

theorem Mem.get_insert (m : Mem) (a b : Nat) (x : Byte) (h : m.Pairwise fun x y => x.1 < y.1) :
    (Mem.insert m a x).get b = if a = b then x else m.get b := by
  induction m with
  | nil =>
    simp only [Mem.insert, Mem.get]
    split <;> [rfl; split <;> rfl]
  | cons p r ih =>
    rw [List.pairwise_cons] at h
    simp only [Mem.insert]
    split
    · rename_i e
      subst e
      simp only [Mem.get]
      split <;> rfl
    · split
      · rename_i e
        simp only [Mem.get]
        by_cases e1 : a = b
        · simp [e1]
        · simp only [if_neg e1]
          split
          · rename_i e2
            rw [if_neg (by omega), if_pos (by omega)]
          · rfl
      · simp only [Mem.get, ih h.2]
        by_cases e1 : a = b
        · subst e1
          simp only [if_true]
          rw [if_neg (by omega), if_neg (by omega)]
        · simp [e1]

theorem Mem.get_erase (m : Mem) (a b : Nat) (h : m.Pairwise fun x y => x.1 < y.1) :
    (Mem.erase m a).get b = if a = b then 0 else m.get b := by
  induction m with
  | nil => simp [Mem.erase, Mem.get]
  | cons p r ih =>
    rw [List.pairwise_cons] at h
    simp only [Mem.erase]
    split
    · rename_i e
      subst e
      by_cases e1 : p.1 = b
      · rw [if_pos e1]
        exact Mem.get_of_lt fun y hy => e1 ▸ h.1 y hy
      · simp only [if_neg e1, Mem.get]
        split
        · rename_i e2
          exact Mem.get_of_lt fun y hy => Nat.lt_trans e2 (h.1 y hy)
        · rfl
    · split
      · rename_i e
        simp only [Mem.get]
        by_cases e1 : a = b
        · subst e1
          rw [if_neg (by omega), if_pos e, if_pos rfl]
        · rw [if_neg e1]
      · simp only [Mem.get, ih h.2]
        by_cases e1 : a = b
        · subst e1
          simp only [if_true]
          rw [if_neg (by omega), if_neg (by omega)]
        · simp [e1]

/-- A byte reads as it was last written, and a write leaves every other byte alone. -/
theorem Mem.get_put {m : Mem} (a b : Nat) (x : Byte) (h : m.wf = true) :
    (m.put a x).get b = if a = b then x else m.get b := by
  have h := ((Mem.wf_iff m).1 h).1
  unfold Mem.put
  split
  · rename_i e
    rw [Mem.get_erase m a b h, e]
  · exact Mem.get_insert m a b x h

/-- A write of bytes leaves every byte outside them alone. -/
theorem Mem.get_putBytes_outside {m : Mem} {a b : Nat} {bs : List Byte} (h : m.wf = true) (hb : b < a ∨ a + bs.length ≤ b) :
    (m.putBytes a bs).get b = m.get b := by
  induction bs generalizing m a with
  | nil => rfl
  | cons x r ih =>
    simp only [List.length_cons] at hb
    rw [Mem.putBytes, ih (Mem.wf_put h) (by omega), Mem.get_put _ _ _ h, if_neg (by omega)]

/-- A write of bytes puts each byte at its address. -/
theorem Mem.get_putBytes_inside {m : Mem} {a i : Nat} {bs : List Byte} (h : m.wf = true) (hi : i < bs.length) :
    (m.putBytes a bs).get (a + i) = bs[i] := by
  induction bs generalizing m a i with
  | nil => simp at hi
  | cons x r ih =>
    rw [Mem.putBytes]
    cases i with
    | zero =>
      rw [Mem.get_putBytes_outside (Mem.wf_put h) (by omega), Mem.get_put _ _ _ h]
      simp
    | succ i =>
      have := ih (m := m.put a x) (a := a + 1) (Mem.wf_put h) (i := i) (by simpa using hi)
      rw [show a + (i + 1) = a + 1 + i by omega, this]
      rfl

theorem Mem.putNat_eq (m : Mem) (a n v : Nat) : m.putNat a n v = m.putBytes a (leBytes n v) := by
  induction n generalizing m a v with
  | zero => rfl
  | succ n ih => exact ih _ _ _

@[simp] theorem leBytes_length (n v : Nat) : (leBytes n v).length = n := by
  induction n generalizing v with
  | zero => rfl
  | succ n ih => simp [leBytes, ih]

/-- A write of a number leaves every byte outside it alone. -/
theorem Mem.get_putNat_outside {m : Mem} {a b n v : Nat} (h : m.wf = true) (hb : b < a ∨ a + n ≤ b) :
    (m.putNat a n v).get b = m.get b := by
  rw [Mem.putNat_eq]
  exact Mem.get_putBytes_outside h (by simpa using hb)

/-- A number reads as it was written, modulo its width (R4). -/
theorem Mem.nat_putNat {m : Mem} {a n v : Nat} (h : m.wf = true) : (m.putNat a n v).nat a n = v % 256 ^ n := by
  induction n generalizing m a v with
  | zero => simp [Mem.nat, Nat.mod_one]
  | succ n ih =>
    rw [Mem.putNat, Mem.nat, ih (Mem.wf_put h), Mem.get_putNat_outside (Mem.wf_put h) (by omega), Mem.get_put _ _ _ h]
    simp only [if_true, BitVec.toNat_ofNat]
    have := Nat.mod_mul (x := v) (a := 256) (b := 256 ^ n)
    rw [show 256 ^ (n + 1) = 256 * 256 ^ n from Nat.pow_succ', this]

/-- Two canonical memories that read alike are one list. -/
theorem Mem.ext {m m' : Mem} (h : m.wf = true) (h' : m'.wf = true) (he : ∀ a, m.get a = m'.get a) : m = m' := by
  rw [Mem.wf_iff] at h h'
  induction m generalizing m' with
  | nil =>
    cases m' with
    | nil => rfl
    | cons p r =>
      have := he p.1
      simp [Mem.get] at this
      exact absurd this.symm (h'.2 p (List.mem_cons_self ..))
  | cons p r ih =>
    cases m' with
    | nil =>
      have := he p.1
      simp [Mem.get] at this
      exact absurd this (h.2 p (List.mem_cons_self ..))
    | cons q r' =>
      have h1 := List.pairwise_cons.1 h.1
      have h2 := List.pairwise_cons.1 h'.1
      have hp := h.2 p (List.mem_cons_self ..)
      have hq := h'.2 q (List.mem_cons_self ..)
      have ep := he p.1
      have eq := he q.1
      simp only [Mem.get] at ep eq
      have hk : p.1 = q.1 := by
        rcases Nat.lt_trichotomy p.1 q.1 with hlt | heq | hgt
        · rw [if_pos trivial, if_neg (by omega), if_pos hlt] at ep
          exact absurd ep hp
        · exact heq
        · rw [if_neg (by omega), if_pos hgt, if_pos trivial] at eq
          exact absurd eq.symm hq
      rw [if_pos trivial, if_pos hk.symm] at ep
      have hpq : p = q := Prod.ext hk ep
      subst hpq
      rw [ih (m' := r') ⟨h1.2, fun y hy => h.2 y (List.mem_cons_of_mem _ hy)⟩
        ⟨h2.2, fun y hy => h'.2 y (List.mem_cons_of_mem _ hy)⟩]
      intro a
      by_cases ha : p.1 < a
      · have := he a
        simp only [Mem.get] at this
        rwa [if_neg (by omega), if_neg (by omega), if_neg (by omega), if_neg (by omega)] at this
      · rw [Mem.get_of_lt fun y hy => by have := h1.1 y hy; omega, Mem.get_of_lt fun y hy => by have := h2.1 y hy; omega]

/-! ### Tables -/

/-- An entry reads as it was last listed, and listing one leaves every other alone. -/
theorem Table.get_put {α : Type} (d : α) (t : Table α) (i j : Nat) (x : α) :
    Table.get d (Table.put t i x) j = if i = j then x else Table.get d t j := by
  induction t with
  | nil =>
    simp only [Table.put, Table.get]
    split <;> [rfl; split <;> rfl]
  | cons p r ih =>
    simp only [Table.put]
    split
    · rename_i e
      subst e
      simp only [Table.get]
      split <;> rfl
    · split
      · rename_i e
        simp only [Table.get]
        by_cases e1 : i = j
        · simp [e1]
        · simp only [if_neg e1]
          split
          · rename_i e2
            rw [if_neg (by omega), if_pos (by omega)]
          · rfl
      · simp only [Table.get, ih]
        by_cases e1 : i = j
        · subst e1
          simp only [if_true]
          rw [if_neg (by omega), if_neg (by omega)]
        · simp [e1]

/-- A listed entry is found, and listing one leaves every other alone. -/
theorem Table.find_put {α : Type} (t : Table α) (i j : Nat) (x : α) :
    Table.find (Table.put t i x) j = if i = j then some x else Table.find t j := by
  induction t with
  | nil =>
    simp only [Table.put, Table.find]
    split <;> [rfl; split <;> rfl]
  | cons p r ih =>
    simp only [Table.put]
    split
    · rename_i e
      subst e
      simp only [Table.find]
      split <;> rfl
    · split
      · rename_i e
        simp only [Table.find]
        by_cases e1 : i = j
        · simp [e1]
        · simp only [if_neg e1]
          split
          · rename_i e2
            rw [if_neg (by omega), if_pos (by omega)]
          · rfl
      · simp only [Table.find, ih]
        by_cases e1 : i = j
        · subst e1
          simp only [if_true]
          rw [if_neg (by omega), if_neg (by omega)]
        · simp [e1]

theorem Table.mem_put {α : Type} {t : Table α} {i : Nat} {x : α} {y : Nat × α} (h : y ∈ Table.put t i x) :
    y = (i, x) ∨ y ∈ t := by
  induction t with
  | nil => simpa [Table.put] using h
  | cons p r ih =>
    simp only [Table.put] at h
    split at h
    · rcases List.mem_cons.1 h with h | h
      · exact .inl h
      · exact .inr (List.mem_cons_of_mem _ h)
    · split at h
      · rcases List.mem_cons.1 h with h | h
        · exact .inl h
        · exact .inr h
      · rcases List.mem_cons.1 h with h | h
        · exact .inr (h ▸ List.mem_cons_self ..)
        · exact (ih h).imp_right (List.mem_cons_of_mem _)

/-- Listing an entry keeps the keys rising. -/
theorem Table.rising_put {α : Type} {t : Table α} (i : Nat) (x : α) (h : t.Pairwise fun x y => x.1 < y.1) :
    (Table.put t i x).Pairwise fun x y => x.1 < y.1 := by
  induction t with
  | nil => simp [Table.put]
  | cons p r ih =>
    rw [List.pairwise_cons] at h
    simp only [Table.put]
    split
    · rename_i e
      exact List.pairwise_cons.2 ⟨fun y hy => e ▸ h.1 y hy, h.2⟩
    · split
      · rename_i e
        refine List.pairwise_cons.2 ⟨?_, List.pairwise_cons.2 h⟩
        intro y hy
        rcases List.mem_cons.1 hy with rfl | hy
        · exact e
        · exact Nat.lt_trans e (h.1 y hy)
      · refine List.pairwise_cons.2 ⟨?_, ih h.2⟩
        intro y hy
        rcases Table.mem_put hy with rfl | hy
        · simp only; omega
        · exact h.1 y hy

theorem Table.del_sublist {α : Type} (t : Table α) (i : Nat) : (Table.del t i).Sublist t := by
  induction t with
  | nil => exact .slnil
  | cons p r ih =>
    simp only [Table.del]
    split
    · exact List.sublist_cons_self ..
    · split
      · exact List.Sublist.refl _
      · exact ih.cons_cons _

/-- Taking an entry out keeps the keys rising. -/
theorem Table.rising_del {α : Type} {t : Table α} (i : Nat) (h : t.Pairwise fun x y => x.1 < y.1) :
    (Table.del t i).Pairwise fun x y => x.1 < y.1 := h.sublist (Table.del_sublist t i)

/-! ### Reading -/

/-- A memory in two parts, the addresses of one below the other's, reads as the part that holds the address. -/
theorem Mem.get_append {m m' : Mem} {b : Nat} (h : ∀ x ∈ m, x.1 < b) (h' : ∀ x ∈ m', b ≤ x.1) (a : Nat) :
    Mem.get (m ++ m') a = if a < b then Mem.get m a else Mem.get m' a := by
  induction m with
  | nil =>
    split
    · exact Mem.get_of_lt fun x hx => by have := h' x hx; omega
    · rfl
  | cons x m ih =>
    obtain ⟨k, v⟩ := x
    have hk : k < b := h (k, v) (by simp)
    have := ih fun y hy => h y (by simp [hy])
    simp only [List.cons_append, Mem.get, this]
    grind

/-- The cells of some bytes lie in their range. -/
theorem byteCells_bound {off n : Nat} {f : Nat → Byte} : ∀ x ∈ byteCells off n f, off ≤ x.1 ∧ x.1 < off + n := by
  intro x hx
  obtain ⟨i, hi, h⟩ := List.mem_filterMap.1 hx
  have := List.mem_range.1 hi
  grind

/-- They read as the bytes there, and as 0 elsewhere. -/
theorem get_byteCells (off n : Nat) (f : Nat → Byte) (a : Nat) :
    Mem.get (byteCells off n f) a = if off ≤ a ∧ a < off + n then f (a - off) else 0 := by
  induction n with
  | zero => rw [if_neg (by omega)]; rfl
  | succ n ih =>
    have e : byteCells off (n + 1) f = byteCells off n f ++ (if f n = 0 then [] else [(off + n, f n)]) := by
      simp only [byteCells, List.range_succ, List.filterMap_append]
      congr 1
      by_cases h : f n = 0#8 <;> simp [h]
    rw [e, Mem.get_append (b := off + n) (fun x hx => (byteCells_bound x hx).2) (by intro x hx; split at hx <;> simp_all), ih]
    by_cases h : a = off + n
    · subst h
      by_cases hf : f n = 0#8 <;> simp [hf, Mem.get]
    · by_cases hf : f n = 0#8 <;> simp [hf, Mem.get] <;> grind

/-- Bytes of a memory, one by one. -/
theorem Mem.bytes_eq (m : Mem) (a n : Nat) : m.bytes a n = (List.range n).map fun i => m.get (a + i) := by
  induction n generalizing a with
  | zero => rfl
  | succ n ih =>
    simp only [Mem.bytes, ih, List.range_succ_eq_map, List.map_cons, List.map_map, Nat.add_zero, List.cons.injEq, true_and]
    exact List.map_congr_left fun i _ => by simp [Nat.add_assoc, Nat.add_comm 1 i]

/-- Memories that agree on some bytes spell the same number there. -/
theorem Mem.nat_congr {m m' : Mem} {a n : Nat} (h : ∀ x, a ≤ x → x < a + n → m.get x = m'.get x) : m.nat a n = m'.nat a n := by
  induction n generalizing a with
  | zero => rfl
  | succ n ih => rw [Mem.nat, Mem.nat, h a (by omega) (by omega), ih fun x hx hy => h x (by omega) (by omega)]

/-- Each byte of the image at reset: its header, the two signatures of that, and 0 (R349). -/
theorem get_imageReset (a : Nat) :
    Mem.get imageReset a =
      if a < 0x40 then headerReset.getD a 0 else if a < 0x80 then Config.vendorEd25519 headerReset (a - 0x40)
      else if a < 0x80 + 3309 then Config.vendorMldsa65 headerReset (a - 0x80) else 0 := by
  unfold imageReset
  rw [Mem.get_append (b := 0x80) (fun x hx => ?_) fun x hx => (byteCells_bound x hx).1,
    Mem.get_append (b := 0x40) (fun x hx => by have := byteCells_bound x hx; omega) fun x hx => (byteCells_bound x hx).1,
    get_byteCells, get_byteCells, get_byteCells]
  · grind
  · rcases List.mem_append.1 hx with h | h <;> have := byteCells_bound x h <;> omega

end Sys2Proof.Machine
end

