-- ==== Sys2Proof/Laws/Ops.lean ====
section
/-!
SUPPORT. The shared operations, each with all it can do: passing and waiting, the checks of a handle, vector issue, walks,
writes at virtual addresses, fault records and taking an exception.
-/

namespace Sys2Proof.Machine

/-! ### Passing and waiting -/

/-- Passing a unit changes the strand alone. -/
theorem State.pass_setMe (s : State) (z : Strand) (n : Nat) :
    (s.setMe z).pass n = s.setMe { z.advance n with cond := if z.issues then .issuing else .stopped } := by
  simp [State.pass]

/-- A strand whose instance need not stop only waits: its SPCNT is 0 in a safe condition (R24, R118). -/
theorem State.block_of_running (s : State) (c : StrandCond) (h : s.myInst.stopping = false) :
    s.block c = s.setMe { s.me.rewind with
      cond := c, spr := { s.me.rewind.spr with spcnt := if c.safe then 0 else s.me.rewind.spr.spcnt } } := by
  have e : ∀ z : Strand, (s.setMe z).myInst = s.myInst := by
    intro z
    have hi : ∀ x : Core, ((s.core s.turn.core).setStrand s.turn.strand z).inst = (s.core s.turn.core).inst := by
      intro _
      cases s.turn.strand <;> rfl
    simp only [State.myInst, State.instOn, State.setMe, State.setStrand, State.setCore_insts, State.setCore_turn,
      State.core_setCore, hi (s.core s.turn.core)]
  simp only [State.block, e, h, Bool.false_and, Bool.false_eq_true, if_false]

/-- A kicked core only has steps put off. -/
theorem State.kick_eq (s : State) (c : CoreId) : ∃ es, s.kick c = { s with agenda := s.agenda ++ es } := ⟨_, rfl⟩

/-! ### Handles and vector issue -/

/-- The checks of an access hold, and the handle's lease runs (R216). -/
theorem checkHandle_of_serves (s : State) (hr : HReg) (off n : Nat) (wr : Bool)
    (ha : off % n = 0) (hk : (s.me.rh hr).kind ≠ 3) (hv : (s.me.rh hr).state = .valid)
    (hp : off + n ≤ pageBytes (s.me.rh hr).psz) (hw : wr = true → (s.me.rh hr).wr = true)
    (he : (s.dieTime (dieOf s.turn.core)).toNat < (s.me.rh hr).expiry.toNat) :
    checkHandle s hr off n wr = .go s (s.me.rh hr) := by
  have e1 : (off % n != 0) = false := by simp [ha]
  have e2 : ((s.me.rh hr).kind == 3) = false := by simpa using hk
  have e3 : (wr && !(s.me.rh hr).wr) = false := by
    cases wr
    · rfl
    · simp [hw rfl]
  simp only [checkHandle, e1, e2, e3, hv, Bool.false_eq_true, if_false, if_neg (Nat.not_lt.2 hp)]
  unfold refresh
  rw [if_pos (by exact he)]

/-- What becomes of a vector instruction whose checks hold and whose registers no vector load is filling (R17, R192). -/
theorem vIssue_of_full (src dst : List GReg) (rs : List VReg) (body : State → Body) (s : State) (hon : s.turn.strand = .v)
    (hg : s.me.guard ≠ some false) (hsrc : ∀ r ∈ src, s.me.isFull r = true) (hdst : ∀ r ∈ dst, s.me.isFull r = true)
    (hr : s.resultDue (dst ++ src) [] = false) (ho : s.overrun = false) (hv : s.vPending rs = false) :
    vIssue src dst rs body s =
      match body (s.setMe s.me.count) with
      | .trap cause addr detail => .next (s.trap cause addr detail)
      | .wait c s' => .next ((s'.setMe { s'.me with spr := { s'.me.spr with spcnt := s.me.spr.spcnt } }).block c)
      | .next s' => .next (s'.pass 2)
      | .jump s' t => .next (s'.setMe (s'.me.jump t))
      | .trapAfter cause arg => .next (((s.setMe s.me.count).pass 2).faultAt s.turn cause arg 0 0)
      | .fatal s' cause addr detail =>
        .next ((s'.setMe { s'.me with spr := { s'.me.spr with spcnt := s.me.spr.spcnt } }).fatal s.turn cause addr detail)
      | .resumable s' cause addr => .next ((s'.setMe s'.me.rewind).faultAt s.turn cause 0 addr 0) := by
  have e : (src.map fun r => (r, false)).map (·.1) = src := by simp [Function.comp_def]
  unfold vIssue
  rw [issue_of_full _ _ s (by simp [hon]) hg (by simpa using hsrc) hdst (by rw [e]; exact hr) (by simp [interlockWhile, hv]) (.inl ho)]
  simp only [Bool.false_eq_true, if_false]
  all_goals (cases body (s.setMe s.me.count) <;> rfl)

/-! ### Errors that count in ERRSUM, and walks -/

/-- All that a walk, or a read of the package's own units, can do: the dies' caches and vectors change, ERRSUM counts the errors that it
meets, and the step may have to be put off; where no word has an error nothing is counted (R272, R288, R292, R358). -/
abbrev Walked (s t : State) : Prop :=
  ∃ x a b c d k f, t = { s with dies := x, plat := { s.plat with errCorr := a, errDrop := b }
                                cycle := { s.cycle with corr := c, drop := d, stalled := k }, flaws := f } ∧
    (s.flaws = [] → t = { s with dies := x, cycle := { s.cycle with stalled := k } })

theorem Walked.refl (s : State) : Walked s s := ⟨_, _, _, _, _, _, _, rfl, fun _ => rfl⟩

theorem Walked.of_dies (s : State) (x : Vector Die 4) : Walked s { s with dies := x } := ⟨x, _, _, _, _, _, _, rfl, fun _ => rfl⟩

theorem Walked.trans {s t u : State} (h : Walked s t) (k : Walked t u) : Walked s u := by
  obtain ⟨x, a, b, c, d, q, f, rfl, hn⟩ := h
  obtain ⟨x', a', b', c', d', q', f', rfl, kn⟩ := k
  refine ⟨x', a', b', c', d', q', f', rfl, fun hf => ?_⟩
  have e := hn hf
  rw [kn (by rw [e]; exact hf), e]

theorem Walked.mem_eq {s t : State} (h : Walked s t) : t.mem = s.mem := by
  obtain ⟨_, _, _, _, _, _, _, rfl, _⟩ := h
  rfl

/-- A step of the master's that has to be put off is noted as such, and no more (R292). -/
theorem State.stall_walked (s : State) (b : Bool) : Walked s (s.stall b) := by
  unfold State.stall
  split
  · exact ⟨_, _, _, _, _, true, _, rfl, fun _ => rfl⟩
  · exact Walked.refl s

/-- Errors that no strand meets count in ERRSUM (R358). -/
theorem State.ownErrors_walked (s : State) (wr : Bool) (xs : List Nat) : Walked s (s.ownErrors wr xs) := by
  unfold State.ownErrors
  by_cases hf : s.flaws = []
  · have : s.meets wr (xs.map fun a => (a, 0)) = [] := by simp [State.meets, hf]
    rw [this]
    exact Walked.refl s
  · have key : ∀ (es : List (Nat × Bool × Nat)) (u : State), (∃ x a b c d f, u = { s with
          dies := x, plat := { s.plat with errCorr := a, errDrop := b }, cycle := { s.cycle with corr := c, drop := d }, flaws := f }) →
        ∃ x a b c d f, es.foldl (fun s e => if e.2.1 then s.errsum 0 1
          else ({ s with flaws := Table.del s.flaws e.1 } : State).errsum 1 0) u = { s with
            dies := x, plat := { s.plat with errCorr := a, errDrop := b }, cycle := { s.cycle with corr := c, drop := d }, flaws := f } := by
      intro es
      induction es with
      | nil => exact fun _ h => h
      | cons e r ih =>
        rintro u ⟨x, a, b, c, d, f, rfl⟩
        rw [List.foldl_cons]
        apply ih
        split <;> exact ⟨_, _, _, _, _, _, rfl⟩
    obtain ⟨x, a, b, c, d, f, h⟩ := key (s.meets wr (xs.map fun a => (a, 0))) s ⟨_, _, _, _, _, _, rfl⟩
    exact ⟨x, a, b, c, d, _, f, h, fun h => absurd h hf⟩

theorem State.metAt_walked (s : State) (as : List Nat) : Walked s (s.metAt as) := by
  unfold State.metAt
  split
  · exact Walked.refl s
  · exact State.ownErrors_walked s _ _

theorem State.met_walked (s : State) (pa n : Nat) : Walked s (s.met pa n) := State.metAt_walked s _

theorem State.entryMet_walked (s : State) (d : DieId) (addr : Nat) : Walked s (s.entryMet d addr) := by
  unfold State.entryMet
  split
  · exact Walked.refl s
  · exact State.met_walked s _ _

/-- A walk's levels (R288). -/
theorem State.walkFrom_walked (s : State) (d : DieId) (va cap level table : Nat) : Walked s (s.walkFrom d va cap level table).1 := by
  induction level generalizing s table with
  | zero =>
    rw [State.walkFrom]
    dsimp only
    have h := State.entryMet_walked s d (table + 8 * levelIndex 0 va)
    refine h.trans ?_
    generalize s.entryMet d _ = u
    generalize s.readEntry d _ = e
    generalize Pte.read _ _ e = p
    cases p <;> first | exact Walked.refl u | exact Walked.of_dies u _
  | succ l ih =>
    rw [State.walkFrom]
    dsimp only
    have h := State.entryMet_walked s d (table + 8 * levelIndex (l + 1) va)
    refine h.trans ?_
    generalize s.entryMet d _ = u
    generalize s.readEntry d _ = e
    generalize Pte.read _ _ e = p
    cases p with
    | absent => exact Walked.refl u
    | malformed => exact Walked.of_dies u _
    | leaf => exact Walked.refl u
    | next t =>
      refine Walked.trans ?_ (ih _ t)
      unfold State.keepEntry
      simp only
      split
      · exact Walked.refl u
      · exact Walked.of_dies u _

/-- A walk in a context (R284). -/
theorem State.walk_walked (s : State) (d : DieId) (space : BitVec 16) (va : Nat) : Walked s (s.walk d space va).1 := by
  simp only [State.walk]
  split
  · exact Walked.trans (State.met_walked s _ _) (State.walkFrom_walked _ d va _ 2 _)
  · exact State.met_walked s _ _

/-- A translation. -/
theorem State.translate_walked (s : State) (d : DieId) (space : BitVec 16) (va : Nat) : Walked s (s.translate d space va).1 := by
  have h := State.walk_walked s d space va
  unfold State.translate
  generalize s.walk d space va = r at h
  obtain ⟨u, f, b⟩ := r
  cases f with
  | none => exact h
  | some l =>
    dsimp only
    split <;> exact h

/-! ### Memory -/

/-- Memory in which no word has an error is read as it is (R280). -/
theorem State.sound_of_none (s : State) (h : s.flaws = []) : s.sound = s.mem := by simp [State.sound, h]

/-- Where no word has an error, a write changes what the host has yet to see, and nothing besides (R280, R282). -/
theorem State.mended_of_none (s : State) (m : Mem) (xs : List Nat) (h : s.flaws = []) : s.mended m xs = s.hidden m xs := by
  cases s
  simp only at h
  subst h
  rfl

/-- Where no word has an error, an access meets none (R280). -/
theorem State.errors_of_none (s : State) (w : Who) (b : Bool) (xs : List (Nat × Nat)) (h : s.flaws = []) :
    s.errors w b xs = s := by simp [State.errors, State.meets, h]

/-- Where no word has an error, an access that no strand makes meets none (R280). -/
theorem State.ownErrors_of_none (s : State) (b : Bool) (xs : List Nat) (h : s.flaws = []) : s.ownErrors b xs = s := by
  simp [State.ownErrors, State.meets, h]

/-- Where no word has an error, a write at a home changes the bytes it writes (R267). -/
theorem State.putNat_of_none (s : State) (pa n v : Nat) (h : s.flaws = []) :
    s.putNat pa n v = ({ s with mem := s.mem.putNat pa n v } : State).hidden s.mem (addrs pa n) := State.mended_of_none _ _ _ h

/-- What a write does to errors, and to what the host sees, keeps the canonical form of memory (R280, R282). -/
theorem State.mended_eq (s : State) (m : Mem) (xs : List Nat) :
    ∃ m' f v, s.mended m xs = { s with mem := m', flaws := f, unseen := v } ∧ (s.mem.wf = true → m'.wf = true) := by
  refine ⟨_, _, _, rfl, ?_⟩
  simp only [State.patched]
  generalize s.flaws = fs
  suffices h : ∀ x : Mem, x.wf = true → (fs.foldl (fun y (e : Nat × Bool) =>
      if (e.2 && decide (0 < bytesIn xs e.1) && decide (bytesIn xs e.1 < 8)) = true then y.putNat e.1 8 (m.nat e.1 8) else y) x).wf = true from
    h s.mem
  induction fs with
  | nil => exact fun _ h => h
  | cons e r ih =>
    intro x hx
    rw [List.foldl_cons]
    apply ih
    split
    · exact Mem.wf_putNat hx
    · exact hx

/-- A write at a home changes memory, its errors and what the host has yet to see alone, and keeps the canonical form (R267,
R282). -/
theorem State.putNat_eq (s : State) (pa n v : Nat) :
    ∃ m f w, s.putNat pa n v = { s with mem := m, flaws := f, unseen := w } ∧ (s.mem.wf = true → m.wf = true) := by
  obtain ⟨m, f, w, h, hw⟩ := State.mended_eq { s with mem := s.mem.putNat pa n v } s.mem (addrs pa n)
  exact ⟨m, f, w, h, fun hs => hw (Mem.wf_putNat hs)⟩

/-- A write at a physical address (R267, R298). -/
theorem State.setPhys_eq (s : State) (pa n v : Nat) :
    ∃ m f w, s.setPhys pa n v = { s with mem := m, flaws := f, unseen := w } ∧ (s.mem.wf = true → m.wf = true) := s.putNat_eq _ n v

/-- Finding where bytes at a virtual address lie. -/
theorem State.vaPlaces_walked (s : State) (d : DieId) (space : BitVec 16) (va n : Nat) : Walked s (s.vaPlaces d space va n).1 := by
  induction n generalizing s va with
  | zero => exact Walked.refl s
  | succ n ih =>
    have h := State.translate_walked s d space va
    simp only [State.vaPlaces]
    split
    · rename_i s1 pa e
      rw [e] at h
      exact h.trans (ih s1 (va + 1))
    · rename_i s1 o _ e
      rw [e] at h
      exact h

/-- Bytes put at some places keep the canonical form of memory. -/
theorem Mem.wf_puts (l : List (Nat × Byte)) : ∀ m : Mem, m.wf = true → (l.foldl (fun m x => m.put x.1 x.2) m).wf = true := by
  induction l with
  | nil => exact fun _ h => h
  | cons a r ih => exact fun m h => ih _ (Mem.wf_put h)

/-- All that an access of the master's, or of a die's distributor, can do: what a walk can, and memory, its errors, what the host has yet
to see, the vectors and the reports of counts change; memory keeps its canonical form (R268, R272). -/
abbrev Mastered (s t : State) : Prop :=
  ∃ x a b c d k f m v st ti, t = { s with dies := x, plat := { s.plat with errCorr := a, errDrop := b }
                                          cycle := { s.cycle with corr := c, drop := d, stalled := k }, flaws := f, mem := m
                                          unseen := v, stamps := st, timers := ti } ∧ (s.mem.wf = true → m.wf = true)

theorem Mastered.refl (s : State) : Mastered s s := ⟨_, _, _, _, _, _, _, _, _, _, _, rfl, id⟩

theorem Mastered.trans {s t u : State} (h : Mastered s t) (k : Mastered t u) : Mastered s u := by
  obtain ⟨_, _, _, _, _, _, _, _, _, _, _, rfl, hw⟩ := h
  obtain ⟨_, _, _, _, _, _, _, _, _, _, _, rfl, kw⟩ := k
  exact ⟨_, _, _, _, _, _, _, _, _, _, _, rfl, fun h => kw (hw h)⟩

theorem Walked.mastered {s t : State} (h : Walked s t) : Mastered s t := by
  obtain ⟨_, _, _, _, _, _, _, rfl, _⟩ := h
  exact ⟨_, _, _, _, _, _, _, _, _, _, _, rfl, id⟩

theorem Mastered.of_memory (s : State) (m : Mem) (f : Table Bool) (v : Mem) (h : s.mem.wf = true → m.wf = true) :
    Mastered s { s with mem := m, flaws := f, unseen := v } := ⟨_, _, _, _, _, _, _, _, _, _, _, rfl, h⟩

theorem State.stamp_mastered (s : State) (pa : Nat) (x : Vector Word 4) : Mastered s (s.stamp pa x) :=
  ⟨_, _, _, _, _, _, _, _, _, _, _, rfl, id⟩

theorem State.countWrite_mastered (s : State) (d : DieId) : Mastered s (s.countWrite d) := by
  unfold State.countWrite
  dsimp only
  split <;> exact ⟨_, _, _, _, _, _, _, _, _, _, _, rfl, id⟩

theorem State.learn_walked (s : State) (d : DieId) (pa : Nat) : Walked s (s.learn d pa) := by
  unfold State.learn
  split
  · exact Walked.refl s
  · split
    · exact Walked.of_dies s _
    · exact Walked.refl s

/-- What the order of the dies' writes takes from an access, and leaves with it (R272). -/
theorem State.ordered_mastered (s : State) (d : DieId) (wr : Bool) (as : List Nat) : Mastered s (s.ordered d wr as) := by
  unfold State.ordered
  generalize locsOf _ = ls
  induction ls generalizing s with
  | nil => exact Mastered.refl s
  | cons a r ih =>
    rw [List.foldl_cons]
    refine Mastered.trans ?_ (ih _)
    cases wr
    · exact (State.learn_walked s d a).mastered
    · dsimp only
      rw [if_pos rfl]
      split
      · exact State.stamp_mastered _ _ _
      · exact (State.countWrite_mastered _ _).trans (State.stamp_mastered _ _ _)

theorem State.ordered_walked (s : State) (d : DieId) (as : List Nat) : Walked s (s.ordered d false as) := by
  unfold State.ordered
  generalize locsOf _ = ls
  induction ls generalizing s with
  | nil => exact Walked.refl s
  | cons a r ih => exact (State.learn_walked s d a).trans (ih _)

theorem State.puts_mastered (s : State) (as : List (Nat × Byte)) (old : Mem) (xs : List Nat) :
    Mastered s (({ s with mem := as.foldl (fun m x => m.put x.1 x.2) s.mem } : State).mended old xs) := by
  obtain ⟨m, f, v, e, k⟩ := State.mended_eq { s with mem := as.foldl (fun m x => m.put x.1 x.2) s.mem } old xs
  rw [e]
  exact Mastered.of_memory s m f v fun h => k (Mem.wf_puts _ _ h)

/-- A write at a virtual address (R268, R272). -/
theorem State.vaWrite_mastered (s : State) (d : DieId) (space : BitVec 16) (va : Nat) (bs : List Byte) :
    Mastered s (s.vaWrite d space va bs).1 := by
  have h := State.vaPlaces_walked s d space va bs.length
  unfold State.vaWrite
  generalize State.vaPlaces s d space va bs.length = w at h
  obtain ⟨w, as, ok⟩ := w
  dsimp only
  have hu := State.ownErrors_walked w true as
  generalize hx : State.stall (w.ownErrors true as) _ = u
  have hs : Walked w u := hx ▸ hu.trans (State.stall_walked _ _)
  rw [← hs.mem_eq]
  exact ((h.trans hs).mastered.trans (State.puts_mastered u _ _ _)).trans (State.ordered_mastered _ _ _ _)

/-- Reading bytes at a virtual address. -/
theorem State.vaBytes_walked (s : State) (d : DieId) (space : BitVec 16) (va n : Nat) : Walked s (s.vaBytes d space va n).1 := by
  induction n generalizing s va with
  | zero => exact Walked.refl s
  | succ n ih =>
    have h := State.translate_walked s d space va
    simp only [State.vaBytes]
    split
    · rename_i s1 pa w e
      rw [e] at h
      have k := ih s1 (va + 1)
      split
      · rename_i e'
        rw [e'] at k
        exact h.trans k
      · rename_i e'
        rw [e'] at k
        exact h.trans k
    · rename_i s1 e
      rw [e] at h
      exact h

theorem State.vaRead_walked (s : State) (d : DieId) (space : BitVec 16) (va n : Nat) : Walked s (s.vaRead d space va n).1 := by
  have h := State.vaBytes_walked s d space va n
  unfold State.vaRead
  generalize s.vaBytes d space va n = r at h
  obtain ⟨t, x⟩ := r
  cases x with
  | none => exact h.trans (State.stall_walked t _)
  | some r => exact ((h.trans (State.metAt_walked t _)).trans (State.ordered_walked _ _ _)).trans (State.stall_walked _ _)

/-- The master's read of aligned dwords (R268, R272, R358). -/
theorem State.masterMet_walked (s : State) (pa n : Nat) : Walked s (s.masterMet pa n) :=
  ((State.met_walked s pa n).trans (State.ordered_walked _ _ _)).trans (State.stall_walked _ _)

/-- The master's write of an aligned dword (R268, R272). -/
theorem State.masterPut_mastered (s : State) (pa : Nat) (x : Dword) : Mastered s (s.masterPut pa x) := by
  obtain ⟨m, f, v, h, hw⟩ := State.setPhys_eq s pa 8 x.toNat
  unfold State.masterPut
  rw [h]
  exact ((Mastered.of_memory s m f v hw).trans (State.ordered_mastered _ _ _ _)).trans (State.stall_walked _ _).mastered

/-! ### Fault records -/

/-- A record, or a region's STOPPED bit, that becomes visible (R114, R324). -/
theorem State.writePost_mastered (s : State) (p : Post) : Mastered s (s.writePost p) := by
  unfold State.writePost
  split
  · exact (State.masterMet_walked s _ _).mastered.trans (State.masterPut_mastered _ _ _)
  · dsimp only
    exact ((State.puts_mastered s _ _ _).trans (State.ordered_mastered _ _ _ _)).trans (State.masterPut_mastered _ _ _)

/-- The records whose turn it is become visible, the others stay on their way (R114). -/
theorem State.writePosts_mastered (kept r : List Post) (s : State) :
    ∃ q u, Mastered s u ∧ State.writePosts kept r s = { u with posts := q } := by
  induction r generalizing kept s with
  | nil => exact ⟨_, s, Mastered.refl s, rfl⟩
  | cons p r ih =>
    unfold State.writePosts
    split
    · obtain ⟨x, a, b, c, d, k, f, m, v, st, ti, h, hw⟩ := State.writePost_mastered { s with posts := kept ++ r } p
      rw [h]
      obtain ⟨q, u, hu, e⟩ := ih kept _
      refine ⟨q, { u with posts := s.posts }, ?_, e⟩
      obtain ⟨x', a', b', c', d', k', f', m', v', st', ti', rfl, hw'⟩ := hu
      exact ⟨_, _, _, _, _, _, _, _, _, _, _, rfl, fun h => hw' (hw h)⟩
    · exact ih _ s

/-- Records looked at again (R114). -/
theorem State.recordPost_mastered (s : State) : ∃ q u, Mastered s u ∧ s.recordPost = { u with posts := q } := by
  obtain ⟨q, u, hu, h⟩ := State.writePosts_mastered [] s.posts s
  unfold State.recordPost
  rw [h]
  dsimp only
  split
  · exact ⟨q, u, hu, rfl⟩
  · exact ⟨q, _, hu.trans ⟨_, _, _, _, _, _, _, _, _, _, _, rfl, id⟩, rfl⟩

/-- A write of a region's that is put among those on their way, and its copy (R114, R325): what `Mastered` lists, the writes on
their way and the master's copies of regions change alone. -/
theorem State.queuePost_mastered (s : State) (n : Nat) (r : Region) (ps : List Post) :
    ∃ q g u, Mastered s u ∧ ({ s.keepRegion n r with posts := ps } : State).recordPost = { u with posts := q, dist := { s.dist with regions := g } } := by
  obtain ⟨q, u, hu, e⟩ := State.recordPost_mastered { s.keepRegion n r with posts := ps }
  obtain ⟨x, a, b, c, d, k, f, m, v, st, ti, rfl, hw⟩ := hu
  rw [e]
  exact ⟨q, _, _, ⟨x, a, b, c, d, k, f, m, v, st, ti, rfl, hw⟩, rfl⟩

/-- Posting a record is a walk, and puts a write among those on their way (R114, R327). -/
theorem State.postTo_mastered (s : State) (n : Nat) (r : Rec) (i : Inst) :
    ∃ q g u, Mastered s u ∧ (s.postTo n r i).1 = { u with posts := q, dist := { s.dist with regions := g } } := by
  have key : ∀ (u : State) (a : Nat) (b : Region) (p : List Post), Walked s u → ∃ q g u', Mastered s u' ∧
      ({ u.keepRegion a b with posts := p } : State).recordPost = { u' with posts := q, dist := { s.dist with regions := g } } := by
    intro u a b p hu
    obtain ⟨q, g, v, hv, e⟩ := State.queuePost_mastered u a b p
    have hd : u.dist = s.dist := by obtain ⟨_, _, _, _, _, _, _, rfl, _⟩ := hu; rfl
    exact ⟨q, g, v, hu.mastered.trans hv, by rw [e, hd]⟩
  unfold State.postTo
  dsimp only
  generalize dw (fld _ 44 0 + _) = va
  generalize (_ || List.any _ _) = busy
  cases busy with
  | true => exact key s _ _ _ (Walked.refl s)
  | false =>
    rw [if_neg Bool.false_ne_true]
    have hx := State.vaPlaces_walked s s.dist.master
      (BitVec.ofNat 16 (s.region (s.owner 8 n)).space) va.toNat (dwordBytes (r.dwords i s.time)).length
    generalize State.vaPlaces _ _ _ _ _ = w at hx
    obtain ⟨u, as, b⟩ := w
    cases b <;> exact key u _ _ _ hx

/-- Posting under the domain's policy (R116). -/
theorem State.post_mastered (s : State) (r : Rec) (i : Inst) :
    ∃ q g u, Mastered s u ∧ (s.post r i).1 = { u with posts := q, dist := { s.dist with regions := g } } :=
  State.postTo_mastered s _ r i

/-- A region marked STOPPED or not (R116, R324). -/
theorem State.stopRegion_mastered (s : State) (n : Nat) (b : Bool) :
    ∃ q g u, Mastered s u ∧ s.stopRegion n b = { u with posts := q, dist := { s.dist with regions := g } } :=
  State.queuePost_mastered s n _ _

/-- A record's policy (R116). -/
theorem State.applyStop_mastered (s : State) (n : Nat) :
    ∃ q g u, Mastered s u ∧ s.applyStop n = { u with posts := q, dist := { s.dist with regions := g } } := by
  unfold State.applyStop
  split
  · exact State.stopRegion_mastered s n true
  · exact ⟨s.posts, s.dist.regions, s, Mastered.refl s, rfl⟩

/-! ### Stopping -/

/-- The strands of a settled instance stand, and so does memory: only its status, its timers and the steps put off can change
(R115, R121). -/
theorem State.settle_eq (s : State) (k : Nat) :
    ∃ i a t, s.settle k = { s with insts := i, agenda := a, timers := t } := by
  have fold : ∀ (cs : List CoreId) (u : State), ∃ a, cs.foldl State.kick u = { u with agenda := a } := by
    intro cs
    induction cs with
    | nil => exact fun u => ⟨u.agenda, rfl⟩
    | cons c r ih =>
      intro u
      obtain ⟨a, ha⟩ := ih (u.kick c)
      exact ⟨a, ha⟩
  simp only [State.settle]
  split
  · obtain ⟨a, ha⟩ := fold (s.getInst k).cores s
    rw [ha]
    split
    · exact ⟨_, _, _, rfl⟩
    · exact ⟨_, _, _, rfl⟩
  · exact ⟨s.insts, s.agenda, s.timers, rfl⟩

/-- A strand put back as it is changes nothing. -/
@[simp] theorem State.setStrand_self (s : State) (w : Who) : s.setStrand w (s.strand w) = s := by
  have h : (s.core w.core).setStrand w.strand ((s.core w.core).strand w.strand) = s.core w.core := by
    cases w.strand <;> rfl
  have e : s.cores.set w.core.val s.cores[w.core] w.core.isLt = s.cores := Vector.set_getElem_self _
  unfold State.setStrand State.strand
  rw [h]
  unfold State.setCore State.core
  rw [e]

/-- A released strand: its core and the roster can change (R117). -/
theorem State.release_eq (s : State) (w : Who) :
    ∃ z r, s.release w = { s.setStrand w z with roster := r } := by
  simp only [State.release]
  split
  · exact ⟨_, _, rfl⟩
  · refine ⟨s.strand w, s.roster, ?_⟩
    rw [State.setStrand_self]

end Sys2Proof.Machine
end

