-- ==== Sys2Proof/Laws/PerInstr.lean ====
section
/-!
SUPPORT. Statements about every instruction as syntax, one lemma a constructor. `Length`: the halfwords an instruction is
encoded in, whatever follows them, are the halfwords its length rule takes, of which there are 1, 2 or 6 (R41, R45).
-/

namespace Sys2Proof.Laws

/-! ### Bits of the formats -/

theorem word_of_halves (w : Word) : (w.extractLsb' 16 16 ++ w.extractLsb' 0 16 : Word) = w := by
  apply BitVec.eq_of_getLsbD_eq
  intro i hi
  simp only [BitVec.getLsbD_append, BitVec.getLsbD_extractLsb']
  by_cases h : i < 16
  · simp [h]
  · have : i - 16 < 16 := by omega
    simp [h, this, Nat.add_sub_cancel' (Nat.not_lt.1 h)]

/-- An instruction whose first halfword begins with 111, and which is no LIT or SAFE, takes two halfwords (R41, R45). -/
theorem unitLen_two (w : Word) (rest : List Half) (h : w.extractLsb' 29 3 = 7)
    (hx : (fMajor w == 0x0C && (fMinor w == 2 || fMinor w == 3)) = false) : unitLen (two w ++ rest) = 2 := by
  have e : (w.extractLsb' 16 16).extractLsb' 13 3 = (7 : BitVec 3) := by
    rw [← h]
    apply BitVec.eq_of_getLsbD_eq
    intro i hi
    have : 13 + i < 16 := by omega
    simp [hi, this, ← Nat.add_assoc]
  simp only [two, List.cons_append, List.nil_append, unitLen, e, beq_self_eq_true, if_true, word_of_halves, hx,
    Bool.false_eq_true, if_false]

/-- LIT and SAFE take six halfwords (R45). -/
theorem unitLen_six (w : Word) (x : Dword) (rest : List Half) (h : w.extractLsb' 29 3 = 7)
    (hx : (fMajor w == 0x0C && (fMinor w == 2 || fMinor w == 3)) = true) : unitLen (six w x ++ rest) = 6 := by
  have e : (w.extractLsb' 16 16).extractLsb' 13 3 = (7 : BitVec 3) := by
    rw [← h]
    apply BitVec.eq_of_getLsbD_eq
    intro i hi
    have : 13 + i < 16 := by omega
    simp [hi, this, ← Nat.add_assoc]
  simp only [six, two, List.cons_append, List.nil_append, unitLen, e, beq_self_eq_true, if_true, word_of_halves, hx]

/-- The formats begin with 111 and then their major opcode. -/
theorem encR_top (m : BitVec 5) (d a b : BitVec 6) (n : BitVec 4) (ta tb : Bool) :
    (encR m d a b n ta tb).extractLsb' 29 3 = 7 := by
  apply BitVec.eq_of_getLsbD_eq
  intro i hi
  interval_cases i <;> simp only [encR, BitVec.getLsbD_extractLsb', BitVec.getLsbD_append] <;> rfl
theorem encR_major (m : BitVec 5) (d a b : BitVec 6) (n : BitVec 4) (ta tb : Bool) :
    fMajor (encR m d a b n ta tb) = m := by
  apply BitVec.eq_of_getLsbD_eq
  intro i hi
  interval_cases i <;> simp only [encR, fMajor, BitVec.getLsbD_extractLsb', BitVec.getLsbD_append] <;> rfl
theorem encI_top (m : BitVec 5) (d a : BitVec 6) (i : BitVec 12) :
    (encI m d a i).extractLsb' 29 3 = 7 := by
  apply BitVec.eq_of_getLsbD_eq
  intro z hz
  interval_cases z <;> simp only [encI, BitVec.getLsbD_extractLsb', BitVec.getLsbD_append] <;> rfl
theorem encI_major (m : BitVec 5) (d a : BitVec 6) (i : BitVec 12) :
    fMajor (encI m d a i) = m := by
  apply BitVec.eq_of_getLsbD_eq
  intro z hz
  interval_cases z <;> simp only [encI, fMajor, BitVec.getLsbD_extractLsb', BitVec.getLsbD_append] <;> rfl
theorem encM_top (m : BitVec 5) (d a : BitVec 6) (x : Size) (o : BitVec 10) :
    (encM m d a x o).extractLsb' 29 3 = 7 := by
  apply BitVec.eq_of_getLsbD_eq
  intro i hi
  interval_cases i <;> simp only [encM, BitVec.getLsbD_extractLsb', BitVec.getLsbD_append] <;> rfl
theorem encM_major (m : BitVec 5) (d a : BitVec 6) (x : Size) (o : BitVec 10) :
    fMajor (encM m d a x o) = m := by
  apply BitVec.eq_of_getLsbD_eq
  intro i hi
  interval_cases i <;> simp only [encM, fMajor, BitVec.getLsbD_extractLsb', BitVec.getLsbD_append] <;> rfl
theorem encH_top (m : BitVec 5) (d : BitVec 6) (h : BitVec 4) (a : BitVec 6) (x : Size) (o : BitVec 6) :
    (encH m d h a x o).extractLsb' 29 3 = 7 := by
  apply BitVec.eq_of_getLsbD_eq
  intro i hi
  interval_cases i <;> simp only [encH, BitVec.getLsbD_extractLsb', BitVec.getLsbD_append] <;> rfl
theorem encH_major (m : BitVec 5) (d : BitVec 6) (h : BitVec 4) (a : BitVec 6) (x : Size) (o : BitVec 6) :
    fMajor (encH m d h a x o) = m := by
  apply BitVec.eq_of_getLsbD_eq
  intro i hi
  interval_cases i <;> simp only [encH, fMajor, BitVec.getLsbD_extractLsb', BitVec.getLsbD_append] <;> rfl
theorem encK_top (g : BitVec 6) (num : BitVec 8) (amt n : BitVec 4) (tg : Bool) :
    (encK g num amt n tg).extractLsb' 29 3 = 7 := by
  apply BitVec.eq_of_getLsbD_eq
  intro i hi
  interval_cases i <;> simp only [encK, BitVec.getLsbD_extractLsb', BitVec.getLsbD_append] <;> rfl
theorem encK_major (g : BitVec 6) (num : BitVec 8) (amt n : BitVec 4) (tg : Bool) :
    fMajor (encK g num amt n tg) = 0x17 := by
  apply BitVec.eq_of_getLsbD_eq
  intro i hi
  interval_cases i <;> simp only [encK, fMajor, BitVec.getLsbD_extractLsb', BitVec.getLsbD_append] <;> rfl
theorem encV_top (m d a b : BitVec 5) (k ty op : BitVec 3) :
    (encV m d a b k ty op).extractLsb' 29 3 = 7 := by
  apply BitVec.eq_of_getLsbD_eq
  intro i hi
  interval_cases i <;> simp only [encV, BitVec.getLsbD_extractLsb', BitVec.getLsbD_append] <;> rfl
theorem encV_major (m d a b : BitVec 5) (k ty op : BitVec 3) :
    fMajor (encV m d a b k ty op) = m := by
  apply BitVec.eq_of_getLsbD_eq
  intro i hi
  interval_cases i <;> simp only [encV, fMajor, BitVec.getLsbD_extractLsb', BitVec.getLsbD_append] <;> rfl
theorem encR_minor (m : BitVec 5) (d a b : BitVec 6) (n : BitVec 4) (ta tb : Bool) : fMinor (encR m d a b n ta tb) = n := by
  apply BitVec.eq_of_getLsbD_eq
  intro i hi
  interval_cases i <;> simp only [encR, fMinor, BitVec.getLsbD_extractLsb', BitVec.getLsbD_append] <;> rfl

end Sys2Proof.Laws

namespace Sys2Proof.Laws.Length

/-- The halfwords of an instruction of a strand are as many as the length rule takes: 1, 2 or 6 (R41, R45). -/
def Statement (i : Instr) : Prop :=
  encode i ≠ [] → ∀ rest, unitLen (encode i ++ rest) = (encode i).length ∧ (encode i).length ∈ [1, 2, 6]

theorem of_none {i : Instr} (h : encode i = []) : Statement i := fun e => absurd h e

theorem of_two {i : Instr} {w : Word} (h : encode i = two w) (ht : w.extractLsb' 29 3 = 7)
    (hx : (fMajor w == 0x0C && (fMinor w == 2 || fMinor w == 3)) = false) : Statement i := by
  intro _ rest
  rw [h, unitLen_two w rest ht hx]
  exact ⟨rfl, by simp [two]⟩

theorem of_major {i : Instr} {w : Word} {m : BitVec 5} (h : encode i = two w) (ht : w.extractLsb' 29 3 = 7) (hm : fMajor w = m)
    (hx : (m == 0x0C) = false) : Statement i := of_two h ht (by rw [hm, hx]; rfl)

theorem of_one {i : Instr} {x : Half} (h : encode i = [x]) (hx : (x.extractLsb' 13 3 == (7 : BitVec 3)) = false) :
    Statement i := by
  intro _ rest
  rw [h]
  refine ⟨?_, by simp⟩
  simp only [List.cons_append, List.nil_append, unitLen, hx, Bool.false_eq_true, if_false, List.length_cons, List.length_nil]


theorem add (d : GReg) (a : GReg) (b : GReg) (ta : Bool) (tb : Bool) : Statement (.add d a b ta tb) :=
  of_major rfl (encR_top ..) (encR_major ..) rfl
theorem sub (d : GReg) (a : GReg) (b : GReg) (ta : Bool) (tb : Bool) : Statement (.sub d a b ta tb) :=
  of_major rfl (encR_top ..) (encR_major ..) rfl
theorem mul (d : GReg) (a : GReg) (b : GReg) (ta : Bool) (tb : Bool) : Statement (.mul d a b ta tb) :=
  of_major rfl (encR_top ..) (encR_major ..) rfl
theorem mulhs (d : GReg) (a : GReg) (b : GReg) (ta : Bool) (tb : Bool) : Statement (.mulhs d a b ta tb) :=
  of_major rfl (encR_top ..) (encR_major ..) rfl
theorem mulhu (d : GReg) (a : GReg) (b : GReg) (ta : Bool) (tb : Bool) : Statement (.mulhu d a b ta tb) :=
  of_major rfl (encR_top ..) (encR_major ..) rfl
theorem divs (d : GReg) (a : GReg) (b : GReg) (ta : Bool) (tb : Bool) : Statement (.divs d a b ta tb) :=
  of_major rfl (encR_top ..) (encR_major ..) rfl
theorem divu (d : GReg) (a : GReg) (b : GReg) (ta : Bool) (tb : Bool) : Statement (.divu d a b ta tb) :=
  of_major rfl (encR_top ..) (encR_major ..) rfl
theorem rems (d : GReg) (a : GReg) (b : GReg) (ta : Bool) (tb : Bool) : Statement (.rems d a b ta tb) :=
  of_major rfl (encR_top ..) (encR_major ..) rfl
theorem remu (d : GReg) (a : GReg) (b : GReg) (ta : Bool) (tb : Bool) : Statement (.remu d a b ta tb) :=
  of_major rfl (encR_top ..) (encR_major ..) rfl
theorem and (d : GReg) (a : GReg) (b : GReg) (ta : Bool) (tb : Bool) : Statement (.and d a b ta tb) :=
  of_major rfl (encR_top ..) (encR_major ..) rfl
theorem or (d : GReg) (a : GReg) (b : GReg) (ta : Bool) (tb : Bool) : Statement (.or d a b ta tb) :=
  of_major rfl (encR_top ..) (encR_major ..) rfl
theorem xor (d : GReg) (a : GReg) (b : GReg) (ta : Bool) (tb : Bool) : Statement (.xor d a b ta tb) :=
  of_major rfl (encR_top ..) (encR_major ..) rfl
theorem andn (d : GReg) (a : GReg) (b : GReg) (ta : Bool) (tb : Bool) : Statement (.andn d a b ta tb) :=
  of_major rfl (encR_top ..) (encR_major ..) rfl
theorem shl (d : GReg) (a : GReg) (b : GReg) (ta : Bool) (tb : Bool) : Statement (.shl d a b ta tb) :=
  of_major rfl (encR_top ..) (encR_major ..) rfl
theorem shr (d : GReg) (a : GReg) (b : GReg) (ta : Bool) (tb : Bool) : Statement (.shr d a b ta tb) :=
  of_major rfl (encR_top ..) (encR_major ..) rfl
theorem sra (d : GReg) (a : GReg) (b : GReg) (ta : Bool) (tb : Bool) : Statement (.sra d a b ta tb) :=
  of_major rfl (encR_top ..) (encR_major ..) rfl
theorem mins (d : GReg) (a : GReg) (b : GReg) (ta : Bool) (tb : Bool) : Statement (.mins d a b ta tb) :=
  of_major rfl (encR_top ..) (encR_major ..) rfl
theorem minu (d : GReg) (a : GReg) (b : GReg) (ta : Bool) (tb : Bool) : Statement (.minu d a b ta tb) :=
  of_major rfl (encR_top ..) (encR_major ..) rfl
theorem maxs (d : GReg) (a : GReg) (b : GReg) (ta : Bool) (tb : Bool) : Statement (.maxs d a b ta tb) :=
  of_major rfl (encR_top ..) (encR_major ..) rfl
theorem maxu (d : GReg) (a : GReg) (b : GReg) (ta : Bool) (tb : Bool) : Statement (.maxu d a b ta tb) :=
  of_major rfl (encR_top ..) (encR_major ..) rfl
theorem clz (d : GReg) (a : GReg) (ta : Bool) : Statement (.clz d a ta) := of_major rfl (encR_top ..) (encR_major ..) rfl
theorem ctz (d : GReg) (a : GReg) (ta : Bool) : Statement (.ctz d a ta) := of_major rfl (encR_top ..) (encR_major ..) rfl
theorem popc (d : GReg) (a : GReg) (ta : Bool) : Statement (.popc d a ta) := of_major rfl (encR_top ..) (encR_major ..) rfl
theorem rol (d : GReg) (a : GReg) (b : GReg) (ta : Bool) (tb : Bool) : Statement (.rol d a b ta tb) :=
  of_major rfl (encR_top ..) (encR_major ..) rfl
theorem bfx (d : GReg) (a : GReg) (b : GReg) (ta : Bool) (tb : Bool) : Statement (.bfx d a b ta tb) :=
  of_major rfl (encR_top ..) (encR_major ..) rfl
theorem bfi (d : GReg) (a : GReg) (b : GReg) (ta : Bool) (tb : Bool) : Statement (.bfi d a b ta tb) :=
  of_major rfl (encR_top ..) (encR_major ..) rfl
theorem shli (d : GReg) (a : GReg) (n : BitVec 6) (ta : Bool) : Statement (.shli d a n ta) :=
  of_major rfl (encR_top ..) (encR_major ..) rfl
theorem shri (d : GReg) (a : GReg) (n : BitVec 6) (ta : Bool) : Statement (.shri d a n ta) :=
  of_major rfl (encR_top ..) (encR_major ..) rfl
theorem srai (d : GReg) (a : GReg) (n : BitVec 6) (ta : Bool) : Statement (.srai d a n ta) :=
  of_major rfl (encR_top ..) (encR_major ..) rfl
theorem addx8 (d : GReg) (a : GReg) (b : GReg) (ta : Bool) (tb : Bool) : Statement (.addx8 d a b ta tb) :=
  of_major rfl (encR_top ..) (encR_major ..) rfl
theorem addi (d : GReg) (a : GReg) (i : BitVec 12) : Statement (.addi d a i) := of_major rfl (encI_top ..) (encI_major ..) rfl
theorem andi (d : GReg) (a : GReg) (i : BitVec 12) : Statement (.andi d a i) := of_major rfl (encI_top ..) (encI_major ..) rfl
theorem ori (d : GReg) (a : GReg) (i : BitVec 12) : Statement (.ori d a i) := of_major rfl (encI_top ..) (encI_major ..) rfl
theorem xori (d : GReg) (a : GReg) (i : BitVec 12) : Statement (.xori d a i) := of_major rfl (encI_top ..) (encI_major ..) rfl
theorem lui (d : GReg) (i : BitVec 18) : Statement (.lui d i) :=
  of_major rfl (by
    apply BitVec.eq_of_getLsbD_eq
    intro z hz
    interval_cases z <;> simp only [BitVec.getLsbD_extractLsb', BitVec.getLsbD_append] <;> rfl)
  (by
    apply BitVec.eq_of_getLsbD_eq
    intro z hz
    interval_cases z <;> simp only [fMajor, BitVec.getLsbD_extractLsb', BitVec.getLsbD_append] <;> rfl : fMajor _ = 0x06) rfl
theorem cmpeq (d : PReg) (a : GReg) (b : GReg) (ta : Bool) (tb : Bool) : Statement (.cmpeq d a b ta tb) :=
  of_major rfl (encR_top ..) (encR_major ..) rfl
theorem cmpne (d : PReg) (a : GReg) (b : GReg) (ta : Bool) (tb : Bool) : Statement (.cmpne d a b ta tb) :=
  of_major rfl (encR_top ..) (encR_major ..) rfl
theorem cmplt (d : PReg) (a : GReg) (b : GReg) (ta : Bool) (tb : Bool) : Statement (.cmplt d a b ta tb) :=
  of_major rfl (encR_top ..) (encR_major ..) rfl
theorem cmpltu (d : PReg) (a : GReg) (b : GReg) (ta : Bool) (tb : Bool) : Statement (.cmpltu d a b ta tb) :=
  of_major rfl (encR_top ..) (encR_major ..) rfl
theorem cmple (d : PReg) (a : GReg) (b : GReg) (ta : Bool) (tb : Bool) : Statement (.cmple d a b ta tb) :=
  of_major rfl (encR_top ..) (encR_major ..) rfl
theorem cmpleu (d : PReg) (a : GReg) (b : GReg) (ta : Bool) (tb : Bool) : Statement (.cmpleu d a b ta tb) :=
  of_major rfl (encR_top ..) (encR_major ..) rfl
theorem pand (d : PReg) (a : PReg) (b : PReg) : Statement (.pand d a b) := of_major rfl (encR_top ..) (encR_major ..) rfl
theorem por (d : PReg) (a : PReg) (b : PReg) : Statement (.por d a b) := of_major rfl (encR_top ..) (encR_major ..) rfl
theorem pxor (d : PReg) (a : PReg) (b : PReg) : Statement (.pxor d a b) := of_major rfl (encR_top ..) (encR_major ..) rfl
theorem pandn (d : PReg) (a : PReg) (b : PReg) : Statement (.pandn d a b) := of_major rfl (encR_top ..) (encR_major ..) rfl
theorem pnot (d : PReg) (a : PReg) : Statement (.pnot d a) := of_major rfl (encR_top ..) (encR_major ..) rfl
theorem pmov (d : PReg) (a : PReg) : Statement (.pmov d a) := of_major rfl (encR_top ..) (encR_major ..) rfl
theorem pget (d : GReg) : Statement (.pget d) := of_major rfl (encR_top ..) (encR_major ..) rfl
theorem pset (a : GReg) (ta : Bool) : Statement (.pset a ta) := of_major rfl (encR_top ..) (encR_major ..) rfl
theorem cmpi (p : PReg) (a : GReg) (c : Cond) (i : BitVec 9) : Statement (.cmpi p a c i) :=
  of_major rfl (by
    apply BitVec.eq_of_getLsbD_eq
    intro z hz
    interval_cases z <;> simp only [BitVec.getLsbD_extractLsb', BitVec.getLsbD_append] <;> rfl)
  (by
    apply BitVec.eq_of_getLsbD_eq
    intro z hz
    interval_cases z <;> simp only [fMajor, BitVec.getLsbD_extractLsb', BitVec.getLsbD_append] <;> rfl : fMajor _ = 0x08) rfl
theorem br (n : Bool) (p : PReg) (o : BitVec 17) : Statement (.br n p o) :=
  of_major rfl (by
    apply BitVec.eq_of_getLsbD_eq
    intro z hz
    interval_cases z <;> simp only [BitVec.getLsbD_extractLsb', BitVec.getLsbD_append] <;> rfl)
  (by
    apply BitVec.eq_of_getLsbD_eq
    intro z hz
    interval_cases z <;> simp only [fMajor, BitVec.getLsbD_extractLsb', BitVec.getLsbD_append] <;> rfl : fMajor _ = 0x09) rfl
theorem call (o : BitVec 24) : Statement (.call o) :=
  of_major rfl (by
    apply BitVec.eq_of_getLsbD_eq
    intro z hz
    interval_cases z <;> simp only [BitVec.getLsbD_extractLsb', BitVec.getLsbD_append] <;> rfl)
  (by
    apply BitVec.eq_of_getLsbD_eq
    intro z hz
    interval_cases z <;> simp only [fMajor, BitVec.getLsbD_extractLsb', BitVec.getLsbD_append] <;> rfl : fMajor _ = 0x0A) rfl
theorem jr (a : GReg) (ta : Bool) : Statement (.jr a ta) := of_major rfl (encR_top ..) (encR_major ..) rfl
theorem jalr (d : GReg) (a : GReg) (ta : Bool) : Statement (.jalr d a ta) := of_major rfl (encR_top ..) (encR_major ..) rfl
theorem ret : Statement .ret := of_major rfl (encR_top ..) (encR_major ..) rfl
theorem spawn (d : GReg) (a : GReg) (b : GReg) (ta : Bool) (tb : Bool) : Statement (.spawn d a b ta tb) :=
  of_major rfl (encR_top ..) (encR_major ..) rfl
theorem halt : Statement .halt := of_major rfl (encR_top ..) (encR_major ..) rfl
theorem yield : Statement .yield := of_major rfl (encR_top ..) (encR_major ..) rfl
theorem setrpt (a : GReg) (ta : Bool) : Statement (.setrpt a ta) := of_major rfl (encR_top ..) (encR_major ..) rfl
theorem trap (n : BitVec 6) : Statement (.trap n) := of_major rfl (encR_top ..) (encR_major ..) rfl
theorem brk (n : BitVec 6) : Statement (.brk n) := of_major rfl (encR_top ..) (encR_major ..) rfl
theorem nop : Statement .nop := of_major rfl (encR_top ..) (encR_major ..) rfl
theorem waitstr (m : BitVec 2) : Statement (.waitstr m) := of_major rfl (encR_top ..) (encR_major ..) rfl
theorem mfs (d : GReg) (n : BitVec 6) : Statement (.mfs d n) := of_two rfl (encR_top ..) (by rw [encR_major, encR_minor]; rfl)
theorem mts (n : BitVec 6) (a : GReg) (ta : Bool) : Statement (.mts n a ta) :=
  of_two rfl (encR_top ..) (by rw [encR_major, encR_minor]; rfl)
theorem safe (mask : BitVec 64) : Statement (.safe mask) := by
  intro _ rest
  exact ⟨unitLen_six _ _ rest (encR_top ..) (by rw [encR_major, encR_minor]; rfl), by simp [encode, six, two]⟩
theorem lit (d : GReg) (x : BitVec 64) : Statement (.lit d x) := by
  intro _ rest
  exact ⟨unitLen_six _ _ rest (encR_top ..) (by rw [encR_major, encR_minor]; rfl), by simp [encode, six, two]⟩
theorem trel (t : TReg) : Statement (.trel t) := of_two rfl (encR_top ..) (by rw [encR_major, encR_minor]; rfl)
theorem tmark (t : TReg) : Statement (.tmark t) := of_two rfl (encR_top ..) (by rw [encR_major, encR_minor]; rfl)
theorem tstat (d : GReg) (t : TReg) : Statement (.tstat d t) := of_two rfl (encR_top ..) (by rw [encR_major, encR_minor]; rfl)
theorem tclr (t : TReg) : Statement (.tclr t) := of_two rfl (encR_top ..) (by rw [encR_major, encR_minor]; rfl)
theorem lds (d : GReg) (a : GReg) (s : Size) (o : BitVec 10) : Statement (.lds d a s o) :=
  of_major rfl (encM_top ..) (encM_major ..) rfl
theorem sts (d : GReg) (a : GReg) (s : Size) (o : BitVec 10) : Statement (.sts d a s o) :=
  of_major rfl (encM_top ..) (encM_major ..) rfl
theorem ldg (d : GReg) (h : HReg) (a : GReg) (s : Size) (o : BitVec 6) : Statement (.ldg d h a s o) :=
  of_major rfl (encH_top ..) (encH_major ..) rfl
theorem stg (d : GReg) (h : HReg) (a : GReg) (s : Size) (o : BitVec 6) : Statement (.stg d h a s o) :=
  of_major rfl (encH_top ..) (encH_major ..) rfl
theorem xlate (h : HReg) (a : GReg) (ta : Bool) : Statement (.xlate h a ta) := of_major rfl (encR_top ..) (encR_major ..) rfl
theorem probe (a : GReg) (b : GReg) (ta : Bool) (tb : Bool) : Statement (.probe a b ta tb) :=
  of_major rfl (encR_top ..) (encR_major ..) rfl
theorem hrel (h : HReg) : Statement (.hrel h) := of_major rfl (encR_top ..) (encR_major ..) rfl
theorem hinfo (d : GReg) (h : HReg) : Statement (.hinfo d h) := of_major rfl (encR_top ..) (encR_major ..) rfl
theorem hrenew (h : HReg) : Statement (.hrenew h) := of_major rfl (encR_top ..) (encR_major ..) rfl
theorem amo (d : GReg) (h : HReg) (a : GReg) (op : AmoOp) (sc : Scope) (z : Bool) (r : Bool) : Statement (.amo d h a op sc z r) :=
  of_major rfl (by
    apply BitVec.eq_of_getLsbD_eq
    intro z hz
    interval_cases z <;> simp only [BitVec.getLsbD_extractLsb', BitVec.getLsbD_append] <;> rfl)
  (by
    apply BitVec.eq_of_getLsbD_eq
    intro z hz
    interval_cases z <;> simp only [fMajor, BitVec.getLsbD_extractLsb', BitVec.getLsbD_append] <;> rfl : fMajor _ = 0x15) rfl
theorem fence (sc : Scope) : Statement (.fence sc) := of_major rfl (encR_top ..) (encR_major ..) rfl
theorem flush (a : GReg) (b : GReg) (ta : Bool) (tb : Bool) : Statement (.flush a b ta tb) :=
  of_major rfl (encR_top ..) (encR_major ..) rfl
theorem push (a : GReg) (q : BitVec 3) (ta : Bool) : Statement (.push a q ta) := of_major rfl (encR_top ..) (encR_major ..) rfl
theorem qroom (d : GReg) (q : BitVec 3) : Statement (.qroom d q) := of_major rfl (encR_top ..) (encR_major ..) rfl
theorem wmark (d : GReg) (q : BitVec 3) : Statement (.wmark d q) := of_major rfl (encR_top ..) (encR_major ..) rfl
theorem wmwait (a : GReg) (q : BitVec 3) (ta : Bool) : Statement (.wmwait a q ta) :=
  of_major rfl (encR_top ..) (encR_major ..) rfl
theorem bacq (d : GReg) (n : BitVec 3) : Statement (.bacq d n) := of_major rfl (encR_top ..) (encR_major ..) rfl
theorem brel (a : GReg) (n : BitVec 3) (ta : Bool) : Statement (.brel a n ta) := of_major rfl (encR_top ..) (encR_major ..) rfl
theorem ksig (g : GReg) (k : BitVec 8) (amt : BitVec 4) (tg : Bool) : Statement (.ksig g k amt tg) :=
  of_major rfl (encK_top ..) (encK_major ..) rfl
theorem kwait (g : GReg) (k : BitVec 8) (amt : BitVec 4) (tg : Bool) : Statement (.kwait g k amt tg) :=
  of_major rfl (encK_top ..) (encK_major ..) rfl
theorem ktwait (g : GReg) (k : BitVec 8) (amt : BitVec 4) (tg : Bool) : Statement (.ktwait g k amt tg) :=
  of_major rfl (encK_top ..) (encK_major ..) rfl
theorem kread (g : GReg) (k : BitVec 8) : Statement (.kread g k) := of_major rfl (encK_top ..) (encK_major ..) rfl
theorem kset (g : GReg) (k : BitVec 8) (tg : Bool) : Statement (.kset g k tg) := of_major rfl (encK_top ..) (encK_major ..) rfl
theorem carv (g : GReg) (b : BitVec 4) : Statement (.carv g b) := of_major rfl (encK_top ..) (encK_major ..) rfl
theorem cwait (g : GReg) (b : BitVec 4) (tg : Bool) : Statement (.cwait g b tg) :=
  of_major rfl (encK_top ..) (encK_major ..) rfl
theorem ctwait (g : GReg) (b : BitVec 4) (tg : Bool) : Statement (.ctwait g b tg) :=
  of_major rfl (encK_top ..) (encK_major ..) rfl
theorem cbset (g : GReg) (b : BitVec 4) (tg : Bool) : Statement (.cbset g b tg) :=
  of_major rfl (encK_top ..) (encK_major ..) rfl
theorem vadd (d : VReg) (a : VReg) (b : VReg) (k : MReg) (ty : VType) : Statement (.vadd d a b k ty) :=
  of_major rfl (encV_top ..) (encV_major ..) rfl
theorem vsub (d : VReg) (a : VReg) (b : VReg) (k : MReg) (ty : VType) : Statement (.vsub d a b k ty) :=
  of_major rfl (encV_top ..) (encV_major ..) rfl
theorem vmul (d : VReg) (a : VReg) (b : VReg) (k : MReg) (ty : VType) : Statement (.vmul d a b k ty) :=
  of_major rfl (encV_top ..) (encV_major ..) rfl
theorem vfma (d : VReg) (a : VReg) (b : VReg) (k : MReg) (ty : VType) : Statement (.vfma d a b k ty) :=
  of_major rfl (encV_top ..) (encV_major ..) rfl
theorem vmin (d : VReg) (a : VReg) (b : VReg) (k : MReg) (ty : VType) : Statement (.vmin d a b k ty) :=
  of_major rfl (encV_top ..) (encV_major ..) rfl
theorem vmax (d : VReg) (a : VReg) (b : VReg) (k : MReg) (ty : VType) : Statement (.vmax d a b k ty) :=
  of_major rfl (encV_top ..) (encV_major ..) rfl
theorem vsadd (d : VReg) (a : VReg) (b : VReg) (k : MReg) (ty : VType) : Statement (.vsadd d a b k ty) :=
  of_major rfl (encV_top ..) (encV_major ..) rfl
theorem vssub (d : VReg) (a : VReg) (b : VReg) (k : MReg) (ty : VType) : Statement (.vssub d a b k ty) :=
  of_major rfl (encV_top ..) (encV_major ..) rfl
theorem vand (d : VReg) (a : VReg) (b : VReg) (k : MReg) : Statement (.vand d a b k) :=
  of_major rfl (encV_top ..) (encV_major ..) rfl
theorem vor (d : VReg) (a : VReg) (b : VReg) (k : MReg) : Statement (.vor d a b k) :=
  of_major rfl (encV_top ..) (encV_major ..) rfl
theorem vxor (d : VReg) (a : VReg) (b : VReg) (k : MReg) : Statement (.vxor d a b k) :=
  of_major rfl (encV_top ..) (encV_major ..) rfl
theorem vshl (d : VReg) (a : VReg) (b : VReg) (k : MReg) (ty : VType) : Statement (.vshl d a b k ty) :=
  of_major rfl (encV_top ..) (encV_major ..) rfl
theorem vshr (d : VReg) (a : VReg) (b : VReg) (k : MReg) (ty : VType) : Statement (.vshr d a b k ty) :=
  of_major rfl (encV_top ..) (encV_major ..) rfl
theorem vsra (d : VReg) (a : VReg) (b : VReg) (k : MReg) (ty : VType) : Statement (.vsra d a b k ty) :=
  of_major rfl (encV_top ..) (encV_major ..) rfl
theorem vabs (d : VReg) (a : VReg) (k : MReg) (ty : VType) : Statement (.vabs d a k ty) :=
  of_major rfl (encV_top ..) (encV_major ..) rfl
theorem vneg (d : VReg) (a : VReg) (k : MReg) (ty : VType) : Statement (.vneg d a k ty) :=
  of_major rfl (encV_top ..) (encV_major ..) rfl
theorem vcmpeq (d : MReg) (a : VReg) (b : VReg) (k : MReg) (ty : VType) : Statement (.vcmpeq d a b k ty) :=
  of_major rfl (encV_top ..) (encV_major ..) rfl
theorem vcmplt (d : MReg) (a : VReg) (b : VReg) (k : MReg) (ty : VType) : Statement (.vcmplt d a b k ty) :=
  of_major rfl (encV_top ..) (encV_major ..) rfl
theorem vcmple (d : MReg) (a : VReg) (b : VReg) (k : MReg) (ty : VType) : Statement (.vcmple d a b k ty) :=
  of_major rfl (encV_top ..) (encV_major ..) rfl
theorem vsel (d : VReg) (a : VReg) (b : VReg) (k : MReg) : Statement (.vsel d a b k) :=
  of_major rfl (encV_top ..) (encV_major ..) rfl
theorem vmov (d : VReg) (a : VReg) (k : MReg) : Statement (.vmov d a k) := of_major rfl (encV_top ..) (encV_major ..) rfl
theorem vbcast (d : VReg) (b : BitVec 5) (k : MReg) (ty : VType) : Statement (.vbcast d b k ty) :=
  of_major rfl (encV_top ..) (encV_major ..) rfl
theorem vext (d : BitVec 5) (a : VReg) (b : BitVec 5) (k : MReg) (ty : VType) : Statement (.vext d a b k ty) :=
  of_major rfl (encV_top ..) (encV_major ..) rfl
theorem vperm (d : VReg) (a : VReg) (b : VReg) (k : MReg) : Statement (.vperm d a b k) :=
  of_major rfl (encV_top ..) (encV_major ..) rfl
theorem vcvt (d : VReg) (a : VReg) (rm : BitVec 2) (src : VType) (k : MReg) (ty : VType) : Statement (.vcvt d a rm src k ty) :=
  of_major rfl (encV_top ..) (encV_major ..) rfl
theorem vrcp (d : VReg) (a : VReg) (k : MReg) : Statement (.vrcp d a k) := of_major rfl (encV_top ..) (encV_major ..) rfl
theorem vrsq (d : VReg) (a : VReg) (k : MReg) : Statement (.vrsq d a k) := of_major rfl (encV_top ..) (encV_major ..) rfl
theorem vexp2 (d : VReg) (a : VReg) (k : MReg) : Statement (.vexp2 d a k) := of_major rfl (encV_top ..) (encV_major ..) rfl
theorem vlut (d : VReg) (a : VReg) (b : BitVec 5) (k : MReg) (ty : VType) : Statement (.vlut d a b k ty) :=
  of_major rfl (encV_top ..) (encV_major ..) rfl
theorem vunpk3 (d : VReg) (a : VReg) (sub : Bool) (h : BitVec 3) (k : MReg) : Statement (.vunpk3 d a sub h k) :=
  of_major rfl (encV_top ..) (encV_major ..) rfl
theorem vtacc (d : VReg) (a : VReg) (b : VReg) (k : MReg) (ty : VType) : Statement (.vtacc d a b k ty) :=
  of_major rfl (encV_top ..) (encV_major ..) rfl
theorem vdot4 (d : VReg) (a : VReg) (b : VReg) (k : MReg) (ty : VType) : Statement (.vdot4 d a b k ty) :=
  of_major rfl (encV_top ..) (encV_major ..) rfl
theorem vlds (d : VReg) (a : BitVec 5) (i : BitVec 5) (k : MReg) : Statement (.vlds d a i k) :=
  of_major rfl (encV_top ..) (encV_major ..) rfl
theorem vsts (d : VReg) (a : BitVec 5) (i : BitVec 5) (k : MReg) : Statement (.vsts d a i k) :=
  of_major rfl (encV_top ..) (encV_major ..) rfl
theorem vldt (d : VReg) (t : TReg) (b : BitVec 5) (k : MReg) : Statement (.vldt d t b k) :=
  of_major rfl (encV_top ..) (encV_major ..) rfl
theorem vstt (d : VReg) (t : TReg) (b : BitVec 5) (k : MReg) : Statement (.vstt d t b k) :=
  of_major rfl (encV_top ..) (encV_major ..) rfl
theorem vldg (d : VReg) (h : HReg) (b : BitVec 5) (k : MReg) : Statement (.vldg d h b k) :=
  of_major rfl (encV_top ..) (encV_major ..) rfl
theorem vstg (d : VReg) (h : HReg) (b : BitVec 5) (k : MReg) : Statement (.vstg d h b k) :=
  of_major rfl (encV_top ..) (encV_major ..) rfl
theorem vgaths (d : VReg) (a : BitVec 5) (b : VReg) (k : MReg) : Statement (.vgaths d a b k) :=
  of_major rfl (encV_top ..) (encV_major ..) rfl
theorem vscats (d : VReg) (a : BitVec 5) (b : VReg) (k : MReg) : Statement (.vscats d a b k) :=
  of_major rfl (encV_top ..) (encV_major ..) rfl
theorem vrsum (d : BitVec 5) (a : VReg) (k : MReg) (ty : VType) : Statement (.vrsum d a k ty) :=
  of_major rfl (encV_top ..) (encV_major ..) rfl
theorem vrmax (d : BitVec 5) (a : VReg) (k : MReg) (ty : VType) : Statement (.vrmax d a k ty) :=
  of_major rfl (encV_top ..) (encV_major ..) rfl
theorem vrmin (d : BitVec 5) (a : VReg) (k : MReg) (ty : VType) : Statement (.vrmin d a k ty) :=
  of_major rfl (encV_top ..) (encV_major ..) rfl
theorem vpfx (d : VReg) (a : VReg) (k : MReg) (ty : VType) : Statement (.vpfx d a k ty) :=
  of_major rfl (encV_top ..) (encV_major ..) rfl
theorem vmsk (d : BitVec 5) (a : BitVec 5) (b : BitVec 5) (f : MskFunc) : Statement (.vmsk d a b f) :=
  of_major rfl (encV_top ..) (encV_major ..) rfl
theorem vpop (d : BitVec 5) (a : MReg) : Statement (.vpop d a) := of_major rfl (encV_top ..) (encV_major ..) rfl
theorem vcomp (d : VReg) (a : VReg) (k : MReg) : Statement (.vcomp d a k) := of_major rfl (encV_top ..) (encV_major ..) rfl
theorem viota (d : VReg) (k : MReg) : Statement (.viota d k) := of_major rfl (encV_top ..) (encV_major ..) rfl
theorem nset (n : BitVec 6) (a : GReg) (ta : Bool) : Statement (.nset n a ta) := of_major rfl (encR_top ..) (encR_major ..) rfl
theorem nclr : Statement .nclr := of_major rfl (encR_top ..) (encR_major ..) rfl
theorem msrc (n : BitVec 6) (a : GReg) (ta : Bool) : Statement (.msrc n a ta) := of_major rfl (encR_top ..) (encR_major ..) rfl
theorem mdst (d : GReg) (a : GReg) (b : GReg) (ta : Bool) (tb : Bool) : Statement (.mdst d a b ta tb) :=
  of_major rfl (encR_top ..) (encR_major ..) rfl
theorem mepi (n : BitVec 2) (a : GReg) (ta : Bool) : Statement (.mepi n a ta) := of_major rfl (encR_top ..) (encR_major ..) rfl
theorem mmode (c : BitVec 3) (w : BitVec 2) (ord : Bool) (asg : Bool) : Statement (.mmode c w ord asg) :=
  of_major rfl (encR_top ..) (encR_major ..) rfl
theorem mgo (fa : Fmt) (fb : Fmt) (acc : Acc) (v : GReg) (tv : Bool) : Statement (.mgo fa fb acc v tv) :=
  of_major rfl (by
    apply BitVec.eq_of_getLsbD_eq
    intro z hz
    interval_cases z <;> simp only [BitVec.getLsbD_extractLsb', BitVec.getLsbD_append] <;> rfl)
  (by
    apply BitVec.eq_of_getLsbD_eq
    intro z hz
    interval_cases z <;> simp only [fMajor, BitVec.getLsbD_extractLsb', BitVec.getLsbD_append] <;> rfl : fMajor _ = 0x1E) rfl
theorem mwait : Statement .mwait := of_major rfl (encR_top ..) (encR_major ..) rfl
theorem mdrain (n : BitVec 2) (ds : Bool) (quant : Bool) (act : Bool) (bias : Bool) (a : GReg) (ipl : Bool) (satm : Bool) (ta : Bool) : Statement (.mdrain n ds quant act bias a ipl satm ta) :=
  of_major rfl (encR_top ..) (encR_major ..) rfl
theorem mazero (n : BitVec 2) : Statement (.mazero n) := of_major rfl (encR_top ..) (encR_major ..) rfl
theorem mscacc (n : BitVec 2) (sfa : Bool) (sfb : Bool) (nsa : Bool) (nsb : Bool) (a : GReg) (b : GReg) (ta : Bool) (tb : Bool) : Statement (.mscacc n sfa sfb nsa nsb a b ta tb) :=
  of_major rfl (encR_top ..) (encR_major ..) rfl
theorem mstat (d : GReg) : Statement (.mstat d) := of_major rfl (encR_top ..) (encR_major ..) rfl
theorem mlut (a : GReg) (ta : Bool) : Statement (.mlut a ta) := of_major rfl (encR_top ..) (encR_major ..) rfl
theorem rst (d : GReg) (a : GReg) (s : Size) (ta : Bool) : Statement (.rst d a s ta) :=
  of_major rfl (encR_top ..) (encR_major ..) rfl
theorem rld (d : GReg) (a : GReg) (s : Size) (ta : Bool) : Statement (.rld d a s ta) :=
  of_major rfl (encR_top ..) (encR_major ..) rfl
theorem cnlaL (d : GReg) (a : GReg) (h : HReg) (ta : Bool) : Statement (.cnlaL d a h ta) :=
  of_major rfl (encR_top ..) (encR_major ..) rfl
theorem cnlaI (d : GReg) (a : GReg) (h : HReg) (ta : Bool) : Statement (.cnlaI d a h ta) :=
  of_major rfl (encR_top ..) (encR_major ..) rfl
theorem cnld (d : GReg) (a : GReg) (h : HReg) (ta : Bool) : Statement (.cnld d a h ta) :=
  of_major rfl (encR_top ..) (encR_major ..) rfl
theorem cnhold (d : GReg) (h : HReg) : Statement (.cnhold d h) := of_major rfl (encR_top ..) (encR_major ..) rfl
theorem cndrop (d : GReg) (h : HReg) : Statement (.cndrop d h) := of_major rfl (encR_top ..) (encR_major ..) rfl
theorem rswap (d : GReg) (a : GReg) (h : HReg) (ta : Bool) : Statement (.rswap d a h ta) :=
  of_major rfl (encR_top ..) (encR_major ..) rfl
theorem rget (d : GReg) (hr : HReg) (hc : HReg) : Statement (.rget d hr hc) := of_major rfl (encR_top ..) (encR_major ..) rfl
theorem cnhash (d : GReg) (a : GReg) (h : HReg) (ta : Bool) : Statement (.cnhash d a h ta) :=
  of_major rfl (encR_top ..) (encR_major ..) rfl
theorem fst (d : GReg) (a : GReg) (b : GReg) (ta : Bool) (tb : Bool) : Statement (.fst d a b ta tb) :=
  of_major rfl (encR_top ..) (encR_major ..) rfl
theorem fld (d : GReg) (a : GReg) (b : GReg) (ta : Bool) (tb : Bool) : Statement (.fld d a b ta tb) :=
  of_major rfl (encR_top ..) (encR_major ..) rfl
theorem famo (d : GReg) (a : GReg) (b : GReg) (ta : Bool) (tb : Bool) : Statement (.famo d a b ta tb) :=
  of_major rfl (encR_top ..) (encR_major ..) rfl
theorem ffence : Statement .ffence := of_major rfl (encR_top ..) (encR_major ..) rfl
theorem fwait (d : GReg) : Statement (.fwait d) := of_major rfl (encR_top ..) (encR_major ..) rfl
theorem glaunch (a : GReg) (b : GReg) (ta : Bool) (tb : Bool) : Statement (.glaunch a b ta tb) :=
  of_major rfl (encR_top ..) (encR_major ..) rfl
theorem cNop : Statement .cNop := of_one rfl rfl
theorem cHalt : Statement .cHalt := of_one rfl rfl
theorem cYield : Statement .cYield := of_one rfl rfl
theorem cBrk : Statement .cBrk := of_one rfl rfl
theorem cIf (p : PReg) : Statement (.cIf p) := of_one rfl (by
  simp only [beq_eq_false_iff_ne, ne_eq]
  intro h
  have := congrArg (fun x => (x.getLsbD 0)) h
  simp only [BitVec.getLsbD_extractLsb', BitVec.getLsbD_append] at this
  exact Bool.false_ne_true this)
theorem cIfn (p : PReg) : Statement (.cIfn p) := of_one rfl (by
  simp only [beq_eq_false_iff_ne, ne_eq]
  intro h
  have := congrArg (fun x => (x.getLsbD 0)) h
  simp only [BitVec.getLsbD_extractLsb', BitVec.getLsbD_append] at this
  exact Bool.false_ne_true this)
theorem cMov (d : GReg) (a : GReg) : Statement (.cMov d a) := of_one rfl (by
  simp only [beq_eq_false_iff_ne, ne_eq]
  intro h
  have := congrArg (fun x => (x.getLsbD 1)) h
  simp only [BitVec.getLsbD_extractLsb', BitVec.getLsbD_append] at this
  exact Bool.false_ne_true this)
theorem cAddi (d : BitVec 4) (i : BitVec 8) : Statement (.cAddi d i) := of_one rfl (by
  simp only [beq_eq_false_iff_ne, ne_eq]
  intro h
  have := congrArg (fun x => (x.getLsbD 1)) h
  simp only [BitVec.getLsbD_extractLsb', BitVec.getLsbD_append] at this
  exact Bool.false_ne_true this)
theorem cAdd (d : GReg) (b : GReg) : Statement (.cAdd d b) := of_one rfl (by
  simp only [beq_eq_false_iff_ne, ne_eq]
  intro h
  have := congrArg (fun x => (x.getLsbD 0)) h
  simp only [BitVec.getLsbD_extractLsb', BitVec.getLsbD_append] at this
  exact Bool.false_ne_true this)
theorem cSub (d : GReg) (b : GReg) : Statement (.cSub d b) := of_one rfl (by
  simp only [beq_eq_false_iff_ne, ne_eq]
  intro h
  have := congrArg (fun x => (x.getLsbD 0)) h
  simp only [BitVec.getLsbD_extractLsb', BitVec.getLsbD_append] at this
  exact Bool.false_ne_true this)
theorem cLdsD (d : BitVec 4) (a : BitVec 4) (o : BitVec 4) : Statement (.cLdsD d a o) := of_one rfl (by
  simp only [beq_eq_false_iff_ne, ne_eq]
  intro h
  have := congrArg (fun x => (x.getLsbD 2)) h
  simp only [BitVec.getLsbD_extractLsb', BitVec.getLsbD_append] at this
  exact Bool.false_ne_true this)
theorem cStsD (d : BitVec 4) (a : BitVec 4) (o : BitVec 4) : Statement (.cStsD d a o) := of_one rfl (by
  simp only [beq_eq_false_iff_ne, ne_eq]
  intro h
  have := congrArg (fun x => (x.getLsbD 2)) h
  simp only [BitVec.getLsbD_extractLsb', BitVec.getLsbD_append] at this
  exact Bool.false_ne_true this)
theorem cBr (o : BitVec 12) : Statement (.cBr o) := of_one rfl (by
  simp only [beq_eq_false_iff_ne, ne_eq]
  intro h
  have := congrArg (fun x => (x.getLsbD 0)) h
  simp only [BitVec.getLsbD_extractLsb', BitVec.getLsbD_append] at this
  exact Bool.false_ne_true this)
theorem cKsig (k : BitVec 8) (amt : BitVec 4) : Statement (.cKsig k amt) := of_one rfl (by
  simp only [beq_eq_false_iff_ne, ne_eq]
  intro h
  have := congrArg (fun x => (x.getLsbD 0)) h
  simp only [BitVec.getLsbD_extractLsb', BitVec.getLsbD_append] at this
  exact Bool.false_ne_true this)
theorem cKwait (k : BitVec 8) (amt : BitVec 4) : Statement (.cKwait k amt) := of_one rfl (by
  simp only [beq_eq_false_iff_ne, ne_eq]
  intro h
  have := congrArg (fun x => (x.getLsbD 1)) h
  simp only [BitVec.getLsbD_extractLsb', BitVec.getLsbD_append] at this
  exact Bool.false_ne_true this)
theorem cTrel (t : TReg) : Statement (.cTrel t) := of_one rfl (by
  simp only [beq_eq_false_iff_ne, ne_eq]
  intro h
  have := congrArg (fun x => (x.getLsbD 1)) h
  simp only [BitVec.getLsbD_extractLsb', BitVec.getLsbD_append] at this
  exact Bool.false_ne_true this)
theorem cTmark (t : TReg) : Statement (.cTmark t) := of_one rfl (by
  simp only [beq_eq_false_iff_ne, ne_eq]
  intro h
  have := congrArg (fun x => (x.getLsbD 1)) h
  simp only [BitVec.getLsbD_extractLsb', BitVec.getLsbD_append] at this
  exact Bool.false_ne_true this)
theorem cShli (d : GReg) (n : BitVec 6) : Statement (.cShli d n) := of_one rfl (by
  simp only [beq_eq_false_iff_ne, ne_eq]
  intro h
  have := congrArg (fun x => (x.getLsbD 0)) h
  simp only [BitVec.getLsbD_extractLsb', BitVec.getLsbD_append] at this
  exact Bool.false_ne_true this)
theorem cLi (d : BitVec 4) (i : BitVec 8) : Statement (.cLi d i) := of_one rfl (by
  simp only [beq_eq_false_iff_ne, ne_eq]
  intro h
  have := congrArg (fun x => (x.getLsbD 0)) h
  simp only [BitVec.getLsbD_extractLsb', BitVec.getLsbD_append] at this
  exact Bool.false_ne_true this)
theorem copyin (c : CoreId) (q : QueueId) : Statement (.copyin c q) := of_none rfl
theorem copyout (c : CoreId) (q : QueueId) : Statement (.copyout c q) := of_none rfl
theorem decode (c : CoreId) (q : QueueId) : Statement (.decode c q) := of_none rfl
theorem encode (c : CoreId) (q : QueueId) : Statement (.encode c q) := of_none rfl
theorem fill (c : CoreId) (q : QueueId) : Statement (.fill c q) := of_none rfl
theorem compact (c : CoreId) (q : QueueId) : Statement (.compact c q) := of_none rfl
theorem qfence (c : CoreId) (q : QueueId) : Statement (.qfence c q) := of_none rfl
theorem layset (c : CoreId) (q : QueueId) : Statement (.layset c q) := of_none rfl
theorem laysync (c : CoreId) (q : QueueId) : Statement (.laysync c q) := of_none rfl
theorem resume (c : CoreId) (q : QueueId) : Statement (.resume c q) := of_none rfl
theorem gather (c : CoreId) (q : QueueId) : Statement (.gather c q) := of_none rfl
theorem scatter (c : CoreId) (q : QueueId) : Statement (.scatter c q) := of_none rfl
theorem scatadd (c : CoreId) (q : QueueId) : Statement (.scatadd c q) := of_none rfl
theorem madd (c : CoreId) (q : QueueId) : Statement (.madd c q) := of_none rfl
theorem mpfx (c : CoreId) (q : QueueId) : Statement (.mpfx c q) := of_none rfl
theorem munion (c : CoreId) (q : QueueId) : Statement (.munion c q) := of_none rfl
theorem rsend (c : CoreId) (q : QueueId) : Statement (.rsend c q) := of_none rfl
theorem rfetch (c : CoreId) (q : QueueId) : Statement (.rfetch c q) := of_none rfl
theorem rsignal (c : CoreId) (q : QueueId) : Statement (.rsignal c q) := of_none rfl
theorem cnout (c : CoreId) (q : QueueId) : Statement (.cnout c q) := of_none rfl
theorem cnin (c : CoreId) (q : QueueId) : Statement (.cnin c q) := of_none rfl
theorem cndiff (c : CoreId) (q : QueueId) : Statement (.cndiff c q) := of_none rfl
theorem jobPop (c : CoreId) (q : QueueId) : Statement (.jobPop c q) := of_none rfl
theorem semaphoreCycle (c : CoreId) : Statement (.semaphoreCycle c) := of_none rfl
theorem ktwaitTimeout (w : Who) (til : Nat) : Statement (.ktwaitTimeout w til) := of_none rfl
theorem tileBitApply (c : CoreId) : Statement (.tileBitApply c) := of_none rfl
theorem leaveGrant (d : DieId) : Statement (.leaveGrant d) := of_none rfl
theorem jobComplete (c : CoreId) (q : QueueId) : Statement (.jobComplete c q) := of_none rfl
theorem jobsDropped (c : CoreId) (q : QueueId) : Statement (.jobsDropped c q) := of_none rfl
theorem gregFill (w : Who) (d : GReg) (x : Dword) : Statement (.gregFill w d x) := of_none rfl
theorem walkComplete (w : Who) (h : HReg) (x : SpaceAddr) : Statement (.walkComplete w h x) :=
  of_none rfl
theorem walkRestart (w : Who) (h : HReg) (x : SpaceAddr) : Statement (.walkRestart w h x) := of_none rfl
theorem engineLeaseRenew (c : CoreId) (q : QueueId) : Statement (.engineLeaseRenew c q) := of_none rfl
theorem codeFetch (w : Who) (va : Dword) : Statement (.codeFetch w va) := of_none rfl
theorem homeAccess (a : Access) : Statement (.homeAccess a) := of_none rfl
theorem crossdieWriteApply (d : DieId) : Statement (.crossdieWriteApply d) := of_none rfl
theorem appliedCountReport (d : DieId) : Statement (.appliedCountReport d) := of_none rfl
theorem atomicWriteback (sc : Scope) (point : Nat) (loc : Nat) : Statement (.atomicWriteback sc point loc) := of_none rfl
theorem flushComplete (w : Who) : Statement (.flushComplete w) := of_none rfl
theorem hostAccess (pa : Nat) (n : Nat) (wr : Bool) (x : Dword) : Statement (.hostAccess pa n wr x) := of_none rfl
theorem clusterAccess (w : Who) (tgt : CoreId) (off : Nat) (n : Nat) (x : Option Dword) (d : GReg) : Statement (.clusterAccess w tgt off n x d) :=
  of_none rfl
theorem barrierApply (k : ClusterId) : Statement (.barrierApply k) := of_none rfl
theorem ctwaitTimeout (w : Who) (til : Nat) : Statement (.ctwaitTimeout w til) := of_none rfl
theorem multicastTimeout (c : CoreId) (til : Nat) : Statement (.multicastTimeout c til) := of_none rfl
theorem multicastLoad (c : CoreId) : Statement (.multicastLoad c) := of_none rfl
theorem stepBegin (c : CoreId) : Statement (.stepBegin c) := of_none rfl
theorem laneEvaluate (c : CoreId) (lane : Fin 64) : Statement (.laneEvaluate c lane) := of_none rfl
theorem windowLoad (c : CoreId) : Statement (.windowLoad c) := of_none rfl
theorem rodTakeItem (c : CoreId) (rod : Fin 64) : Statement (.rodTakeItem c rod) := of_none rfl
theorem itemArrival (c : CoreId) (rod : Fin 64) : Statement (.itemArrival c rod) := of_none rfl
theorem frameJobComplete (c : CoreId) : Statement (.frameJobComplete c) := of_none rfl
theorem frameJobPause (c : CoreId) : Statement (.frameJobPause c) := of_none rfl
theorem drainRowWrite (c : CoreId) : Statement (.drainRowWrite c) := of_none rfl
theorem mlutCopyDone (c : CoreId) : Statement (.mlutCopyDone c) := of_none rfl
theorem reclaimLine : Statement .reclaimLine := of_none rfl
theorem instanceDispatch : Statement .instanceDispatch := of_none rfl
theorem preemptRequest : Statement .preemptRequest := of_none rfl
theorem instanceSave (k : Nat) : Statement (.instanceSave k) := of_none rfl
theorem instanceResume (k : Nat) : Statement (.instanceResume k) := of_none rfl
theorem suspendTimeout (k : Nat) : Statement (.suspendTimeout k) := of_none rfl
theorem instanceRetire (k : Nat) : Statement (.instanceRetire k) := of_none rfl
theorem safepointOverrun (w : Who) : Statement (.safepointOverrun w) := of_none rfl
theorem deadlockFault (c : CoreId) : Statement (.deadlockFault c) := of_none rfl
theorem doorbellRecord (n : Nat) (x : Dword) : Statement (.doorbellRecord n x) := of_none rfl
theorem restart (n : Nat) : Statement (.restart n) := of_none rfl
theorem reload (n : Nat) : Statement (.reload n) := of_none rfl
theorem wqConsume (q : Nat) : Statement (.wqConsume q) := of_none rfl
theorem devqConsume (q : Nat) : Statement (.devqConsume q) := of_none rfl
theorem launch (q : Nat) (e : Dword) : Statement (.launch q e) := of_none rfl
theorem struct (q : Nat) (e : Dword) : Statement (.struct q e) := of_none rfl
theorem conditionalRead (r : Nat) (i : Nat) : Statement (.conditionalRead r i) := of_none rfl
theorem replayDone (r : Nat) : Statement (.replayDone r) := of_none rfl
theorem loadFigure : Statement .loadFigure := of_none rfl
theorem stealRequest : Statement .stealRequest := of_none rfl
theorem stealGrant (p : Port) (slots : Nat) : Statement (.stealGrant p slots) := of_none rfl
theorem stolenArrival (p : Port) (x : Stolen) : Statement (.stolenArrival p x) := of_none rfl
theorem stealRetireReport (k : Nat) : Statement (.stealRetireReport k) := of_none rfl
theorem lcuMeasure (d : DieId) (ofs : Int) : Statement (.lcuMeasure d ofs) := of_none rfl
theorem skewResync (d : DieId) : Statement (.skewResync d) := of_none rfl
theorem skewResyncTimeout (d : DieId) : Statement (.skewResyncTimeout d) := of_none rfl
theorem dieFence (d : DieId) : Statement (.dieFence d) := of_none rfl
theorem masterElection : Statement .masterElection := of_none rfl
theorem migrationArm (d : DieId) (e : MigId) (x : Dword) : Statement (.migrationArm d e x) := of_none rfl
theorem migrationRemove (d : DieId) (e : MigId) : Statement (.migrationRemove d e) := of_none rfl
theorem migrationLineCopy (d : DieId) (e : MigId) : Statement (.migrationLineCopy d e) := of_none rfl
theorem moduleStart (u : Startup) : Statement (.moduleStart u) := of_none rfl
theorem tamperAlarm : Statement .tamperAlarm := of_none rfl
theorem voltageGlitch : Statement .voltageGlitch := of_none rfl
theorem clockGlitch : Statement .clockGlitch := of_none rfl
theorem coolantThrottle (d : DieId) : Statement (.coolantThrottle d) := of_none rfl
theorem pwrcapWrite (d : DieId) (x : Dword) : Statement (.pwrcapWrite d x) := of_none rfl
theorem secstatAdv : Statement .secstatAdv := of_none rfl
theorem alarmpolWrite (x : Dword) : Statement (.alarmpolWrite x) := of_none rfl
theorem registerWrite (off : Nat) (x : Dword) (host : Bool) : Statement (.registerWrite off x host) := of_none rfl
theorem fabrd : Statement .fabrd := of_none rfl
theorem fabwr : Statement .fabwr := of_none rfl
theorem kempub : Statement .kempub := of_none rfl
theorem kekset : Statement .kekset := of_none rfl
theorem linkkey : Statement .linkkey := of_none rfl
theorem cnkey : Statement .cnkey := of_none rfl
theorem cnkeyclr : Statement .cnkeyclr := of_none rfl
theorem spareret : Statement .spareret := of_none rfl
theorem quote : Statement .quote := of_none rfl
theorem mailboxComplete : Statement .mailboxComplete := of_none rfl
theorem flitSend (p : Port) (d : DieId) : Statement (.flitSend p d) := of_none rfl
theorem flitReceive (p : Port) (d : DieId) (f : Flit) : Statement (.flitReceive p d f) := of_none rfl
theorem nakReceive (p : Port) (d : DieId) (ack : BitVec 12) : Statement (.nakReceive p d ack) := of_none rfl
theorem retrainDone (p : Port) (d : DieId) : Statement (.retrainDone p d) := of_none rfl
theorem retrainTimeout (p : Port) (d : DieId) (til : Nat) : Statement (.retrainTimeout p d til) := of_none rfl
theorem laneRepair (p : Port) (tx : Bool) (d : DieId) : Statement (.laneRepair p tx d) := of_none rfl
theorem write (d : DieId) (x : Packet) : Statement (.write d x) := of_none rfl
theorem read (d : DieId) (x : Packet) : Statement (.read d x) := of_none rfl
theorem readresp (x : Packet) : Statement (.readresp x) := of_none rfl
theorem atomic (d : DieId) (x : Packet) : Statement (.atomic d x) := of_none rfl
theorem atomresp (x : Packet) : Statement (.atomresp x) := of_none rfl
theorem signal (d : DieId) (x : Packet) : Statement (.signal d x) := of_none rfl
theorem ack (x : Packet) : Statement (.ack x) := of_none rfl
theorem steal (p : Port) (x : StealMsg) : Statement (.steal p x) := of_none rfl
theorem heldRequestTimeout (d : DieId) (n : Nat) : Statement (.heldRequestTimeout d n) := of_none rfl
theorem remoteTimeout (t : Word) : Statement (.remoteTimeout t) := of_none rfl
theorem clusterNetworkFlitFailure (w : Who) : Statement (.clusterNetworkFlitFailure w) := of_none rfl
theorem coolantBelowLimit (d : DieId) : Statement (.coolantBelowLimit d) := of_none rfl
theorem contentNamedOperation (x : CnReq) : Statement (.contentNamedOperation x) := of_none rfl
theorem vldgLanesArrive (w : Who) (d : VReg) (mask : Dword) : Statement (.vldgLanesArrive w d mask) := of_none rfl
theorem replicaAcknowledge (d : DieId) : Statement (.replicaAcknowledge d) := of_none rfl

end Sys2Proof.Laws.Length
end

