-- ==== Sys2Proof/Safety.lean ====
section
/-!
DEFINITION. What claims call a safe run.
-/

namespace Sys2Proof.Machine

/-- An outcome that is a next state. -/
def Out.goesOn : Out → Bool
  | .next _ => true
  | _ => false

/-- The machine takes its step. -/
def State.safe (s : State) : Prop := Out.goesOn (step s) = true

end Sys2Proof.Machine
end

