-- ==== Sys2Proof/Tests/Slice0.lean ====
section
/-!
SUPPORT. The model's own tests: what well-formedness refuses, words written out from the encoding tables, and results that
the spec's worked examples give.
-/

open Sys2Proof Sys2Proof.Machine

namespace Sys2Proof.Tests

set_option Elab.async false

/-! ### Well-formedness refuses a term for each of its checks -/

theorem test_wf_special_registers : (Instr.mfs 1 19).wf = false ∧ (Instr.mts 9 1 false).wf = false := by decide
theorem test_wf_float_atomic_dword : (Instr.amo 1 2 3 .fadd .core true false).wf = false := by decide
theorem test_wf_amo_cas_pair : (Instr.amo 63 0 0 .cas .core false false).wf = false := by decide
theorem test_wf_push_block : (Instr.push 61 0 false).wf = false := by decide
theorem test_wf_semaphore_amounts :
    (Instr.ksig 1 7 1 false).wf = false ∧ (Instr.kwait 0 7 1 true).wf = false ∧ (Instr.ktwait 1 7 0 false).wf = false ∧
      (Instr.cKsig 1 0).wf = false ∧ (Instr.cKwait 1 0).wf = false := by decide
theorem test_wf_vector_types :
    (Instr.vsadd 1 2 3 0 .f32).wf = false ∧ (Instr.vssub 1 2 3 0 .bf16).wf = false ∧ (Instr.vshl 1 2 3 0 .f16).wf = false ∧
      (Instr.vshr 1 2 3 0 .f32).wf = false ∧ (Instr.vsra 1 2 3 0 .ui8).wf = false ∧ (Instr.vabs 1 2 0 .ui32).wf = false ∧
      (Instr.vneg 1 2 0 .ui8).wf = false := by decide
theorem test_wf_vector_word_types :
    (Instr.vext 1 2 3 0 .i8).wf = false ∧ (Instr.vrsum 1 2 0 .i16).wf = false ∧ (Instr.vrmax 1 2 0 .f16).wf = false ∧
      (Instr.vrmin 1 2 0 .bf16).wf = false ∧ (Instr.vpfx 1 2 0 .ui8).wf = false ∧ (Instr.vlut 1 2 3 0 .i8).wf = false ∧
      (Instr.vtacc 1 2 3 0 .i32).wf = false ∧ (Instr.vdot4 1 2 3 0 .i16).wf = false := by decide
theorem test_wf_vector_compares :
    (Instr.vcmpeq 0 2 3 0 .i32).wf = false ∧ (Instr.vcmplt 1 2 3 0 .i8).wf = false ∧ (Instr.vcmple 0 2 3 0 .f32).wf = false := by decide
theorem test_wf_vector_conversions :
    vcvtLegal 0 .f32 .f32 = false ∧ vcvtLegal 2 .f16 .f32 = false ∧ vcvtLegal 0 .bf16 .i32 = false := by decide
theorem test_wf_vector_parts :
    (Instr.vunpk3 1 2 false 5 0).wf = false ∧ (Instr.vmsk 0 1 2 .and).wf = false ∧ (Instr.vmsk 1 8 0 .not).wf = false ∧
      (Instr.vmsk 1 2 1 .first).wf = false ∧ (Instr.vmsk 1 2 1 .mtog).wf = false := by decide
theorem test_wf_nest_numbers :
    (Instr.nset 24 1 false).wf = false ∧ (Instr.msrc 6 1 false).wf = false ∧ (Instr.mmode 5 0 false false).wf = false ∧
      (Instr.mmode 0 3 false false).wf = false := by decide
theorem test_wf_matrix_formats : (Instr.mgo .int8 .fp16 .fp 1 false).wf = false ∧ (Instr.mgo .int8 .e4m3 .int 1 false).wf = false := by decide
theorem test_wf_drains :
    (Instr.mdrain 0 true false false false 1 false true false).wf = false ∧ (Instr.mdrain 0 false false false false 16 true false false).wf = false ∧
      (Instr.mscacc 0 false false true false 1 0 false false).wf = false ∧ (Instr.mscacc 0 false true false true 0 0 false false).wf = false := by decide
theorem test_wf_name_registers :
    (Instr.cnlaL 1 2 3 false).wf = false ∧ (Instr.cnlaI 0 2 3 false).wf = false ∧ (Instr.cnld 3 2 3 false).wf = false ∧
      (Instr.cnhold 5 3).wf = false ∧ (Instr.cndrop 7 3).wf = false ∧ (Instr.rget 2 3 4).wf = false ∧ (Instr.rget 0 3 4).wf = false := by decide

/-! ### What the decoder rejects, by name -/

/-- The decoder's reason. -/
def rejected (hs : List Half) : Option Reject :=
  match decode hs with
  | .error e => some e
  | .ok _ => none

theorem test_reject_reserved_major : rejected [0xED00, 0] = some .reservedMajor := by decide
theorem test_reject_unused_minor : rejected [0xEC00, 0x003C] = some .unusedMinor := by decide
theorem test_reject_reserved_field : rejected [0xEB04, 0x0010] = some .reservedField := by decide
theorem test_reject_field_range : rejected [0xEC00, 0x44C4] = some .fieldRange := by decide
theorem test_reject_compact : rejected [0x0400] = some .badCompact := by decide
theorem test_reject_cut_short : rejected [0xE010] = some .cutShort := by decide

/-! ### Words of every family, from the encoding tables (R42 to R51, R88, R190, R246, R367, R390) -/

theorem test_decode_int_r :
    decodeTableWord 32 0b11100000101011110101011010000011 = some (.add 43 53 26 true true) ∧
    decodeTableWord 32 0b11100000101011110101011010000111 = some (.sub 43 53 26 true true) ∧
    decodeTableWord 32 0b11100000101011110101011010001011 = some (.mul 43 53 26 true true) ∧
    decodeTableWord 32 0b11100000101011110101011010001111 = some (.mulhs 43 53 26 true true) ∧
    decodeTableWord 32 0b11100000101011110101011010010011 = some (.mulhu 43 53 26 true true) ∧
    decodeTableWord 32 0b11100000101011110101011010010111 = some (.divs 43 53 26 true true) ∧
    decodeTableWord 32 0b11100000101011110101011010011011 = some (.divu 43 53 26 true true) ∧
    decodeTableWord 32 0b11100000101011110101011010011111 = some (.rems 43 53 26 true true) ∧
    decodeTableWord 32 0b11100000101011110101011010100011 = some (.remu 43 53 26 true true) ∧
    decodeTableWord 32 0b11100000101011110101011010100111 = some (.and 43 53 26 true true) ∧
    decodeTableWord 32 0b11100000101011110101011010101011 = some (.or 43 53 26 true true) ∧
    decodeTableWord 32 0b11100000101011110101011010101111 = some (.xor 43 53 26 true true) ∧
    decodeTableWord 32 0b11100000101011110101011010110011 = some (.andn 43 53 26 true true) ∧
    decodeTableWord 32 0b11100000101011110101011010110111 = some (.shl 43 53 26 true true) ∧
    decodeTableWord 32 0b11100000101011110101011010111011 = some (.shr 43 53 26 true true) ∧
    decodeTableWord 32 0b11100000101011110101011010111111 = some (.sra 43 53 26 true true) := by decide
theorem test_decode_int_x :
    decodeTableWord 32 0b11100001101011110101011010000011 = some (.mins 43 53 26 true true) ∧
    decodeTableWord 32 0b11100001101011110101011010000111 = some (.minu 43 53 26 true true) ∧
    decodeTableWord 32 0b11100001101011110101011010001011 = some (.maxs 43 53 26 true true) ∧
    decodeTableWord 32 0b11100001101011110101011010001111 = some (.maxu 43 53 26 true true) ∧
    decodeTableWord 32 0b11100001101011110101000000010000 = some (.clz 43 53 false) ∧
    decodeTableWord 32 0b11100001101011110101000000010100 = some (.ctz 43 53 false) ∧
    decodeTableWord 32 0b11100001101011110101000000011000 = some (.popc 43 53 false) ∧
    decodeTableWord 32 0b11100001101011110101011010011111 = some (.rol 43 53 26 true true) ∧
    decodeTableWord 32 0b11100001101011110101011010100011 = some (.bfx 43 53 26 true true) ∧
    decodeTableWord 32 0b11100001101011110101011010100111 = some (.bfi 43 53 26 true true) ∧
    decodeTableWord 32 0b11100001101011110101011010101010 = some (.shli 43 53 26 true) ∧
    decodeTableWord 32 0b11100001101011110101011010101110 = some (.shri 43 53 26 true) ∧
    decodeTableWord 32 0b11100001101011110101011010110010 = some (.srai 43 53 26 true) ∧
    decodeTableWord 32 0b11100001101011110101011010110111 = some (.addx8 43 53 26 true true) := by decide
theorem test_decode_immediates :
    decodeTableWord 32 0b11100010101011110101001011011010 = some (.addi 43 53 730) ∧
    decodeTableWord 32 0b11100011101011110101001011011010 = some (.andi 43 53 730) ∧
    decodeTableWord 32 0b11100100101011110101001011011010 = some (.ori 43 53 730) ∧
    decodeTableWord 32 0b11100101101011110101001011011010 = some (.xori 43 53 730) ∧
    decodeTableWord 32 0b11100110101011000000010110110101 = some (.lui 43 1461) ∧
    decodeTableWord 32 0b11101000100101110101010101101011 = some (.cmpi 37 53 .lt 363) ∧
    decodeTableWord 32 0b11101001100100100000001011011010 = some (.br true 9 730) ∧
    decodeTableWord 32 0b11101010000000000000101101101011 = some (.call 2923) ∧
    decodeTableWord 32 0b11110000101011110101101101101011 = some (.lds 43 53 .w 875) ∧
    decodeTableWord 32 0b11110001101011110101101101101011 = some (.sts 43 53 .w 875) ∧
    decodeTableWord 32 0b11110010101011010101101011110101 = some (.ldg 43 5 26 .d 53) ∧
    decodeTableWord 32 0b11110011101011010101101011110101 = some (.stg 43 5 26 .d 53) ∧
    decodeTableWord 32 0b11110101101011010101101010010101 = some (.amo 43 5 26 .cas .cluster false true) := by decide
theorem test_decode_pred :
    decodeTableWord 32 0b11100111100101110101011010000011 = some (.cmpeq 37 53 26 true true) ∧
    decodeTableWord 32 0b11100111100101110101011010000111 = some (.cmpne 37 53 26 true true) ∧
    decodeTableWord 32 0b11100111100101110101011010001011 = some (.cmplt 37 53 26 true true) ∧
    decodeTableWord 32 0b11100111100101110101011010001111 = some (.cmpltu 37 53 26 true true) ∧
    decodeTableWord 32 0b11100111100101110101011010010011 = some (.cmple 37 53 26 true true) ∧
    decodeTableWord 32 0b11100111100101110101011010010111 = some (.cmpleu 37 53 26 true true) ∧
    decodeTableWord 32 0b11100111100101001001110010011000 = some (.pand 37 9 50) ∧
    decodeTableWord 32 0b11100111100101001001110010011100 = some (.por 37 9 50) ∧
    decodeTableWord 32 0b11100111100101001001110010100000 = some (.pxor 37 9 50) ∧
    decodeTableWord 32 0b11100111100101001001110010100100 = some (.pandn 37 9 50) ∧
    decodeTableWord 32 0b11100111100101001001000000101000 = some (.pnot 37 9) ∧
    decodeTableWord 32 0b11100111100101001001000000101100 = some (.pmov 37 9) ∧
    decodeTableWord 32 0b11100111101011000000000000110000 = some (.pget 43) ∧
    decodeTableWord 32 0b11100111000000101011000000110110 = some (.pset 43 true) := by decide
theorem test_decode_ctrl :
    decodeTableWord 32 0b11101011000000101011000000000010 = some (.jr 43 true) ∧
    decodeTableWord 32 0b11101011101011110101000000000100 = some (.jalr 43 53 false) ∧
    decodeTableWord 32 0b11101011000000000000000000001000 = some (.ret) ∧
    decodeTableWord 32 0b11101011101011110101011010001111 = some (.spawn 43 53 26 true true) ∧
    decodeTableWord 32 0b11101011000000000000000000010000 = some (.halt) ∧
    decodeTableWord 32 0b11101011000000000000000000010100 = some (.yield) ∧
    decodeTableWord 32 0b11101011000000101011000000011010 = some (.setrpt 43 true) ∧
    decodeTableWord 32 0b11101011000000000000101011011100 = some (.trap 43) ∧
    decodeTableWord 32 0b11101011000000000000101011100000 = some (.brk 43) ∧
    decodeTableWord 32 0b11101011000000000000000000100100 = some (.nop) ∧
    decodeTableWord 32 0b11101011000000000000000110101000 = some (.waitstr 3) := by decide
theorem test_decode_sys :
    decodeTableWord 32 0b11101100101011000000010010000000 = some (.mfs 43 18) ∧
    decodeTableWord 32 0b11101100000000110101000110000110 = some (.mts 6 53 true) ∧
    decodeTableWord 32 0b11101100000000001011000000010000 = some (.trel 11) ∧
    decodeTableWord 32 0b11101100000000001011000000010100 = some (.tmark 11) ∧
    decodeTableWord 32 0b11101100101011000101000000011000 = some (.tstat 43 5) ∧
    decodeTableWord 32 0b11101100000000001011000000011100 = some (.tclr 11) := by decide
theorem test_decode_xlt :
    decodeTableWord 32 0b11110100001011110101000000000000 = some (.xlate 11 53 false) ∧
    decodeTableWord 32 0b11110100000000101011110101000101 = some (.probe 43 53 false true) ∧
    decodeTableWord 32 0b11110100000000001011000000001000 = some (.hrel 11) ∧
    decodeTableWord 32 0b11110100101011000101000000001100 = some (.hinfo 43 5) ∧
    decodeTableWord 32 0b11110100000000001011000000010000 = some (.hrenew 11) := by decide
theorem test_decode_sync :
    decodeTableWord 32 0b11110110000000000000000010000000 = some (.fence .die) ∧
    decodeTableWord 32 0b11110110000000101011110101000101 = some (.flush 43 53 false true) ∧
    decodeTableWord 32 0b11110110000000101011000101001000 = some (.push 43 5 false) ∧
    decodeTableWord 32 0b11110110101011000000000101001100 = some (.qroom 43 5) ∧
    decodeTableWord 32 0b11110110101011000000000101010000 = some (.wmark 43 5) ∧
    decodeTableWord 32 0b11110110000000101011000101010100 = some (.wmwait 43 5 false) ∧
    decodeTableWord 32 0b11110110101011000000000101011000 = some (.bacq 43 5) ∧
    decodeTableWord 32 0b11110110000000101011000101011100 = some (.brel 43 5 false) := by decide
theorem test_decode_sem :
    decodeTableWord 32 0b11110111000000101101011010000000 = some (.ksig 0 181 10 false) ∧
    decodeTableWord 32 0b11110111000000101101011010000100 = some (.kwait 0 181 10 false) ∧
    decodeTableWord 32 0b11110111101011101101011010001001 = some (.ktwait 43 181 10 true) ∧
    decodeTableWord 32 0b11110111101011101101010000001100 = some (.kread 43 181) ∧
    decodeTableWord 32 0b11110111101011101101010000010000 = some (.kset 43 181 false) ∧
    decodeTableWord 32 0b11110111101011000001010000010100 = some (.carv 43 5) ∧
    decodeTableWord 32 0b11110111101011000001010000011000 = some (.cwait 43 5 false) ∧
    decodeTableWord 32 0b11110111101011000001010000011100 = some (.ctwait 43 5 false) ∧
    decodeTableWord 32 0b11110111101011000001010000100000 = some (.cbset 43 5 false) := by decide
theorem test_decode_vopa :
    decodeTableWord 32 0b11111000010111010111010011100000 = some (.vadd 11 21 26 3 .f16) ∧
    decodeTableWord 32 0b11111000010111010111010011011001 = some (.vsub 11 21 26 3 .bf16) ∧
    decodeTableWord 32 0b11111000010111010111010011010010 = some (.vmul 11 21 26 3 .f32) ∧
    decodeTableWord 32 0b11111000010111010111010011100011 = some (.vfma 11 21 26 3 .f16) ∧
    decodeTableWord 32 0b11111000010111010111010011101100 = some (.vmin 11 21 26 3 .i16) ∧
    decodeTableWord 32 0b11111000010111010111010011111101 = some (.vmax 11 21 26 3 .ui8) ∧
    decodeTableWord 32 0b11111000010111010111010011111110 = some (.vsadd 11 21 26 3 .ui8) ∧
    decodeTableWord 32 0b11111000010111010111010011001111 = some (.vssub 11 21 26 3 .ui32) := by decide
theorem test_decode_vopb :
    decodeTableWord 32 0b11111001010111010111010011000000 = some (.vand 11 21 26 3) ∧
    decodeTableWord 32 0b11111001010111010111010011000001 = some (.vor 11 21 26 3) ∧
    decodeTableWord 32 0b11111001010111010111010011000010 = some (.vxor 11 21 26 3) ∧
    decodeTableWord 32 0b11111001010111010111010011110011 = some (.vshl 11 21 26 3 .i8) ∧
    decodeTableWord 32 0b11111001010111010111010011101100 = some (.vshr 11 21 26 3 .i16) ∧
    decodeTableWord 32 0b11111001010111010111010011101101 = some (.vsra 11 21 26 3 .i16) ∧
    decodeTableWord 32 0b11111001010111010100000010011110 = some (.vabs 11 21 2 .bf16) ∧
    decodeTableWord 32 0b11111001010111010100000010110111 = some (.vneg 11 21 2 .i8) := by decide
theorem test_decode_vcmp :
    decodeTableWord 32 0b11111010000111010111010011000000 = some (.vcmpeq 3 21 26 3 .i32) ∧
    decodeTableWord 32 0b11111010001111010111010011001001 = some (.vcmplt 7 21 26 3 .ui32) ∧
    decodeTableWord 32 0b11111010000011010111010011010010 = some (.vcmple 1 21 26 3 .f32) ∧
    decodeTableWord 32 0b11111010010111010111010011000011 = some (.vsel 11 21 26 3) ∧
    decodeTableWord 32 0b11111010010111010100000010000100 = some (.vmov 11 21 2) ∧
    decodeTableWord 32 0b11111010010110000010101010101101 = some (.vbcast 11 21 2 .i16) ∧
    decodeTableWord 32 0b11111010010111010111010011010110 = some (.vext 11 21 26 3 .f32) ∧
    decodeTableWord 32 0b11111010010111010111010011000111 = some (.vperm 11 21 26 3) := by decide
theorem test_decode_vspec :
    decodeTableWord 32 0b11111011010111010101010101000000 = some (.vcvt 11 21 1 .f32 5 .i32) ∧
    decodeTableWord 32 0b11111011010111010100000010010001 = some (.vrcp 11 21 2) ∧
    decodeTableWord 32 0b11111011010111010100000010010010 = some (.vrsq 11 21 2) ∧
    decodeTableWord 32 0b11111011010111010100000010010011 = some (.vexp2 11 21 2) ∧
    decodeTableWord 32 0b11111011010111010111010011111100 = some (.vlut 11 21 26 3 .ui8) ∧
    decodeTableWord 32 0b11111011010111010100100101110101 = some (.vunpk3 11 21 false 4 5) ∧
    decodeTableWord 32 0b11111011010111010111010011110110 = some (.vtacc 11 21 26 3 .i8) ∧
    decodeTableWord 32 0b11111011010111010111010011111111 = some (.vdot4 11 21 26 3 .ui8) := by decide
theorem test_decode_vmem :
    decodeTableWord 32 0b11111100010111010111010011000000 = some (.vlds 11 21 26 3) ∧
    decodeTableWord 32 0b11111100010111010111010011000001 = some (.vsts 11 21 26 3) ∧
    decodeTableWord 32 0b11111100010110010111010011000010 = some (.vldt 11 5 26 3) ∧
    decodeTableWord 32 0b11111100010110010111010011000011 = some (.vstt 11 5 26 3) ∧
    decodeTableWord 32 0b11111100010110010111010011000100 = some (.vldg 11 5 26 3) ∧
    decodeTableWord 32 0b11111100010110010111010011000101 = some (.vstg 11 5 26 3) ∧
    decodeTableWord 32 0b11111100010111010111010011000110 = some (.vgaths 11 21 26 3) ∧
    decodeTableWord 32 0b11111100010111010111010011000111 = some (.vscats 11 21 26 3) := by decide
theorem test_decode_vred :
    decodeTableWord 32 0b11111101010111010100000010000000 = some (.vrsum 11 21 2 .i32) ∧
    decodeTableWord 32 0b11111101010111010100000010010001 = some (.vrmax 11 21 2 .f32) ∧
    decodeTableWord 32 0b11111101010111010100000010001010 = some (.vrmin 11 21 2 .ui32) ∧
    decodeTableWord 32 0b11111101010111010100000010010011 = some (.vpfx 11 21 2 .f32) ∧
    decodeTableWord 32 0b11111101000110010100111000000100 = some (.vmsk 3 5 7 .and) ∧
    decodeTableWord 32 0b11111101010110010100000000000101 = some (.vpop 11 5) ∧
    decodeTableWord 32 0b11111101010111010100000010000110 = some (.vcomp 11 21 2) ∧
    decodeTableWord 32 0b11111101010110000000000101000111 = some (.viota 11 5) := by decide
theorem test_decode_mtx :
    decodeTableWord 32 0b11111110010111110101000000000000 = some (.nset 23 53 false) ∧
    decodeTableWord 32 0b11111110000000000000000000000100 = some (.nclr) ∧
    decodeTableWord 32 0b11111110000101110101000000001000 = some (.msrc 5 53 false) ∧
    decodeTableWord 32 0b11111110101011110101011010001111 = some (.mdst 43 53 26 true true) ∧
    decodeTableWord 32 0b11111110000011110101000000010000 = some (.mepi 3 53 false) ∧
    decodeTableWord 32 0b11111110000000010011000001010100 = some (.mmode 3 2 true false) ∧
    decodeTableWord 32 0b11111110001000110000101011011001 = some (.mgo .e4m3 .e5m2 .fp 43 true) ∧
    decodeTableWord 32 0b11111110000000000000000000011100 = some (.mwait) ∧
    decodeTableWord 32 0b11111110101110100101000010100010 = some (.mdrain 2 true true true false 37 true false true) ∧
    decodeTableWord 32 0b11111110000011000000000000100100 = some (.mazero 3) ∧
    decodeTableWord 32 0b11111110100110001001000000101010 = some (.mscacc 2 true false false true 9 0 true false) ∧
    decodeTableWord 32 0b11111110101011000000000000101100 = some (.mstat 43) ∧
    decodeTableWord 32 0b11111110000000101011000000110010 = some (.mlut 43 true) := by decide
theorem test_decode_ext :
    decodeTableWord 32 0b11111111101011110101000010000010 = some (.rst 43 53 .w true) ∧
    decodeTableWord 32 0b11111111101011110101000010000110 = some (.rld 43 53 .w true) ∧
    decodeTableWord 32 0b11111111101100110101001010001010 = some (.cnlaL 44 53 10 true) ∧
    decodeTableWord 32 0b11111111101110110101011010001010 = some (.cnlaI 46 53 10 true) ∧
    decodeTableWord 32 0b11111111111110110101001010001110 = some (.cnld 62 53 10 true) ∧
    decodeTableWord 32 0b11111111101010000000000101010000 = some (.cnhold 42 5) ∧
    decodeTableWord 32 0b11111111010100000000000101010100 = some (.cndrop 20 5) ∧
    decodeTableWord 32 0b11111111101011110101001010011010 = some (.rswap 43 53 10 true) ∧
    decodeTableWord 32 0b11111111111100000101001010011100 = some (.rget 60 5 10) ∧
    decodeTableWord 32 0b11111111101011110101001010100010 = some (.cnhash 43 53 10 true) ∧
    decodeTableWord 32 0b11111111101011110101011010100111 = some (.fst 43 53 26 true true) ∧
    decodeTableWord 32 0b11111111101011110101011010101011 = some (.fld 43 53 26 true true) ∧
    decodeTableWord 32 0b11111111101011110101011010101111 = some (.famo 43 53 26 true true) ∧
    decodeTableWord 32 0b11111111000000000000000000110000 = some (.ffence) ∧
    decodeTableWord 32 0b11111111101011000000000000110100 = some (.fwait 43) ∧
    decodeTableWord 32 0b11111111000000101011110101111001 = some (.glaunch 43 53 false true) := by decide
theorem test_decode_compact_1 :
    decodeTableWord 16 0b0000000000000000 = some (.cNop) ∧
    decodeTableWord 16 0b0000000100000000 = some (.cHalt) ∧
    decodeTableWord 16 0b0000001000000000 = some (.cYield) ∧
    decodeTableWord 16 0b0000001100000000 = some (.cBrk) ∧
    decodeTableWord 16 0b0001010010100000 = some (.cIf 37) ∧
    decodeTableWord 16 0b0001110010100000 = some (.cIfn 37) ∧
    decodeTableWord 16 0b0010101011110101 = some (.cMov 43 53) ∧
    decodeTableWord 16 0b0011101110110101 = some (.cAddi 11 181) ∧
    decodeTableWord 16 0b0100101011110101 = some (.cAdd 43 53) ∧
    decodeTableWord 16 0b0101101011110101 = some (.cSub 43 53) ∧
    decodeTableWord 16 0b0110101101011010 = some (.cLdsD 11 5 10) ∧
    decodeTableWord 16 0b0111101101011010 = some (.cStsD 11 5 10) ∧
    decodeTableWord 16 0b1000101101101011 = some (.cBr 2923) ∧
    decodeTableWord 16 0b1001011010110101 = some (.cKsig 107 5) ∧
    decodeTableWord 16 0b1010011010110101 = some (.cKwait 107 5) ∧
    decodeTableWord 16 0b1011000000001011 = some (.cTrel 11) := by decide
theorem test_decode_compact_2 :
    decodeTableWord 16 0b1011100000001011 = some (.cTmark 11) ∧
    decodeTableWord 16 0b1100101011110101 = some (.cShli 43 53) ∧
    decodeTableWord 16 0b1101101110110101 = some (.cLi 11 181) := by decide

/-! ### Encodings that the spec writes out -/

theorem test_encodings_at_a_glance :
    decodeTableWord 32 0xE0105180 = some (.add 4 5 6 false false) ∧ decodeTableWord 32 0xE01C8255 = some (.divs 7 8 9 false true) ∧
    decodeTableWord 32 0xE128B320 = some (.bfx 10 11 12 false false) ∧ decodeTableWord 32 0xE10C3168 = some (.shli 3 3 5 false) ∧
    decodeTableWord 32 0xE2082FFF = some (.addi 2 2 (-1)) ∧ decodeTableWord 32 0xE6080001 = some (.lui 2 1) ∧
    decodeTableWord 32 0xE70C4140 = some (.cmpeq 3 4 5 false false) ∧ decodeTableWord 32 0xE7006034 = some (.pset 6 false) ∧
    decodeTableWord 32 0xEB10518C = some (.spawn 4 5 6 false false) ∧ decodeTableWord 32 0xEBFC8004 = some (.jalr 63 8 false) ∧
    decodeTableWord 32 0xEB000014 = some .yield := by decide
theorem test_encoding_of_a_loop :
    decodeTableWord 16 0xD400 = some (.cLi 4 0) ∧ decodeTableWord 16 0xD501 = some (.cLi 5 1) ∧ decodeTableWord 16 0x4105 = some (.cAdd 4 5) ∧
    decodeTableWord 16 0x3501 = some (.cAddi 5 1) := by decide
theorem test_encoding_of_a_literal :
    (decodeBytes [0x24, 0xEC, 0x0C, 0x00, 0xEF, 0xCD, 0xAB, 0x89, 0x67, 0x45, 0x23, 0x01]).toOption = some (.lit 9 0x0123456789ABCDEF, 6) := by decide
theorem test_encodings_of_names :
    decodeTableWord 32 0xFF285448 = some (.cnlaI 10 5 1 false) ∧ decodeTableWord 32 0xFF28704C = some (.cnld 10 7 1 false) ∧
    decodeTableWord 32 0xFF280050 = some (.cnhold 10 1) ∧ decodeTableWord 32 0xFF280054 = some (.cndrop 10 1) ∧
    decodeTableWord 32 0xFF246098 = some (.rswap 9 6 2 false) ∧ decodeTableWord 32 0xFF20109C = some (.rget 8 1 2) ∧
    decodeTableWord 32 0xFF105060 = some (.cnhash 4 5 1 false) := by decide
theorem test_encodings_of_the_fabric :
    decodeTableWord 32 0xFF1051A4 = some (.fst 4 5 6 false false) ∧ decodeTableWord 32 0xFF1051A8 = some (.fld 4 5 6 false false) ∧
    decodeTableWord 32 0xFF1051AC = some (.famo 4 5 6 false false) ∧ decodeTableWord 32 0xFF000030 = some .ffence ∧
    decodeTableWord 32 0xFF1C0034 = some (.fwait 7) := by decide

/-! ### Results of the spec's worked examples -/

/-- Strand `i` of core 0 with its registers full, as `f` leaves it. -/
def strandOn (i : StrandId) (f : Strand → Strand) : State :=
  let s : State := { State.reset with turn := ⟨0, i⟩, agenda := [] }
  s.setMe (f { s.me with life := .running, full := BitVec.allOnes 64 })

/-- What the strand holds after an instruction, once a result that it waits for has come. -/
def after (i : Instr) (s : State) (p : Strand → Bool) : Bool :=
  match exec i s with
  | .next t => p (t.timers.foldl (fun s e => match e.2 with | .resultReady w _ _ f n => s.resultReady w f n | _ => s) t).me
  | _ => false

/-- The strand holds two operands in `g1` and `g2`. -/
def operands (x y : Dword) : State := strandOn .s fun z => (z.wg 1 x).wg 2 y

theorem test_add_wraps : after (.add 3 1 2 false false) (operands (BitVec.allOnes 64) 2) (fun z => z.rg 3 == 1 && z.pc == 4) = true := by decide +kernel
theorem test_divs_by_zero : after (.divs 3 1 2 false false) (operands 7 0) (fun z => z.rg 3 == BitVec.allOnes 64 && z.spr.fst == 0x100) = true := by
  decide +kernel
theorem test_bfx : after (.bfx 3 1 2 false false) (operands 0xABCD00 0x1008) (fun z => z.rg 3 == 0xABCD) = true := by decide +kernel
theorem test_bfi :
    after (.bfi 3 1 2 false false) (let s := operands 5 0x083C; s.setMe (s.me.wg 3 (BitVec.allOnes 64)))
      (fun z => z.rg 3 == 0x5FFFFFFFFFFFFFFF) = true := by decide +kernel
theorem test_lui : after (.lui 2 1) (operands 0 0) (fun z => z.rg 2 == 0x1000) = true := by decide +kernel
theorem test_trap_takes_the_program_fault :
    (match exec (.trap 5) (operands 0 0) with | .next t => !t.me.issues | _ => false) = true := by decide +kernel

/-- V with the same lanes in `v1` and in `v2`. -/
def vectors (x y : Word) : State := strandOn .v fun z => (z.wv 1 (Vector.replicate 64 x)).wv 2 (Vector.replicate 64 y)

/-- What lane 63 of `v3` and FST hold after an instruction. -/
def lane63 (i : Instr) (s : State) (x : Word) (f : Flags) : Bool := after i s fun z => (z.rv 3)[63] == x && z.spr.fst == f

theorem test_vadd_bytes_wrap : lane63 (.vadd 3 1 2 0 .i8) (vectors 0x7F 1) 0x80 0 = true := by decide +kernel
theorem test_vsadd_bytes :
    lane63 (.vsadd 3 1 2 0 .i8) (vectors 0x7F 1) 0x7F 0x20 = true ∧ lane63 (.vsadd 3 1 2 0 .ui8) (vectors 0xFF 1) 0xFF 0x20 = true := by
  refine ⟨?_, ?_⟩ <;> decide +kernel
theorem test_vfma_tie_to_even :
    lane63 (.vfma 3 1 2 0 .f16) (let s := vectors 0x1000 0x3C00; s.setMe (s.me.wv 3 (Vector.replicate 64 0x3C00))) 0x3C00 0x10 = true := by
  decide +kernel

theorem test_conversions_of_1_1 :
    FFmt.bf16.encode .rne (FFmt.fp32.decode 0x3F8CCCCD) = (0x3F8D, 0x10) ∧ FFmt.bf16.encode .rz (FFmt.fp32.decode 0x3F8CCCCD) = (0x3F8C, 0x10) ∧
    FFmt.fp16.encode .rne (FFmt.fp32.decode 0x3F8CCCCD) = (0x3C66, 0x10) ∧ FFmt.fp16.encode .ru (FFmt.fp32.decode 0x3F8CCCCD) = (0x3C67, 0x10) ∧
    encodeE4m3 .rne false (FFmt.fp32.decode 0x3F8CCCCD) = (0x39, 0x10) ∧ encodeE5m2 .rne false (FFmt.fp32.decode 0x3F8CCCCD) = (0x3C, 0x10) ∧
    encodeE2m1s .rne (FFmt.fp32.decode 0x3F8CCCCD) = (2, 0x10) := by decide +kernel
theorem test_conversion_of_500_to_e4m3 :
    encodeE4m3 .rne true (FFmt.fp32.decode 0x43FA0000) = (0x7E, 0x34) ∧ encodeE4m3 .rne false (FFmt.fp32.decode 0x43FA0000) = (0x7F, 1) := by decide +kernel
theorem test_scaled_add :
    scaledAdd 0x3F800000 0x40400000 (scaleVal true 0x7C) (scaleVal false 0x7E) = (0x40500000, 0) ∧
    scaledAdd 0x3F800000 0x40400000 (scaleVal true 0) (scaleVal false 0x7E) = (0x3F800000, 0) ∧
    scaledAdd 0x3F800000 0x7F800000 (scaleVal true 0) (scaleVal false 0x7E) = (0x7FC00000, 1) := by decide +kernel
theorem test_drain_of_an_excursion :
    reduceInt false 1500000000 = (1500000000, 0) ∧ (BitVec.ofInt 32 (reduceInt false 2500000000).1).toNat = 0x9502F900 ∧
    reduceInt true 2500000000 = (0x7FFFFFFF, 0x20) := by decide +kernel
theorem test_order_of_partials :
    (fAdd FFmt.fp32 (fAdd FFmt.fp32 0x4B800000 0x3F800000).1 0x3F800000).1 = 0x4B800000 ∧
    (fAdd FFmt.fp32 (fAdd FFmt.fp32 0x3F800000 0x3F800000).1 0x4B800000).1 = 0x4B800001 := by decide +kernel
theorem test_packed_chunk :
    packChunk [0, 0, 0, 0, 0, 7, 8, 0, 9, 0, 0, 0, 0, 0, 0, 0] =
      [0x10, 0, 7, 0] ++ leBytes 4 (crc32c [0, 0, 0, 0, 0, 7, 8, 0, 9, 0, 0, 0, 0, 0, 0, 0]).toNat ++ [4, 0x83, 7, 8, 0, 9, 6] := by decide +kernel
theorem test_crc32c : crc32c [0x31, 0x32, 0x33, 0x34, 0x35, 0x36, 0x37, 0x38, 0x39] = 0xE3069283 := by decide +kernel

/-! ### The first instruction after reset -/

theorem test_step_runs_the_word_placed :
    (match step (State.reset.withFetchWord 32 0xE6080001) with | .next t => (t.strand ⟨0, .s⟩).rg 2 == 0x1000 | _ => false) = true := by decide +kernel

end Sys2Proof.Tests
end

