-- ==== Sys2Proof/Tests/Witnesses.lean ====
section
/-!
SUPPORT. The hypotheses of each statement are met: for every clause a state and operands that meet them together, at a
boundary where the clause has one.
-/

open Sys2Proof Sys2Proof.Machine Sys2Proof.Claims

namespace Sys2Proof.Tests

set_option Elab.async false

/-! ### States of the witnesses -/

/-- Strand `i` of core 0 runs, with its `g` registers full, as `f` leaves it. -/
def on (i : StrandId) (f : Strand → Strand := id) : State :=
  let s : State := { State.reset with turn := ⟨0, i⟩, agenda := [] }
  s.setMe (f { s.me with life := .running, full := BitVec.allOnes 64 })

/-- The same with its core as `f` leaves it. -/
def core (i : StrandId) (f : Core → Core) : State := let s := on i; s.setHere (f s.here)

/-- The same with an instance on its core. -/
def within (i : StrandId) (x : Inst → Inst) (f : Strand → Strand := id) : State :=
  let s := on i f
  let y := { Inst.none with cores := [0], status := .running }
  (s.setHere { s.here with inst := some 1 }).setInst 1 (x y)

/-- An answer is a next state that has a property. -/
def went (r : Out) (p : State → Bool) : Bool :=
  match r with
  | .next t => p t
  | _ => false

/-! ### Strand instructions -/

theorem meets_IntegerResults : Ready (on .m) everyStrand [1, 63, 0] := by decide +kernel

theorem meets_DivisionsAndFields :
    (Ready (on .s (·.wg 2 1)) everyStrand [1, 2, 3] ∧ (on .s (·.wg 2 1)).me.rg 2 ≠ 0) ∧
    (Ready (on .v) everyStrand [1, 2, 0] ∧ (on .v).me.rg 2 = 0) := by decide +kernel

theorem meets_ConstantsAndCompacts (e : BitVec 4) : Ready (on .s) everyStrand [1, 2, e.setWidth 6] := by
  refine ⟨⟨by decide +kernel, by decide, by decide +kernel, ?_, rfl⟩, by decide +kernel⟩
  have h : ∀ r : GReg, (on .s).me.isFull r = true := by decide +kernel
  exact fun r _ => h r

theorem meets_ComparesAndPredicates : Ready (on .v) everyStrand [0, 63] ∧ Ready (on .v) everyStrand [63] := by decide +kernel

theorem meets_Branches : Ready (on .s) everyStrand [1, 2, 63] := by decide +kernel

theorem meets_Branches_empty_link :
    let s := on .s ({ · with full := BitVec.allOnes 64 - BitVec.ofNat 64 (2 ^ 63) })
    Begins s ∧ s.me.isFull 63 = false := by decide +kernel

theorem meets_DivisionsAndFields_empty :
    let s := on .v ({ · with full := BitVec.allOnes 64 - 2 })
    Begins s ∧ s.me.isFull 1 = false := by decide +kernel

theorem meets_ComparesAndPredicates_empty :
    let s := on .m ({ · with full := 1 })
    Begins s ∧ s.me.isFull 63 = false := by decide +kernel

theorem meets_StrandLife_spawn :
    (let s := on .s fun z => (z.wg 2 0x1FFFFFFFFFFE).wg 1 1
     Ready s [.s] [2, 3, 1] ∧ s.me.rg 1 = 1 ∧ (s.strand (spawned s 1)).life = .idle ∧ (s.me.rg 2).toNat % 2 = 0 ∧
       (s.me.rg 2).toNat < 2 ^ 45) ∧
    (let s := on .s (·.wg 1 3)
     Ready s [.s] [2, 3, 1] ∧ s.me.rg 1 ≠ 1 ∧ s.me.rg 1 ≠ 2) ∧
    (let s := (on .s (·.wg 1 2)).setStrand ⟨0, .m⟩ { (on .s).me with life := .halted }
     Ready s [.s] [2, 3, 1] ∧ s.me.rg 1 = 2 ∧ (s.strand (spawned s 2)).life ≠ .idle) ∧
    (let s := on .s fun z => (z.wg 2 0x200000000000).wg 1 2
     Ready s [.s] [2, 3, 1] ∧ s.me.rg 1 = 2 ∧ 2 ^ 45 ≤ (s.me.rg 2).toNat) := by
  refine ⟨?_, ?_, ?_, ?_⟩ <;> decide +kernel

theorem meets_StrandLife_waitstr :
    (Ready (on .s) [.s] [] ∧ Through (on .s) ⟨0, .v⟩ ∧ Through (on .s) ⟨0, .m⟩) ∧
    (let s := (on .s).setStrand ⟨0, .v⟩ (on .s).me
     Ready s [.s] [] ∧ (1#2).getLsbD 0 = true ∧ ¬Through s ⟨0, .v⟩) := by decide +kernel

theorem meets_SafePointsAndTraps :
    (let s := within .s id
     CanIssue s everyStrand [] ∧ s.myInst.preq = false ∧ s.myInst.stop = false) ∧
    (let s := within .m fun x => { x with preq := true }
     CanIssue s everyStrand [] ∧ s.myInst.preq = true) ∧
    Ready (on .v) everyStrand [] := by decide +kernel

theorem meets_SpecialRegisters :
    (Ready (on .s) everyStrand [1, 2] ∧ (9#6).toNat ≤ 18 ∧ 9#6 ≠ 14 ∧ (on .s).namesOut (on .s).turn = false) ∧
    (let s := within .s fun x => { x with priv := true }
     Ready s everyStrand [1, 2] ∧ s.myInst.priv = true) ∧
    (Ready (within .s id) everyStrand [1, 2] ∧ (within .s id).myInst.priv = false) ∧ 18 < (19#6).toNat ∧
    12#6 ∉ [5#6, 6, 7, 8, 11] := by decide +kernel

theorem meets_TileBits :
    Ready (on .m) everyStrand [1] ∧ (on .m).here.tileChanges = [] ∧ (on .m).here.frame.drain = none ∧
    ∀ q : QueueId, ((on .m).here.queue q).jobs = [] := by decide +kernel

/-! ### Memory, handles and synchronisation -/

/-- A core with a claimed write range of the scratchpad. -/
def claimed (i : StrandId) : State := core i fun c => { c with board := [{ (default : Range) with write := true, base := 16, len := 32 }] }

theorem meets_Scratchpad :
    (let s := on .s (·.wg 1 0x17FFF8)
     Ready s everyStrand [1, 2, 3, 4] ∧ SpadFits (spadOffset s 1 (0 * 8)) 8 ∧ Unclaimed s.here false 0x17FFF8 8 ∧
       Unclaimed s.here true 0x17FFF8 8 ∧ s.here.spad.wf = true) ∧
    (let s := on .s (·.wg 1 0x180000)
     Ready s everyStrand [1, 2, 3, 4] ∧ ¬SpadFits (spadOffset s 1 (0 * 1)) 1) ∧
    (let s := (claimed .v).setMe ((claimed .v).me.wg 1 40)
     Ready s everyStrand [1, 2, 3, 4] ∧ SpadFits (spadOffset s 1 (0 * 8)) 8 ∧
       ∃ r ∈ s.here.board, r.write = true ∧ 0 < r.len ∧ ¬Apart 40 8 r.base r.len) ∧
    (let s := on .s
     SpadFits (spadOffset s 4 (8 * (15#4).toNat)) 8 ∧ Unclaimed s.here true 120 8) := by
  refine ⟨?_, ?_, ?_, ?_⟩ <;> decide +kernel

/-- A handle of a 64 KiB page with a lease that runs. -/
def served (wr : Bool) : Handle := { Handle.none with state := .valid, wr := wr, psz := 0, expiry := 1 }

/-- Handle 3 of the strand. -/
def holding (i : StrandId) (h : Handle) (off : Dword) : State := on i fun z => (z.wh 3 h).wg 1 off

theorem meets_GlobalAccess_serves :
    (Ready (holding .s (served false) 0xFFF8) everyStrand [1, 2, 3] ∧ HandleServes (holding .s (served false) 0xFFF8) 3 0xFFF8 8 false) ∧
    (Ready (holding .s (served true) 0xFFFF) everyStrand [1, 2, 3] ∧ HandleServes (holding .s (served true) 0xFFFF) 3 0xFFFF 1 true) ∧
    ((Instr.amo 2 3 1 .cas .package true true).wf = true ∧ HandleServes (holding .s (served true) 8) 3 8 8 true) ∧
    (Instr.amo 2 3 1 .fadd .core true false).wf = false := by
  refine ⟨?_, ?_, ?_, ?_⟩ <;> decide +kernel

theorem meets_GlobalAccess_errors :
    (Ready (on .v (·.wg 1 1)) everyStrand [1, 2] ∧ (1#64).toNat % 2 ≠ 0) ∧
    (let s := holding .s { served true with kind := 3 } 0
     Ready s everyStrand [1, 2] ∧ (s.me.rh 3).kind = 3) ∧
    (let s := holding .s { served true with state := .resolving } 0
     Ready s everyStrand [1, 2] ∧ (s.me.rh 3).kind ≠ 3 ∧ (s.me.rh 3).state = .resolving) ∧
    (Ready (on .s) everyStrand [1, 2] ∧ ((on .s).me.rh 3).kind ≠ 3 ∧ ((on .s).me.rh 3).state = .invalid) ∧
    (let s := holding .s { served true with state := .absent } 0
     Ready s everyStrand [1, 2] ∧ (s.me.rh 3).kind ≠ 3 ∧ (s.me.rh 3).state = .absent) ∧
    (let s := holding .s (served true) 0x10000
     Ready s everyStrand [1, 2] ∧ (s.me.rh 3).state = .valid ∧ pageBytes (s.me.rh 3).psz < (s.me.rg 1).toNat + 1) ∧
    (let s := holding .s (served false) 0xFFFC
     Ready s everyStrand [1, 2] ∧ (s.me.rh 3).state = .valid ∧ (s.me.rg 1).toNat % 4 = 0 ∧
       (s.me.rg 1).toNat + 4 ≤ pageBytes (s.me.rh 3).psz ∧ (s.me.rh 3).wr = false) := by
  refine ⟨?_, ?_, ?_, ?_, ?_, ?_, ?_⟩ <;> decide +kernel

theorem meets_HandleInstructions :
    (let s := holding .s (served true) 0x1FFFFFFFFFFF
     Ready s everyStrand [1, 2, 3] ∧ (s.me.rh 3).state ≠ .resolving ∧ (s.me.rg 1).toNat < 2 ^ 45 ∧ (s.me.rh 3).state = .valid) ∧
    (let s := holding .s Handle.none 0x200000000000
     Ready s everyStrand [1, 2, 3] ∧ (s.me.rh 3).state ≠ .resolving ∧ 2 ^ 45 ≤ (s.me.rg 1).toNat ∧ (s.me.rh 3).state = .invalid) ∧
    (let s := on .s
     Ready s everyStrand [1, 2, 3] ∧ s.inFlight s.turn = false ∧ (s.me.rg 2).toNat = 0) ∧
    (let s := on .s fun z => (z.wg 1 1).wg 2 0x1FFFFFFFFFFF
     Ready s everyStrand [1, 2, 3] ∧ s.inFlight s.turn = false ∧ (s.me.rg 2).toNat ≠ 0 ∧ 2 ^ 32 < (s.me.rg 2).toNat) ∧
    (let s := on .s fun z => (z.wg 1 0x1FFFFFFFFFFF).wg 2 1
     let u := s.setMe (counted s.me)
     Ready s everyStrand [1, 2, 3] ∧ s.inFlight s.turn = false ∧ (s.me.rg 2).toNat ≠ 0 ∧ (s.me.rg 2).toNat ≤ 2 ^ 32 ∧
       (s.me.rg 1).toNat + (s.me.rg 2).toNat ≤ 2 ^ 45 ∧ (s.die (dieOf s.turn.core)).inFault = false ∧
       (probePages u (dieOf s.turn.core) s.me.spr.space 0x1FFFFFFFFFFF 65538 0x1FFFFFFFFFFF 0x200000000000).map (·.2) =
         some (some 0x1FFFFFFFFFFF)) := by
  refine ⟨?_, ?_, ?_, ?_, ?_⟩ <;> decide +kernel

/-- A context, a table of three levels and a leaf of 64 KiB at address 0, which permits stores. -/
def mapped (i : StrandId) (f : Strand → Strand := id) : State :=
  let s := on i f
  let s := { s with plat := { s.plat with ctxbase := 0x10000 } }
  (((((s.setPhys 0x10000 8 (0x40000 + 1)).setPhys 0x40000 8 (0x41000 + 1)).setPhys 0x41000 8 (0x42000 + 1)).setPhys 0x42000 8
    (2 ^ 16 * 5 + 2 ^ 6 + 4 + 2 + 1)))

theorem meets_HandleInstructions_probe :
    let s := mapped .s (·.wg 2 0x10000)
    let u := s.setMe (counted s.me)
    Ready s everyStrand [1, 2, 3] ∧ s.inFlight s.turn = false ∧ (s.me.rg 2).toNat ≠ 0 ∧ (s.me.rg 2).toNat ≤ 2 ^ 32 ∧
      (s.die (dieOf s.turn.core)).inFault = false ∧
      (probePages u (dieOf s.turn.core) s.me.spr.space 0 65538 0 0x10000).map (·.2) = some none := by
  decide +kernel

/-- A store of the strand on its way to its home. -/
def storing : State :=
  let s := holding .s (served true) 0
  s.due (sent s (served true) 3 0 8 true (.store 1))

theorem meets_FencesAndFlushes :
    (Ready (on .s) everyStrand [1, 2] ∧ (on .s).fenced (on .s).turn .package = true) ∧
    (Ready storing everyStrand [1, 2] ∧ storing.fenced storing.turn .core = false) ∧
    (let s := on .s fun z => (z.wg 1 0x200000000000).wg 2 1
     Ready s everyStrand [1, 2] ∧ (s.me.rg 2).toNat ≠ 0 ∧ 2 ^ 45 < (s.me.rg 1).toNat + (s.me.rg 2).toNat) ∧
    (let s := on .s (·.wg 1 0x200000000001)
     Ready s everyStrand [1, 2] ∧ (s.me.rg 2).toNat = 0) ∧
    (let s := on .s (·.wg 2 0x200000000000)
     Ready s everyStrand [1, 2] ∧ (s.me.rg 1).toNat + (s.me.rg 2).toNat ≤ 2 ^ 45 ∧ (s.me.rg 2).toNat ≠ 0) := by
  refine ⟨?_, ?_, ?_, ?_, ?_⟩ <;> decide +kernel

/-- A job of a queue. -/
def jobOf (id : Word) (d0 : Dword) (st : JobState) : Job :=
  { (default : Job) with id := id, sid := .s, d0 := d0, state := st, params := [], leases := [], fence := [] }

/-- Queue 0 of core 0 holds jobs. -/
def queued (i : StrandId) (xs : List Job) (next : Word) : State :=
  core i fun c => c.setQueue 0 { next := next, jobs := xs }

theorem meets_QueuesAndRings_queues :
    (let s := (queued .s [jobOf 2 0 .queued] 3).setMe ((queued .s [jobOf 2 0 .queued] 3).me.wg 1 1)
     Ready s everyStrand [1, 2] ∧ (s.here.queue 0).jobs.length ≤ 32 ∧ s.here.board.length ≤ 16 ∧
       ((s.here.queue 0).watermark - 1).toNat = 1) ∧
    (let s := queued .s [jobOf 1 0 .queued] 2
     ((s.here.queue 0).watermark - (2 : Word)).toNat = 2 ^ 32 - 1 ∧
       ¬((2 : Word) - (s.here.queue 0).watermark).toNat < ((s.here.queue 0).next - (s.here.queue 0).watermark).toNat) ∧
    (let s := queued .s [jobOf 1 0 .running] 2
     Ready s everyStrand [1, 2] ∧
       ((1 : Word) - (s.here.queue 0).watermark).toNat < ((s.here.queue 0).next - (s.here.queue 0).watermark).toNat ∧
       ∀ x ∈ (s.here.queue 0).jobs, x.state ≠ .halted) := by
  refine ⟨?_, ?_, ?_⟩ <;> decide +kernel

/-- Ring 2 of core 0. -/
def ringed (r : Ring) : State := core .s fun c => c.setRing 2 r

/-- A ring of two slots of 32 bytes at the end of the scratchpad. -/
def ringEnd (free : BitVec 12) : Ring := { desc := 0x200117FFC0, acq := 1, rel := 0, free := free }

theorem meets_QueuesAndRings_rings :
    (Ready (on .s) everyStrand [1, 2] ∧ fld (((on .s).here.ring 2).desc) 47 36 = 0) ∧
    (let r := (ringed (ringEnd 0)).here.ring 2
     fld r.desc 47 36 = 2 ∧ fld r.desc 23 0 = 0x17FFC0 ∧ fld r.desc 35 24 * 32 = 32 ∧ 0x17FFC0 + 2 * 32 ≤ 0x180000 ∧ r.free = 0) ∧
    (((ringed (ringEnd 1)).here.ring 2).free ≠ 0 ∧ ((ringed (ringEnd 1)).here.ring 2).free.toNat ≠ 2) ∧
    ((ringed (ringEnd 2)).here.ring 2).free.toNat = 2 := by
  refine ⟨?_, ?_, ?_, ?_⟩ <;> decide +kernel

/-- Semaphore 7 of core 0 holds a count. -/
def counting (i : StrandId) (n : Nat) (f : Strand → Strand := id) : State :=
  let s := on i f
  s.setHere (s.here.setSem 7 n)

theorem meets_Semaphores :
    (let s := on .s
     Ready s everyStrand [1] ∧ s.me.wait = .none ∧ amountOf s 1 0 = 0) ∧
    (let s := counting .s 65535 (·.wg 1 0xFFFF)
     Ready s everyStrand [1] ∧ s.me.wait = .none ∧ amountOf s 1 0 ≠ 0 ∧ Acquirable s 7 (amountOf s 1 0)) ∧
    (let s := counting .v 15
     Ready s everyStrand [1] ∧ s.me.wait = .none ∧ (15#4) ≠ 0 ∧ Acquirable s 7 (15#4).toNat) ∧
    (let s := counting .m 0
     Ready s everyStrand [1] ∧ s.me.wait = .none ∧ ¬Acquirable s 7 1 ∧ s.myInst.preq = false ∧ s.myInst.stop = false ∧
       (s.me.rg 1).toNat % 2 ^ 32 = 0) ∧
    (let s := counting .m 0 (·.wg 1 1)
     Ready s everyStrand [1] ∧ ¬Acquirable s 7 1 ∧ (s.me.rg 1).toNat % 2 ^ 32 ≠ 0) ∧
    (Ready (on .s ({ · with wait := .got })) everyStrand [1] ∧ (on .s ({ · with wait := .got })).me.wait = .got) ∧
    (Ready (on .s ({ · with wait := .timedOut })) everyStrand [1] ∧ (on .s ({ · with wait := .timedOut })).me.wait = .timedOut) := by
  refine ⟨?_, ?_, ?_, ?_, ?_, ?_, ?_⟩ <;> decide +kernel

theorem meets_SemaphoreCycles :
    (let s := core .s fun c => { c with signals := [{ set := false, k := 7, n := 65535, src := .strand .s }] }
     (∀ x ∈ (s.core 0).signals, x.set = false ∧ ¬HeldSignal s 0 x) ∧ (s.core 0).semWait = []) ∧
    (let s := core .s fun c => { (c.setSem 7 2) with semWait := [{ k := 7, n := 2, party := .strand .v }] }
     (s.core 0).signals = [] ∧ (s.core 0).semWait = [{ k := 7, n := 2, party := .strand .v }] ∧ 2 ≤ (s.core 0).semCount 7) ∧
    (let s := on .m ({ · with wait := .sem (some 9) })
     (s.strand ⟨0, .m⟩).wait = .sem (some 9)) := by
  refine ⟨?_, ?_, ?_⟩ <;> decide +kernel

/-- A cluster-scope instance, with barrier 3 of its cluster in a phase. -/
def barred (phase : Word) (wait : Waiting) (x : Dword) : State :=
  let s := within .s ({ · with cluster := true }) fun z => { z.wg 1 x with wait := wait }
  let k := s.cluster 0
  s.setCluster 0 { k with bars := k.bars.set 3 { phase := phase, arr := 0, n := 1 } }

theorem meets_Barriers :
    (Ready (on .s) everyStrand [1] ∧ (on .s).myInst.cluster = false) ∧
    (let s := barred 1 .none 0
     Ready s everyStrand [1] ∧ s.myInst.cluster = true ∧ s.fenced s.turn .cluster = true ∧ (s.me.rg 1).toNat % 256 = 0 ∧
       s.me.wait = .none ∧ s.myInst.preq = false ∧ s.myInst.stop = false) ∧
    (let s := (barred 1 .none 1).timer 9 (.clusterAccess ⟨0, .s⟩ 1 0 8 (some 0) 0)
     Ready s everyStrand [1] ∧ s.myInst.cluster = true ∧ s.fenced s.turn .cluster = false ∧ (s.me.rg 1).toNat % 256 ≠ 0) ∧
    (let s := barred 1 (.barrier 3 1 4 (some 8)) 1
     Ready s everyStrand [1] ∧ s.myInst.cluster = true ∧ s.me.wait = .barrier 3 1 4 (some 8) ∧ s.myInst.preq = false) ∧
    (let s := within .s ({ · with cluster := true, preq := true }) fun z => { z.wg 1 0 with wait := .barrier 3 0 4 none }
     Ready s everyStrand [1] ∧ s.myInst.cluster = true ∧ s.me.wait = .barrier 3 0 4 none ∧ s.myInst.preq = true) ∧
    (let s := barred 1 (.answered true 0) 1
     Ready s everyStrand [1] ∧ s.myInst.cluster = true ∧ s.me.wait = .answered true 0 ∧ 0 ≤ s.time.toNat) ∧
    (let s := barred 1 (.answered false 1) 1
     Ready s everyStrand [1] ∧ s.myInst.cluster = true ∧ s.me.wait = .answered false 1 ∧ s.time.toNat < 1 ∧ s.myInst.preq = false ∧
       s.myInst.stop = false) ∧
    (let s := barred 0xFFFFFFFF .none 0
     let k := s.cluster 0
     let u := s.setCluster 0 { k with ops := [{ who := ⟨0, .s⟩, bar := 3, arrive := some 1, n := 0, at_ := 0 }] }
     (u.cluster 0).ops = [{ who := ⟨0, .s⟩, bar := 3, arrive := some 1, n := 0, at_ := 0 }] ∧
       0 ≤ u.time.toNat ∧ ((u.cluster 0).bar 3).arr.toNat < 255 ∧ ((u.cluster 0).bar 3).n.toNat ≤ ((u.cluster 0).bar 3).arr.toNat + 1) ∧
    (let op : BarOp := { who := ⟨0, .s⟩, bar := 3, arrive := none, n := 5, at_ := 0 }
     let s := barred 1 .none 0
     let u := s.setCluster 0 { s.cluster 0 with ops := [op] }
     (u.cluster 0).ops = [op] ∧ op.at_ ≤ u.time.toNat) ∧
    (let op : BarOp := { who := ⟨0, .s⟩, bar := 3, arrive := some 1, n := 0, at_ := 1 }
     let s := barred 1 .none 0
     let u := s.setCluster 0 { s.cluster 0 with ops := [op] }
     ∀ x ∈ (u.cluster 0).ops, u.time.toNat < x.at_) ∧
    (let s := barred 1 (.barrier 3 0 0 (some 5)) 0
     (s.strand ⟨0, .s⟩).wait = .barrier 3 0 0 (some 5) ∧ clusterOf 0 = 0 ∧ PhaseDone ((s.cluster 0).bar 3) 0) := by
  refine ⟨?_, ?_, ?_, ?_, ?_, ?_, ?_, ?_, ?_, ?_, ?_⟩ <;> decide +kernel

theorem meets_Barriers_more :
    let s := within .s ({ · with cluster := true })
    let k := s.cluster 0
    let u := s.setCluster 0 { k with
      bars := k.bars.set 3 { phase := 0, arr := 253, n := 255 },
      ops := [{ who := ⟨0, .s⟩, bar := 3, arrive := some 0, n := 0, at_ := 0 }] }
    (u.cluster 0).ops = [{ who := ⟨0, .s⟩, bar := 3, arrive := some 0, n := 0, at_ := 0 }] ∧
      ((u.cluster 0).bar 3).arr.toNat + 1 < ((u.cluster 0).bar 3).n.toNat := by decide +kernel

theorem meets_Scratchpad_flushes :
    let s := on .s fun z => { z.wg 1 0x17FFF8 with flushes := [(0, 0, 8, 0)] }
    Ready s everyStrand [1, 2, 3, 4] ∧ s.here.spad.wf = true ∧ SpadFits (spadOffset s 1 (0 * 8)) 8 ∧ Unclaimed s.here true 0x17FFF8 8 ∧
      s.me.flushes ≠ [] ∧ (on .s).me.flushes = [] ∧ SpadFits (spadOffset s 4 (8 * (15#4).toNat)) 8 ∧ Unclaimed s.here true 120 8 := by
  decide +kernel

/-- A handle whose lease has just ended, of the page at 0. -/
def ended (wr : Bool) : Handle := { served wr with expiry := 0 }

theorem meets_GlobalAccess_renews :
    (let s := (holding .s (ended true) 0xFFF8).setDie 0 { (on .s).die 0 with inFault := true }
     let u := s.setMe (counted s.me)
     Ready s everyStrand [1, 2, 3] ∧ HandleFits s 3 0xFFF8 8 true ∧ ¬LeaseRuns s (s.me.rh 3) ∧ u.walkStalls 0 0 0 = true) ∧
    (let s := mapped .s fun z => (z.wh 3 (ended true)).wg 1 0xFFF8
     let u := s.setMe (counted s.me)
     let f := (u.walk 0 0 0).2.found
     Ready s everyStrand [1, 2, 3] ∧ HandleFits s 3 0xFFF8 8 true ∧ ¬LeaseRuns s (s.me.rh 3) ∧ u.walkStalls 0 0 0 = false ∧ f.isSome = true ∧
       ∀ x ∈ f.toList, LeaseServes x.1 0xFFF8 8 true) ∧
    (let s := holding .s (ended true) 0xFFF8
     let u := s.setMe (counted s.me)
     Ready s everyStrand [1, 2, 3] ∧ HandleFits s 3 0xFFF8 8 true ∧ ¬LeaseRuns s (s.me.rh 3) ∧ u.walkStalls 0 0 0 = false ∧
       (u.walk 0 0 0).2.found = none) ∧
    (let s := (mapped .s fun z => (z.wh 3 (ended true)).wg 1 0xFFF8).setPhys 0x42000 8 (2 ^ 16 * 5 + 2 ^ 6 + 4 + 1)
     let u := s.setMe (counted s.me)
     Ready s everyStrand [1, 2, 3] ∧ HandleFits s 3 0xFFF8 8 true ∧ ¬LeaseRuns s (s.me.rh 3) ∧ u.walkStalls 0 0 0 = false ∧
       ((u.walk 0 0 0).2.found.map fun x => x.1.wr) = some false) := by
  refine ⟨?_, ?_, ?_, ?_⟩ <;> decide +kernel

theorem meets_GlobalAccess_empty :
    (let s := on .s ({ · with full := BitVec.allOnes 64 - 2 })
     Begins s ∧ (Instr.amo 2 3 1 .fadd .package false true).wf = true ∧ s.me.isFull 1 = false) ∧
    (let s := on .s ({ · with full := BitVec.allOnes 64 - 4 })
     Begins s ∧ s.me.isFull 1 = true ∧ s.me.isFull 2 = false) := by decide +kernel

theorem meets_GlobalAccess_exact :
    let s := holding .s (served true) 0xFFFFFFFFFFFFFFF8
    Ready s everyStrand [1, 2] ∧ ((s.me.rg 1).toNat + (1#6).toNat * 8) % 8 = 0 ∧ (s.me.rh 3).kind ≠ 3 ∧ (s.me.rh 3).state = .valid ∧
      pageBytes (s.me.rh 3).psz < (s.me.rg 1).toNat + (1#6).toNat * 8 + 8 := by decide +kernel

theorem meets_HandleInstructions_waits :
    (let s := (on .s (·.wg 2 1)).setDie 0 { (on .s).die 0 with inFault := true }
     let u := s.setMe (counted s.me)
     Ready s everyStrand [1, 2, 3] ∧ s.inFlight s.turn = false ∧ (s.me.rg 2).toNat = 1 ∧ (probePages u 0 0 0 65538 0 1).isNone = true) ∧
    (let s := storing
     Ready s everyStrand [1, 2, 3] ∧ s.inFlight s.turn = true) ∧
    (let s := holding .s { served true with state := .resolving } 0
     (s.me.rh 3).state = .resolving) := by
  refine ⟨?_, ?_, ?_⟩ <;> decide +kernel

theorem meets_Semaphores_held :
    let x : Signal := { set := false, k := 9, n := 1, src := .strand .m }
    let s := counting .s 3
    let s := s.setHere { s.here with signals := [x], frame := { s.here.frame with drain := some default } }
    Ready s everyStrand [1] ∧ HeldSignal s s.turn.core x ∧ Acquirable s 7 3 := by decide +kernel

/-! ### The vector unit -/

theorem meets_VectorIntegers :
    VReady (on .v) [] [1, 2, 31] ∧ (∀ t ∈ [VType.i32, .ui32, .i16, .i8, .ui8], IntegerType t) ∧
    ∀ t ∈ [VType.i32, .i16, .i8], IntegerType t := by decide +kernel

theorem meets_VectorArithmetic :
    VReady (on .v) [] [1, 2, 31] ∧ VType.float .f32 = some .fp32 ∧ VType.float .bf16 = some .bf16 ∧
      VType.float .f16 = some .fp16 ∧ vcvtLegal 3 .i8 .i32 = true ∧ vcvtLegal 0 .f32 .i8 = true ∧
      vcvtLegal 1 .bf16 .f32 = true := by decide +kernel

/-- V with one lane of `v1` and its `g1`. -/
def lanes (x : Word) (g : Dword) (f : Strand → Strand := id) : State :=
  on .v fun z => f ((z.wv 1 (Vector.replicate 64 x)).wg 1 g)

theorem meets_VectorMovesAndTables :
    VReady (on .v) [31, 0] [1, 2, 3] ∧
    (let s := lanes 0 0x17FC00
     VReady s [1] [2, 1] ∧ 0x17FC00 % 1024 = 0 ∧ 0x17FC00 + 1024 ≤ 0x180000 ∧ Unclaimed s.here false 0x17FC00 1024) ∧
    (let s := lanes 0 0x17FF00
     VReady s [1] [2, 1] ∧ 0x17FF00 % 256 = 0 ∧ 0x17FF00 + 256 ≤ 0x180000 ∧ Unclaimed s.here false 0x17FF00 256 ∧
       0x17FF00 % 1024 ≠ 0) ∧
    (let s := lanes 0xF2F2F2F2 0
     let wrong (q : Nat) : Bool := (lit s 0 (5 * q / 4) || lit s 0 ((5 * q + 4) / 4)) && decide (242 < byteAt s 1 (51 * 4 + q))
     VReady s [0] [2, 1] ∧ (4#3).toNat ≤ 4 ∧ (List.range 51).countP wrong = 0) ∧
    (let s := lanes 0xF3F3F3F3 0 fun z => { z with spr := { z.spr with vc := 1 } }
     let wrong (q : Nat) : Bool := (lit s 0 (5 * q / 4) || lit s 0 ((5 * q + 4) / 4)) && decide (242 < byteAt s 1 q)
     VReady s [0] [2, 1] ∧ (List.range 51).countP wrong = 1) := by
  refine ⟨?_, ?_, ?_, ?_, ?_⟩ <;> decide +kernel

theorem meets_ReductionsAndMasks : VReady (on .v) [31] [1, 2] ∧ VReady (on .v) [31, 0] [1, 2] ∧ (7#3) ≠ 0 := by decide +kernel

/-- V with tile 15 full. -/
def tiled (g : Dword) : State := let s := lanes 0 g; s.setHere { s.here with tileFull := 0x8000 }

theorem meets_VectorAccess :
    (let s := lanes 0 0x17FE00
     VReady s [1] [2, 3] ∧ s.here.spad.wf = true ∧ s.here.tiles.wf = true ∧ rowAt s 1 1 = 0x17FF00 ∧
       Unclaimed s.here true 0x17FF00 256 ∧ Unclaimed s.here false 0x17FF00 256) ∧
    (let s := lanes 0 0x17FF04
     VReady s [1] [2, 3] ∧ ¬(rowAt s 1 0 % 4 = 0 ∧ rowAt s 1 0 + 256 ≤ 0x180000)) ∧
    (VReady (tiled 63) [1] [2, 3] ∧ (tiled 63).here.tfull 15 = true ∧ ((tiled 63).me.rg 1).toNat < 64) ∧
    ((tiled 64).here.tfull 15 = true ∧ 64 ≤ ((tiled 64).me.rg 1).toNat) ∧
    ((tiled 63).here.tfull 14 = false ∧ ((tiled 63).me.rg 1).toNat < 64) ∧
    (let s := lanes 0 0x17FFFC
     VReady s [1] [2, 3] ∧ (s.me.rg 1).toNat % 4 = 0 ∧ (∀ l : Fin 64, wordAt s 1 2 l + 4 ≤ 0x180000) ∧
       ∀ l : Fin 64, Unclaimed s.here true (wordAt s 1 2 l) 4) := by
  refine ⟨?_, ?_, ?_, ?_, ?_, ?_⟩ <;> decide +kernel

theorem meets_VectorAccess_global :
    (VReady (lanes 0 2) [1] [1] ∧ ((lanes 0 2).me.rg 1).toNat % 4 ≠ 0) ∧
    (let s := lanes 0 4 fun z => { z with spr := { z.spr with vc := 0 } }
     VReady s [1] [1] ∧ (s.me.rg 1).toNat % 4 = 0 ∧ ¬∃ l : Fin 64, lit s 0 l.val = true) ∧
    (let s := lanes 0 0xFF00 (·.wh 3 (served true))
     VReady s [1] [1] ∧ (∃ l : Fin 64, lit s 0 l.val = true) ∧
       ∀ l : Fin 64, lit s 0 l.val = true → HandleServes s 3 (0xFF00 + 4 * l.val) 4 true) ∧
    (let s := lanes 0 0xFF00 (·.wh 3 (served false))
     ∀ l : Fin 64, lit s 0 l.val = true → HandleServes s 3 (0xFF00 + 4 * l.val) 4 false) ∧
    (let s := on .v ({ · with vload := [(64 * 2 + 63, 7)] })
     ∀ i, i < 64 → (0x8000000000000000#64).getLsbD i = true →
       (Table.find (s.strand ⟨0, .v⟩).vload (64 * (2#5).toNat + i)).isSome = true) := by
  refine ⟨?_, ?_, ?_, ?_, ?_⟩ <;> decide +kernel

/-- Strand V with a claimed write range at the end of the scratchpad. -/
def claimedEnd (f : Strand → Strand) : State :=
  let s := lanes 0 0x17FF00 f
  s.setHere { s.here with board := [{ (default : Range) with write := true, base := 0x17FFFF, len := 1 }] }

theorem meets_VectorAccess_waits :
    (let s := claimedEnd id
     VReady s [1] [2, 3] ∧ s.here.spad.wf = true ∧ s.here.tiles.wf = true ∧ rowAt s 1 0 = 0x17FF00 ∧ Claimed s.here false 0x17FF00 256 ∧
       Claimed s.here true 0x17FF00 256) ∧
    (let s := lanes 0 0x17FF00 ({ · with flushes := [(0, 0, 8, 0)] })
     VReady s [1] [2, 3] ∧ rowAt s 1 0 + 256 ≤ 0x180000 ∧ Unclaimed s.here true 0x17FF00 256 ∧ s.me.flushes ≠ []) ∧
    ((tiled 64).here.tfull 14 = false ∧ (tiled 64).me.flushes = [] ∧ 64 ≤ ((tiled 64).me.rg 1).toNat ∧ VReady (tiled 64) [1] [2, 3]) ∧
    (let s := claimedEnd (fun z => (z.wg 1 0x17FFFC))
     VReady s [1] [2, 3] ∧ (s.me.rg 1).toNat % 4 = 0 ∧ (∀ l : Fin 64, wordAt s 1 2 l + 4 ≤ 0x180000) ∧
       (∀ b, ∃ l : Fin 64, lit s 0 l.val = true ∧ Claimed s.here b (wordAt s 1 2 l) 4)) ∧
    (let s := lanes 0 2
     VReady s [1] [2, 3] ∧ ¬(s.me.rg 1).toNat % 4 = 0) ∧
    (let s := lanes 0 0x180000
     VReady s [1] [2, 3] ∧ ¬∀ l : Fin 64, lit s 0 l.val = true → wordAt s 1 2 l + 4 ≤ 0x180000) := by
  refine ⟨?_, ?_, ?_, ?_, ?_, ?_⟩ <;> decide +kernel

/-- Strand V with handle 3 and lane 63 alone active. -/
def lastLane (h : Handle) (off : Dword) : State :=
  lanes 0 off fun z => (z.wh 3 h).wm 1 0x8000000000000000

/-- Lane 63 is the first active lane under mask 1. -/
abbrev LastFirst (s : State) : Prop := lit s 1 63 = true ∧ ∀ j : Fin 64, j < 63 → lit s 1 j.val = false

theorem meets_VectorAccess_failing :
    (let s := lastLane { served true with kind := 3 } 0
     VReady s [1] [1] ∧ LastFirst s ∧ (s.me.rh 3).kind = 3) ∧
    (let s := lastLane Handle.none 0
     VReady s [1] [1] ∧ LastFirst s ∧ (s.me.rh 3).kind ≠ 3 ∧ (s.me.rh 3).state = .invalid) ∧
    (let s := lastLane { served true with state := .absent } 0
     VReady s [1] [1] ∧ LastFirst s ∧ (s.me.rh 3).kind ≠ 3 ∧ (s.me.rh 3).state = .absent) ∧
    (let s := lastLane { served true with state := .resolving } 0
     VReady s [1] [1] ∧ LastFirst s ∧ (s.me.rh 3).kind ≠ 3 ∧ (s.me.rh 3).state = .resolving) ∧
    (let s := lastLane (served false) 0xFF00
     VReady s [1] [1] ∧ LastFirst s ∧ (s.me.rh 3).kind ≠ 3 ∧ (s.me.rh 3).state = .valid ∧ 0xFF00 + 4 * 63 + 4 ≤ pageBytes (s.me.rh 3).psz ∧
       (s.me.rh 3).wr = false) ∧
    (let s := lastLane (served true) 0xFFFFFFFFFFFFFFFC
     VReady s [1] [1] ∧ LastFirst s ∧ (s.me.rg 1).toNat % 4 = 0 ∧ pageBytes (s.me.rh 3).psz < (s.me.rg 1).toNat + 4 * 63 + 4) ∧
    (let s := lanes 0 0xFF04 (·.wh 3 (served true))
     VReady s [1] [1] ∧ lit s 0 63 = true ∧ pageBytes (s.me.rh 3).psz < 0xFF04 + 4 * 63 + 4 ∧
       ∀ j : Fin 63, HandleServes s 3 (0xFF04 + 4 * j.val) 4 true) := by
  refine ⟨?_, ?_, ?_, ?_, ?_, ?_, ?_⟩ <;> decide +kernel

theorem meets_VectorAccess_renews :
    let s : State := { mapped .v fun z => ((z.wh 3 (ended true)).wg 1 0xFF00) with time := 0 }
    let u := s.setMe (counted s.me)
    let f := (u.walk 0 0 0).2.found
    VReady s [1] [1] ∧ (∃ l : Fin 64, lit s 0 l.val = true) ∧ ¬LeaseRuns s (s.me.rh 3) ∧ u.walkStalls 0 0 0 = false ∧ f.isSome = true ∧
      (∀ x ∈ f.toList, LeaseRuns s (Handle.ofLease x.1 x.2) ∧ ∀ l : Fin 64, LeaseServes x.1 (0xFF00 + 4 * l.val) 4 true) ∧
      ∀ l : Fin 64, HandleFits s 3 (0xFF00 + 4 * l.val) 4 true := by decide +kernel

theorem meets_VectorAccess_arrivals :
    (let s := within .v ({ · with status := .terminated })
     (s.instOn 0).status = .terminated ∧ (Table.find (s.strand ⟨0, .v⟩).vload (64 * (2#5).toNat + 63)).isSome = false) ∧
    (let s := on .v
     (s.instOn 0).status ≠ .terminated ∧ (0x8000000000000000#64).getLsbD 63 = true ∧
       ¬(Table.find (s.strand ⟨0, .v⟩).vload (64 * (2#5).toNat + 63)).isSome = true) := by
  refine ⟨?_, ?_⟩ <;> decide +kernel

/-! ### The matrix strand and the frame -/

/-- The frame of core 0. -/
def frame (f : Frame → Frame) (g : Strand → Strand := id) : State :=
  let s := on .m g
  s.setHere { s.here with frame := f s.here.frame }

theorem meets_MatrixInstructions_table :
    (Ready (on .m) [.m] [1, 2, 3] ∧ Undrained (on .m) ∧ (23#6).toNat ≤ 23 ∧ 24 ≤ (24#6).toNat ∧ (5#6).toNat ≤ 5 ∧
      (4#3).toNat ≤ 4 ∧ (2#2).toNat ≤ 2) ∧
    (let s := frame ({ · with mlut := some 0 })
     Ready s [.m] [1, 2, 3] ∧ ¬Undrained s ∧ Unclaimed (s.core 0) false 0 2048 ∧ (s.core 0).frame.mlut = some 0) ∧
    (let s := on .m (·.wg 1 0x17F800)
     (frameOf s).mlut = none ∧ (s.me.rg 1).toNat % 2 ^ 32 % 8 = 0 ∧ (s.me.rg 1).toNat % 2 ^ 32 + 2048 ≤ 0x180000) ∧
    (let s := on .m (·.wg 1 0x17F808)
     Ready s [.m] [1, 2, 3] ∧ 0x180000 < (s.me.rg 1).toNat % 2 ^ 32 + 2048) := by
  refine ⟨?_, ?_, ?_, ?_⟩ <;> decide +kernel

theorem meets_MatrixInstructions_jobs :
    (Ready (on .m) [.m] [1, 2] ∧ (Instr.mgo .e4m3 .int8 .fp 1 false).wf = false) ∧
    ((Instr.mgo .e4m3 .e5m2 .fp 1 false).wf = true ∧ (frameOf (on .m)).job = none ∧ (frameOf (on .m)).drain = none ∧
      Nest.ok (frameOf (on .m)).shadow .e4m3 .e5m2 .fp = true) ∧
    ((Instr.mgo .e4m3 .e5m2 .fps 1 false).wf = true ∧ Nest.ok (frameOf (on .m)).shadow .e4m3 .e5m2 .fps = false) ∧
    (let s := frame ({ · with job := some default })
     Ready s [.m] [1, 2] ∧ (frameOf s).job ≠ none ∧ s.myInst.preq = false ∧ s.myInst.stop = false) := by
  refine ⟨?_, ?_, ?_, ?_⟩ <;> decide +kernel

/-- A drain of tile 3 of the deck to tile 5, at its last row. -/
def draining : Drain := { (default : Drain) with deck := 3, tile := some 5, row := 63 }

theorem meets_MatrixInstructions_deck :
    (let s := on .m (·.wg 1 0x17FF80)
     Ready s [.m] [1, 2] ∧ (frameOf s).drain = none ∧ (frameOf s).job = none ∧ Rising s.here.deck ∧
       (Instr.mscacc 3 false true false false 1 2 false false).wf = true ∧ (s.me.rg 1).toNat % 2 ^ 32 % 2 = 0 ∧
       (s.me.rg 1).toNat % 2 ^ 32 + 128 ≤ 0x180000 ∧ Unclaimed s.here false 0x17FF80 128 ∧ Unclaimed s.here false 0 128) ∧
    (let s := on .m (·.wg 1 0x17FF82)
     Ready s [.m] [1, 2] ∧ ¬((s.me.rg 1).toNat % 2 ^ 32 + 128 ≤ 0x180000)) ∧
    (Instr.mscacc 3 false true true false 1 2 false false).wf = false ∧
    (let s := frame ({ · with drain := some draining })
     Ready s [.m] [1, 2] ∧ (frameOf s).drain ≠ none) := by
  refine ⟨?_, ?_, ?_, ?_⟩ <;> decide +kernel

theorem meets_DrainRows :
    (Ready (on .m) [.m] [1] ∧ (Instr.mdrain 0 true false false false 1 false true false).wf = false) ∧
    (let s := on .m
     (Instr.mdrain 0 false false true false 15 false false false).wf = true ∧ (frameOf s).drain = none ∧ (frameOf s).job = none ∧
       (frameOf s).mlut = none ∧ s.here.tfull 15 = false ∧ DrainFits s false false false 15) ∧
    (let s := frame (fun f => { f with shadow := f.shadow.set 38 256 }) (·.wg 1 0x17C000)
     Ready s [.m] [1] ∧ (Instr.mdrain 0 true false false false 1 true true false).wf = true ∧ DrainFits s true false false 1) ∧
    (let s := frame (fun f => { f with shadow := f.shadow.set 38 256 }) (·.wg 1 0x17C020)
     Ready s [.m] [1] ∧ ¬DrainFits s true false false 1) ∧
    (let s := on .m
     (s.setHere { s.here with tileFull := 0x8000 }).here.tfull 15 = true) ∧
    (let s := frame ({ · with drain := some draining })
     (s.core 0).frame.drain = some draining ∧ draining.tile = some 5 ∧ draining.quant = false ∧ (s.core 0).tiles.wf = true ∧
       draining.row < 64 ∧ draining.bias = false ∧ draining.act = false) := by
  refine ⟨?_, ?_, ?_, ?_, ?_, ?_⟩ <;> decide +kernel

/-- Core 0 of a running instance has frame job `j` under table `t`. -/
def job (j : FrameJob) (t : Vector Dword 48 := nestReset) (f : Core → Core := id) : State :=
  let s := within .m id
  s.setHere (f { s.here with frame := { s.here.frame with active := t, job := some j } })

/-- A job that has not begun. -/
def newJob (st : JobState) : FrameJob := { (default : FrameJob) with state := st, vc := 64, id := 1 }

theorem meets_FrameWork_begin :
    (let s := job (newJob .queued)
     (s.core 0).frame.job = some (newJob .queued) ∧ Nest.wen (s.core 0).frame.active = false ∧ (s.core 0).inst = some 1 ∧
       (s.getInst 1).status = .running ∧ (s.getInst 1).preq = false ∧ (s.getInst 1).stop = false) ∧
    (let t := nestReset.set 34 (2 ^ 16 + 2 ^ 8 + 7)
     let s := job (newJob .queued) t (·.setSem 7 1)
     Nest.wen t = true ∧ Nest.wamt t ≠ 0 ∧ Nest.wamt t ≤ (s.core 0).semCount (Nest.wsem t) ∧ (s.core 0).semWait = [] ∧
       (s.core 0).signals = []) ∧
    (Nest.steps nestReset ≠ 0 ∧ (Nest.operand nestReset false).loc ≠ 1 ∧ (Nest.operand nestReset true).loc ≠ 1) ∧
    Nest.steps (nestReset.set 0 0) = 0 ∧
    ({ newJob .awaitLeave with units := 1 } : FrameJob).units ≠ 0 := by
  refine ⟨?_, ?_, ?_, ?_, ?_⟩ <;> decide +kernel

/-- What a job of one step runs. -/
def newRun : FrameRun := { (default : FrameRun) with limit := 1 }

theorem meets_FrameWork_step :
    let j := { newJob .running with run := some newRun }
    let s := job j
    let t := nestReset
    Runs s 0 j newRun ∧ newRun.fault = none ∧ newRun.limit = Nest.steps t ∧ Unfinished s 0 newRun none ∧ j.step < newRun.limit ∧
      newRun.loaded = j.step * Nest.chunks t ∧ newRun.loaded < newRun.oldest + Nest.window t ∧
      Nest.rangeFault t j.fa j.fb j.vc j.step = none := by
  decide +kernel

theorem meets_FrameWork_lanes :
    (let t := nestReset.set 32 (nestReset[32] + 128)
     let r := { newRun with lanes := newRun.lanes.set 63 { newRun.lanes[63] with item := some default } }
     let s := job { newJob .running with run := some r } t
     Runs s 0 { newJob .running with run := some r } r ∧ r.lanes[63].item = some default ∧ Nest.home t = true ∧
       r.rods[63].length < 64) ∧
    (let r := { newRun with loaded := 1 }
     let j := { newJob .running with run := some r, vc := 0, step := 1 }
     let s := job j
     Runs s 0 j r ∧ r.lanes[63].item = none ∧ j.vc ≤ 63 ∧ Unfinished s 0 r (some 63) ∧ r.lanes[63].next < r.loaded ∧
       r.lanes[63].next < r.oldest + Nest.window nestReset ∧ r.lanes[63].next < r.limit * Nest.chunks nestReset) ∧
    (let r := { newRun with loaded := 1 }
     let j := { newJob .running with run := some r, step := 1 }
     let s := job j
     Runs s 0 j r ∧ Unfinished s 0 r none ∧ r.loaded < r.oldest + Nest.window nestReset ∧
       r.loaded < min j.step r.limit * Nest.chunks nestReset ∧ (∀ x ∈ s.chunkRows 0 j r.loaded, x.long = false) ∧
       (Nest.operand nestReset true).mcast = 0 ∧ (Nest.operand nestReset true).loc ≠ 2) ∧
    (let t := nestReset.set 30 16
     let r := { newRun with loaded := 1 }
     let j := { newJob .running with run := some r, step := 1 }
     let s := job j t
     Runs s 0 j r ∧ Unfinished s 0 r none ∧ r.loaded < r.oldest + Nest.window t ∧
       r.loaded < min j.step r.limit * Nest.chunks t ∧ (∀ x ∈ s.chunkRows 0 j r.loaded, x.long = false) ∧
       (Nest.operand t true).mcast ≠ 0 ∧ (Nest.operand t true).loc ≠ 2 ∧ j.left.getLsbD (coreInCluster 0) = false ∧
       s.group 0 j = [0]) ∧
    ({ newRun with mcTil := some 9 } : FrameRun).mcTil = some 9 := by
  refine ⟨?_, ?_, ?_, ?_, ?_⟩ <;> decide +kernel

/-- A chunk's item for row 63. -/
def item (parts : List (Nat × Int)) : FrameItem := { (default : FrameItem) with row := 63, parts := parts, ks := [(0, 1)], present := 1 }

theorem meets_FrameResults :
    (let r := { newRun with rods := newRun.rods.set 2 [item []] }
     let j := { newJob .running with run := some r }
     let s := { job j with time := 1 }
     Runs s 0 j r ∧ r.rods[2] = [item []] ∧ (item []).at_ < s.time.toNat ∧ r.busyTil[2] ≤ s.time.toNat ∧
       ∀ x ∈ r.net, x.rod = 2 → s.time.toNat < x.at_) ∧
    (let r := { newRun with net := [item [(63, 5)]] }
     let j := { newJob .running with run := some r }
     let t := nestReset.set 32 18
     let s := job j t
     Runs s 0 j r ∧ r.net = [item [(63, 5)]] ∧ (item [(63, 5)]).at_ ≤ s.time.toNat ∧ (item [(63, 5)]).row < 64 ∧
       (item [(63, 5)]).parts = [(63, 5)] ∧ Nest.ordered t = false ∧ Unfinished s 0 r none) ∧
    (let r := { newRun with net := [{ item [] with seq := 1 }] }
     let j := { newJob .running with run := some r }
     Runs (job j) 0 j r ∧ Nest.ordered nestReset = true ∧ 1 ≠ r.added[63]! ∧ r.buffer.length < 16) ∧
    (let e : JobEnd := { status := .ok, cause := 0, addr := 0, detail := 0, flags := 0, drop := 0 }
     let j := { newJob .running with ending := some e }
     ((job j).core 0).frame.job = some j ∧ j.ending = some e) ∧
    (let s := (job (newJob .awaitSem)).setInst 1 { (job (newJob .awaitSem)).getInst 1 with status := .terminated }
     (s.core 0).frame.job = some (newJob .awaitSem) ∧ (newJob .awaitSem).ending = none ∧ (newJob .awaitSem).run = none ∧
       (s.core 0).inst = some 1 ∧ (s.getInst 1).status = .terminated) ∧
    (let s := (job (newJob .awaitSem)).setInst 1 { (job (newJob .awaitSem)).getInst 1 with status := .suspended }
     (s.core 0).inst = some 1 ∧ (s.getInst 1).status = .suspended) := by
  refine ⟨?_, ?_, ?_, ?_, ?_, ?_⟩ <;> decide +kernel

theorem meets_MatrixInstructions_busy :
    (let s := frame ({ · with drain := some draining })
     Ready s [.m] [1, 2, 3] ∧ ¬Undrained s ∧ ¬FrameIdle s ∧ (frameOf s).job = none ∧ s.myInst.preq = false ∧ s.myInst.stop = false) ∧
    (let s := frame ({ · with deckOp := some (3, 1) })
     Ready s [.m] [1, 2] ∧ (frameOf s).deckOp ≠ none ∧ (s.core 0).frame.deckOp = some (3, 1) ∧ ¬FrameIdle s) ∧
    (let s := on .m (·.wg 1 1)
     Ready s [.m] [1, 2, 3] ∧ (frameOf s).mlut = none ∧ (s.me.rg 1).toNat % 2 ^ 32 % 8 ≠ 0) ∧
    (Ready (on .m) [.m] [1, 2] ∧ FrameIdle (on .m) ∧ (frameOf (on .m)).job = none ∧ (frameOf (on .m)).deckOp = none) ∧
    (Instr.mscacc 3 false true false false 1 2 false false).wf = true := by
  refine ⟨?_, ?_, ?_, ?_, ?_⟩ <;> decide +kernel

theorem meets_DrainRows_waits :
    (let s := on .m
     let s := s.setHere { s.here with tileFull := 0x8000 }
     Ready s [.m] [] ∧ (Instr.mdrain 0 false false true false 15 false false false).wf = true ∧ (frameOf s).drain = none ∧
       (frameOf s).deckOp = none ∧ (frameOf s).job = none ∧ (frameOf s).mlut = none ∧ s.here.tfull 15 = true) ∧
    (on .m).here.frame.deckOp = none := by
  refine ⟨?_, ?_⟩ <;> decide +kernel

theorem meets_FrameWork_dead :
    (let r := { newRun with loaded := 1, lanes := newRun.lanes.set 63 { newRun.lanes[63] with dead := true } }
     let j := { newJob .running with run := some r, step := 1 }
     let s := job j
     Runs s 0 j r ∧ r.lanes[63].item = none ∧ Unfinished s 0 r (some 63) ∧ (Nest.operand nestReset false).loc ≠ 2 ∧ r.lanes[63].dead = true ∧
       r.lanes[63].next < r.loaded ∧ r.lanes[63].next < r.oldest + Nest.window nestReset ∧ r.lanes[63].next < r.limit * Nest.chunks nestReset) ∧
    (let row : BRow := { (default : BRow) with long := true }
     let r := { newRun with loaded := 1, window := [(0, [row])] }
     let j := { newJob .running with run := some r, step := 1 }
     let s := job j
     Runs s 0 j r ∧ r.lanes[63].item = none ∧ Unfinished s 0 r (some 63) ∧ r.lanes[63].dead = false ∧
       (∃ x ∈ r.window, x.1 = r.lanes[63].next ∧ ∃ row ∈ x.2, row.long = true)) := by
  refine ⟨?_, ?_⟩ <;> decide +kernel

theorem meets_FrameResults_ends :
    (let j := { newJob .running with run := some newRun }
     let s := (job j).setInst 1 { (job j).getInst 1 with status := .terminated }
     (s.core 0).frame.job = some j ∧ j.ending = none ∧ j.run ≠ none ∧ (s.core 0).inst = some 1 ∧ (s.getInst 1).status = .terminated) ∧
    ((newJob .awaitSem).step = 0 ∧ ({ newJob .awaitTile with step := 1 } : FrameJob).step ≠ 0) := by
  refine ⟨?_, ?_⟩ <;> decide +kernel

/-! ### Neighbours and content names -/

theorem meets_ClusterAccesses :
    (let s := within .s id (·.wg 1 0x100000000)
     Ready s everyStrand [1, 2] ∧ ¬Names s (s.me.rg 1)) ∧
    (let s := within .s id (·.wg 1 0x180000)
     Ready s everyStrand [1, 2] ∧ Names s (s.me.rg 1) ∧ ¬SpadFits (fld (s.me.rg 1) 31 0) 1) ∧
    (let s := within .s id (·.wg 1 0x17FFF8)
     Ready s everyStrand [1, 2] ∧ Names s (s.me.rg 1) ∧ SpadFits (fld (s.me.rg 1) 31 0) 8 ∧ s.clusterOut s.turn < 16) ∧
    (let s := (within .s id).dueAll (List.replicate 16 (.clusterAccess ⟨0, .s⟩ 0 0 8 Option.none 1))
     Ready s everyStrand [1, 2] ∧ Names s (s.me.rg 1) ∧ SpadFits (fld (s.me.rg 1) 31 0) 8 ∧ 16 ≤ s.clusterOut s.turn) ∧
    (let s := on .s
     s.timers = [] ∧ (s.core 3).spad.wf = true ∧ Unclaimed (s.core 3) true 0x17FFF8 8) ∧
    (∀ i < 4, ((on .s).core (coreOf (clusterOf 3) i)).inst = none) := by
  refine ⟨?_, ?_, ?_, ?_, ?_, ?_⟩ <;> decide +kernel

/-- A handle of a region of content names at page frame 0, and one of a page of cells at 0x20000. -/
def naming (f : Strand → Strand := id) : State :=
  on .s fun z => f ((z.wh 3 { served true with kind := 2 }).wh 4 { served true with frame := 0x20000 })

/-- A region of names: a table of 256 entries at 0x30000 and a store of two lines at 0x40000. -/
def region (s : State) : State :=
  (((s.setPhys 0 8 (1 + 8 * 2 ^ 16)).setPhys 8 8 0x30000).setPhys 16 8 0x40000).setPhys 24 8 2

theorem meets_NameInstructionsAndRoots :
    (RegionServes (naming) 3 ∧ (63#6).toNat % 2 = 1) ∧
    (let s := naming (·.wg 1 0x17FF80)
     RegionServes s 3 ∧ Ready s everyStrand [1, 62, 63] ∧ LineFits s false 0x17FF80 128 128 ∧ LineFits s true 0x17FF80 128 128) ∧
    (let s := naming (·.wg 1 0x180000)
     RegionServes s 3 ∧ Ready s everyStrand [1, 62, 63] ∧ 0x180000 < fld (s.me.rg 1) 31 0 + 128) ∧
    (let s := naming fun z => (z.wg 1 0x17FF80).wg 2 0x17FFF0
     RegionServes s 3 ∧ Ready s everyStrand [1, 2] ∧ LineFits s false 0x17FF80 128 128 ∧ LineFits s true 0x17FFF0 16 16) ∧
    (let s := naming (·.wg 60 8)
     Ready s everyStrand [60, 61, 62, 63] ∧ (s.me.rg 60).toNat % 32 ≠ 0) ∧
    (let s := region (naming (·.wg 60 0xFFE0))
     Ready s everyStrand [60, 61, 62, 63] ∧ RegionServes s 3 ∧ HandleServes s 4 0xFFE0 32 false ∧ (s.me.rh 4).kind ≠ 2 ∧
       (∀ i < 4, s.homeOf (0x2FFE0 + 8 * i) = 0x2FFE0 + 8 * i) ∧ s.cellWait 0x2FFE0 = false ∧ s.flaws = [] ∧ (s.nameRegion 0).isSome = true ∧
       s.mem.dword 0x2FFE0 = 0) := by
  refine ⟨?_, ?_, ?_, ?_, ?_, ?_⟩ <;> decide +kernel

theorem meets_NameInstructionsAndRoots_swap :
    (let s := naming fun z => (z.wg 1 0x17FFC0).wg 2 0xFFE0
     Ready s everyStrand [1, 2] ∧ HandleServes s 4 0xFFE0 32 true ∧ (s.me.rh 4).kind ≠ 2 ∧
       (∀ i < 4, s.homeOf (0x2FFE0 + 8 * i) = 0x2FFE0 + 8 * i) ∧ s.cellWait 0x2FFE0 = false ∧ s.flaws = [] ∧ s.mem.wf = true ∧
       LineFits s false 0x17FFC0 64 32 ∧ fld (s.here.spad.dword (0x17FFC0 + 48)) 63 52 = 0 ∧
       fld (s.here.spad.dword (0x17FFC0 + 48)) 51 48 ≤ 12 ∧ fld (s.here.spad.dword (0x17FFC0 + 48)) 47 0 ≤ 128 ∧
       ∀ i < 4, s.mem.dword (0x2FFE0 + 8 * i) = s.here.spad.dword (0x17FFC0 + 8 * i)) ∧
    (let s := naming fun z => (z.wg 1 0x17FFC0).wg 2 0xFFE0
     (s.setPhys 0x2FFE0 8 1).mem.dword 0x2FFE0 ≠ s.here.spad.dword 0x17FFC0) ∧
    (let s := naming (·.wg 1 0x17FFE0)
     Ready s everyStrand [1, 2] ∧ 0x180000 < fld (s.me.rg 1) 31 0 + 64) := by
  refine ⟨?_, ?_, ?_⟩ <;> decide +kernel

/-- Name 1 is live with two references, its entry at its place of the table and its line first in the store. -/
def nameOf (s : State) : State := (((region s).setPhys 0x30000 8 1).setPhys 0x30010 8 (2 + 2 ^ 32))

theorem meets_NameInstructionsAndRoots_find :
    let s := (nameOf (naming (·.wg 60 0xFFE0))).setPhys 0x2FFE0 8 1
    let r := (s.nameRegion 0).getD default
    let e := (s.findName r 1).getD default
    Ready s everyStrand [60, 61, 62, 63] ∧ RegionServes s 3 ∧ HandleServes s 4 0xFFE0 32 false ∧
      (∀ i < 4, s.homeOf (0x2FFE0 + 8 * i) = 0x2FFE0 + 8 * i) ∧ s.cellWait 0x2FFE0 = false ∧ s.flaws = [] ∧ s.nameRegion 0 = some r ∧
      (s.mem.dword 0x2FFE0).toNat + (s.mem.dword 0x2FFE8).toNat * 2 ^ 64 = 1 ∧ s.findName r 1 = some e ∧ e.count = 2 := by
  decide +kernel

/-- An operation on a name. -/
def cnReq (k : CnKind) (name : Nat) : CnReq :=
  { who := ⟨0, .s⟩, kind := k, h := 3, space := 0, frame := 0, expiry := 1, page := 0, d := 62, name := name, off := 0x17FF80, line := [], minor := 0, at_ := 0 }

theorem meets_NameOperations :
    (let s := nameOf (naming)
     let r := (s.nameRegion 0).getD default
     let e := (s.findName r 1).getD default
     s.namesWait ⟨0, .s⟩ 0 = false ∧ s.lateAt 0 1 = false ∧ s.nameRegion 0 = some r ∧ (cnReq .hold 0).kind = .hold ∧ (cnReq .drop 1).kind = .drop ∧
       (cnReq .load 1).kind = .load ∧ s.findName r 1 = some e ∧ 1 < e.count ∧ e.count < 0xFFFFFFFF ∧ (s.core 0).spad.wf = true ∧ s.flaws = [] ∧
       (cnReq (.alloc true) 0).kind = .alloc true ∧ ∀ b ∈ (cnReq (.alloc true) 0).line, b = 0) ∧
    (let s : State := { region (naming) with reclaim := [{ frame := 0, line := 1, who := ⟨0, .s⟩ }] }
     let r := (s.nameRegion 0).getD default
     s.reclaim = [{ frame := 0, line := 1, who := ⟨0, .s⟩ }] ∧ s.nameRegion 0 = some r ∧ s.physNat (r.store + 128) 128 = 0 ∧ s.flaws = []) := by
  refine ⟨?_, ?_⟩ <;> decide +kernel

/-- A strand with an address in `g1`, a peer word in `g2` and another register. -/
def remote (va pw : Dword) : State := on .s fun z => (z.wg 1 va).wg 2 pw

theorem meets_FabricInstructions :
    (let s := remote 0x1FFFFFFFFFF8 0x3FFF
     Ready s everyStrand [1, 2, 3] ∧ PlainRemote (s.me.rg 1) (s.me.rg 2) ∧ s.remoteOut s.turn < 64) ∧
    (let s := remote 0x200000000000 0
     Ready s everyStrand [1, 2, 3] ∧ ¬PlainRemote (s.me.rg 1) (s.me.rg 2)) ∧
    (let s : State := { remote 8 0x3000 with fab := { Fab.reset with remotes := List.replicate 64 { tag := 0, who := ⟨0, .s⟩, use := .store } } }
     Ready s everyStrand [1, 2, 3] ∧ PlainRemote (s.me.rg 1) (s.me.rg 2) ∧ 64 ≤ s.remoteOut s.turn ∧ ¬Fenced s) ∧
    (let s := remote 8 (0x67000 + 2 ^ 32 * 0x17FFF8)
     let pw := s.me.rg 2
     Ready s everyStrand [1, 2, 62] ∧ RemoteFits (s.me.rg 1) pw ∧ 4 ≤ remoteWidth pw ∧ fld pw 17 14 = 9 ∧ pw.getLsbD 18 = true ∧
       SpadFits (fld pw 63 32) (remoteWidth pw) ∧ s.me.isFull 63 = true ∧ s.remoteOut s.turn < 64) ∧
    (let s := remote 8 (0x43000 + 2 ^ 32 * 0x180000)
     let pw := s.me.rg 2
     Ready s everyStrand [1, 2, 3] ∧ RemoteFits (s.me.rg 1) pw ∧ 4 ≤ remoteWidth pw ∧ fld pw 17 14 ≤ 12 ∧ pw.getLsbD 18 = true ∧
       fld pw 17 14 ≠ 10 ∧ fld pw 17 14 ≠ 9 ∧ ¬SpadFits (fld pw 63 32) (remoteWidth pw)) ∧
    (let s := remote 8 (0x2000 + 2 ^ 32)
     Ready s everyStrand [1, 2, 3] ∧ (s.me.rg 2).getLsbD 18 = false ∧ fld (s.me.rg 2) 63 32 ≠ 0) ∧
    (Fenced (on .s) ∧ (let s := remote 0x1FFFFFFFFFC0 0xFFFF
      Ready s everyStrand [1, 2, 3] ∧ (s.me.rg 1).toNat % 64 = 0 ∧ (s.me.rg 1).toNat < 2 ^ 45 ∧ (s.me.rg 2).toNat < 65536)) ∧
    (let s := remote 0 0x10000
     Ready s everyStrand [1, 2, 3] ∧ 65536 ≤ (s.me.rg 2).toNat) := by
  refine ⟨?_, ?_, ?_, ?_, ?_, ?_, ?_, ?_⟩ <;> decide +kernel

theorem meets_ClusterAccesses_flushes :
    let s := within .s id fun z => { z.wg 1 0x17FFF8 with flushes := [(0, 0, 8, 0)] }
    Ready s everyStrand [1, 2] ∧ Names s (s.me.rg 1) ∧ SpadFits (fld (s.me.rg 1) 31 0) 8 ∧ s.clusterOut s.turn < 16 ∧ s.me.flushes ≠ [] ∧
      (within .s id).me.flushes = [] := by decide +kernel

theorem meets_NameInstructionsAndRoots_times :
    (let s := region (naming (·.wg 60 0xFFE0))
     InTime s (s.me.rh 4) 0x2FFE0 ∧ InTime s (s.me.rh 3) (s.me.rh 3).frame.toNat ∧ (s.me.rh 4).frame.toNat + 0xFFE0 + 32 ≤ 0xC100000000 ∧
       s.me.flushes = []) ∧
    (let s := (nameOf (naming (·.wg 60 0xFFE0))).setPhys 0x2FFE0 8 1
     InTime s (s.me.rh 4) 0x2FFE0 ∧ InTime s (s.me.rh 3) (s.me.rh 3).frame.toNat) := by
  refine ⟨?_, ?_⟩ <;> decide +kernel

theorem meets_NameOperations_late :
    (let s : State := { naming with time := 1 }
     let x := cnReq .hold 1
     s.namesWait x.who x.at_ = false ∧ s.lateAt x.frame x.expiry = true ∧ s.walkStalls 0 x.space x.page.toNat = false ∧
       (s.walk 0 x.space x.page.toNat).2.found = none) ∧
    (let s : State := { (mapped .s).setPhys 0x42000 8 (2 ^ 16 * 5 + 2 ^ 6 + 4 + 2 + 1 + 16) with time := 1 }
     let x := cnReq .hold 1
     s.namesWait x.who x.at_ = false ∧ s.lateAt x.frame x.expiry = true ∧ s.walkStalls 0 x.space x.page.toNat = false ∧
       ((s.walk 0 x.space x.page.toNat).2.found.map fun y => y.1.kind) = some 2) := by
  refine ⟨?_, ?_⟩ <;> decide +kernel

theorem meets_FabricInstructions_flushes :
    (let s := on .s fun z => { (z.wg 1 0x1FFFFFFFFFF8).wg 2 0x3FFF with flushes := [(0, 0, 8, 0)] }
     Ready s everyStrand [1, 2, 3] ∧ PlainRemote (s.me.rg 1) (s.me.rg 2) ∧ s.me.flushes ≠ [] ∧ (remote 0 0).me.flushes = []) ∧
    (let s : State := { remote 8 0x3000 with fab := { Fab.reset with remotes := [{ tag := 0, who := ⟨0, .s⟩, use := .store }] } }
     Ready s everyStrand [1, 2, 3] ∧ ¬Fenced s) := by
  refine ⟨?_, ?_⟩ <;> decide +kernel

/-! ### Command queues and the engines -/

/-- Queue `q` of core 0, on which an instance runs, holds job `j`. -/
def queuing (q : QueueId) (j : Job) (f : Core → Core := id) : State :=
  let s := within .s id
  s.setHere (f (s.here.setQueue q { next := j.id + 1, jobs := [j] }))

/-- A job that copies 8 bytes in, from address 0x10 to the end of the scratchpad. -/
def copying (st : JobState) : Job := { jobOf 1 1 st with d1 := 0x10, d2 := 0x80017FFF8 }

theorem meets_QueueJobs_push :
    (Ready (on .s) everyStrand [60, 61, 62, 63] ∧ ¬pushOk ((on .s).me.rg 60) 7 (on .s).myInst.priv = true) ∧
    (Ready (on .s) everyStrand [61, 62, 63, 0] ∧ 60 < (61#6).toNat) ∧
    (let s := on .s (·.wg 60 7)
     Ready s everyStrand [60, 61, 62, 63] ∧ pushOk (s.me.rg 60) 7 s.myInst.priv = true ∧ (s.here.queue 7).jobs.length < 32 ∧
       s.here.board.length ≤ 16) ∧
    (let s := (queued .s (List.replicate 32 (jobOf 1 7 .queued)) 33)
     let s := s.setMe (s.me.wg 60 7)
     Ready s everyStrand [60, 61, 62, 63] ∧ pushOk (s.me.rg 60) 0 s.myInst.priv = true ∧ 32 ≤ (s.here.queue 0).jobs.length ∧
       s.myInst.preq = false ∧ s.myInst.stop = false) := by
  refine ⟨?_, ?_, ?_, ?_⟩ <;> decide +kernel

theorem meets_QueueJobs_states :
    (let j := copying .queued
     let s := queuing 0 j
     ((s.core 0).inst = some 1 ∧ (s.getInst 1).status = .running ∧ (s.getInst 1).preq = false ∧ (s.getInst 1).stop = false) ∧
       ((s.core 0).queue 0).head = some j ∧ j.state = .queued ∧ j.layoutNo = 0 ∧ popCheck (s.core 0) 0 j = none ∧ j.wen = false) ∧
    (let j := { copying .queued with d2 := 0x800180000 }
     let s := queuing 0 j
     ((s.core 0).queue 0).head = some j ∧ (popCheck (s.core 0) 0 j).isSome = true) ∧
    (let j := { copying .queued with d0 := 1 + 2 ^ 8 + 7 * 2 ^ 16 + 255 * 2 ^ 48 }
     let s := queuing 0 j (·.setSem 7 255)
     ((s.core 0).queue 0).head = some j ∧ popCheck (s.core 0) 0 j = none ∧ j.wen = true ∧ j.wamt ≠ 0 ∧
       j.wamt ≤ (s.core 0).semCount j.wsem ∧ (s.core 0).semWait = [] ∧ (s.core 0).signals = []) ∧
    (let j := { copying .queued with d0 := 1 + 2 ^ 8 + 7 * 2 ^ 16 + 255 * 2 ^ 48 }
     let s := queuing 0 j (·.setSem 7 254)
     ((s.core 0).queue 0).head = some j ∧ popCheck (s.core 0) 0 j = none ∧ j.wen = true ∧ (s.core 0).semCount j.wsem < j.wamt) ∧
    (let j := { copying .awaitTile with d0 := 1 + 2 ^ 12, d3 := 15 * 2 ^ 16 }
     let s := queuing 0 j
     ((s.core 0).queue 0).head = some j ∧ j.tileNo = some 15 ∧ ¬((s.core 0).tfull 15 = true) ∧ ¬(j.kind = 2 ∨ j.kind = 4)) ∧
    (let j := { copying .awaitTile with d0 := 1 + 2 ^ 12, d3 := 15 * 2 ^ 16 }
     let s := queuing 0 j ({ · with tileFull := 0x8000 })
     ((s.core 0).queue 0).head = some j ∧ j.tileNo = some 15 ∧ ¬((s.core 0).tfull 15 = true ↔ j.kind = 2 ∨ j.kind = 4)) ∧
    (let j := copying .awaitLeave
     let s := queuing 0 j
     ((s.core 0).queue 0).head = some j ∧ j.kind = 1 ∧ fld j.d2 63 32 ≤ 0x100000) := by
  refine ⟨?_, ?_, ?_, ?_, ?_, ?_, ?_⟩ <;> decide +kernel

/-- A lease of the 64 KiB page 0 at physical address 0x50000. -/
def leased (wr : Bool) : Lease := { base := 0, psz := 0, frame := 0x50000, wr := wr, kind := 0, expiry := 0x1000000, span := 1000 }

/-- A running job under that lease. -/
def running (d0 d1 d2 d3 : Dword) (wr : Bool := true) : Job :=
  { jobOf 1 d0 .running with d1 := d1, d2 := d2, d3 := d3, leases := [leased wr] }

theorem meets_QueueJobs_rest :
    (let j := { copying .running with ending := some { clean with flags := 0x1FF } }
     ((queuing 0 j).core 0 |>.queue 0).jobs = [j] ∧ j.state = .running ∧ j.ending = some { clean with flags := 0x1FF } ∧ j.units = 0) ∧
    (let s := queuing 0 (copying .queued)
     let s := s.setInst 1 { s.getInst 1 with status := .terminated }
     (s.core 0).inst = some 1 ∧ (s.getInst 1).status = .terminated ∧ (((s.core 0).queue 0).jobs.map Job.id).Nodup) ∧
    (let l := { leased true with expiry := 124 }
     let j := { running 1 0x10 0x80017FFF8 0 with leases := [l] }
     let t := within .s id
     let t := { mapped .s with insts := t.insts }
     let s := t.setHere ({ t.here with inst := some 1 }.setQueue 0 { next := 2, jobs := [j] })
     let w := s.walk (dieOf 0) j.space l.base.toNat
     ((s.core 0).queue 0).work = some j ∧ (s.die (dieOf 0)).inFault = false ∧
       l.expiry.toNat < (s.dieTime (dieOf 0)).toNat + l.span / 8 ∧ w.2.found.isSome = true) ∧
    (let j := running 7 0 0 0
     ((queuing 0 j).core 0 |>.queue 0).work = some j ∧ j.ending = none) := by
  refine ⟨?_, ?_, ?_, ?_⟩ <;> decide +kernel

/-- The one core with a job of `leaving`. -/
def leavingCore : Core := Core.reset.setQueue 0 { next := 2, jobs := [copying .awaitLeave] }

/-- A die's line of waiting for leave, with one job in it. -/
def leaving : State :=
  { State.reset with
    cores := State.reset.cores.set 0 leavingCore
    dies := State.reset.dies.set 0 { Die.reset with leave := [{ core := 0, queue := some 0, units := 0 }] } }

theorem meets_QueueJobs_grant :
    (leaving.die 0).leave = [{ core := 0, queue := some 0, units := 0 }] ∧
      ((leaving.core 0).queue 0).head = some (copying .awaitLeave) ∧ leaving.leaveFits 0 0 = true := by
  refine ⟨by decide +kernel, by decide +kernel, ?_⟩
  have h (c : CoreId) : (leaving.core c).unitsHeld = 0 := by
    have : leaving.core c = leavingCore ∨ leaving.core c = Core.reset := by
      simp only [State.core, leaving, Vector.set, State.reset, Fin.getElem_fin, Vector.getElem_mk, Array.getElem_set]
      split
      · exact .inl rfl
      · exact .inr (by simp)
    obtain e | e := this <;> rw [e] <;> decide +kernel
  have hu (n : Nat) : leaving.unitsIn n = 0 := by
    unfold State.unitsIn
    generalize List.finRange 512 = l
    induction l with
    | nil => rfl
    | cons c l ih => rw [List.map_cons, List.sum_cons, ih, h]; rfl
  have hp : leaving.regionPath (leaving.instOn 0).leaf.toNat = [0] := by decide +kernel
  simp only [State.leaveFits, hp, List.all_cons, List.all_nil, hu]
  decide +kernel

theorem meets_QueueCommands :
    (let j := { copying .halted with d0 := 1 }
     let r := { running 0x0A 0 0 0 with id := 2 }
     let s := within .s id
     let s := s.setHere (s.here.setQueue 0 { next := 3, jobs := [j, r] })
     ((s.core 0).queue 0).work = some j ∧ j.ending = none ∧ j.kind = 1) ∧
    (let j := running 8 0xFFFF 0x17FFC0 0
     let s := { queuing 0 j with plat := { Plat.reset with ctxbase := 0x10000 } }.setPhys 0x10008 8 0x400000
     Works s 0 0 j ∧ s.mem.wf = true ∧
       (let at_ := fld (s.physDword (s.plat.ctxbase.toNat + 8)) 47 22 * 2 ^ 22 + 64 * 0xFFFF
        ∀ i < 64, s.homeOf (at_ + i) = at_ + i)) := by
  refine ⟨?_, ?_⟩ <;> decide +kernel

/-- The job's state and memories are as the statements of the engines want them. -/
abbrev Engaged (s : State) (q : QueueId) (j : Job) : Prop := Works s 0 q j ∧ s.mem.wf = true ∧ (s.core 0).spad.wf = true ∧ (s.core 0).tiles.wf = true

theorem meets_CopyJobs :
    (let j := running 1 0xFFF8 0x80017FFF8 0 false
     let s := queuing 0 j
     Engaged s 0 j ∧ j.layout = none ∧ j.pchunk = 0 ∧ j.kind = 1 ∧ Leads s 0 (leased false) 0xFFF8 8 0x5FFF8) ∧
    (let j := running 2 0xFFF8 0x80017FFF8 0
     let s := queuing 2 j
     Engaged s 2 j ∧ j.kind = 2 ∧ (leased true).wr = true ∧ Leads s 0 (leased true) 0xFFF8 8 0x5FFF8) ∧
    (let j := running 0x1001 0xFFF8 0x800003FF8 0xF0000 false
     let s := queuing 0 j
     Engaged s 0 j ∧ j.kind = 1 ∧ j.d0.getLsbD 12 = true ∧ j.d3.extractLsb' 16 4 = 15#4) ∧
    (let j := running 5 0x17FFF8 8 7
     Engaged (queuing 0 j) 0 j ∧ j.kind = 5 ∧ j.d0.getLsbD 14 = false) ∧
    (let j := running 0x4005 0xFFF8 8 7
     let s := queuing 0 j
     Engaged s 0 j ∧ j.kind = 5 ∧ j.d0.getLsbD 14 = true ∧ Leads s 0 (leased true) 0xFFF8 8 0x5FFF8) := by
  refine ⟨?_, ?_, ?_, ?_, ?_⟩ <;> decide +kernel

/-- The job of a queue of core 0, whose scratchpad holds dwords. -/
def spadOf (q : QueueId) (j : Job) (xs : List (Nat × Nat)) : State := queuing q j fun c => { c with spad := xs.foldl (fun m x => m.putNat x.1 8 x.2) c.spad }

theorem meets_PackJobs :
    (let j := running 6 0x1000000000 0x1000 0x10001
     let s := spadOf 2 j [(0, 1)]
     Engaged s 2 j ∧ j.layout = none ∧ j.pchunk = 0 ∧ j.kind = 6 ∧ j.d0.getLsbD 12 = false ∧
       (∀ i < fld j.d3 15 0, 8 + (s.core 0).spad.nat (i * 16) 4 * 2 ^ fld j.d3 17 16 ≤ 16) ∧
       Leads s 0 (leased true) 0x1000 2 0x51000) ∧
    (let j := running 4 0x1000 0x400000000 0
     let s := queuing 2 j
     let stream := packStream 1 ((s.core 0).spad.bytes 0 4)
     Engaged s 2 j ∧ j.kind = 4 ∧ fld j.d3 44 0 = 0 ∧ fld j.d1 44 0 + stream.length ≤ 2 ^ 45 ∧
       Leads s 0 (leased true) 0x1000 stream.length 0x51000) ∧
    (let bs := packChunk [1, 2, 3, 4]
     let j := running 3 0x1000 0x400000000 0
     let s : State := { queuing 0 j with mem := State.reset.mem.putBytes 0x51000 bs }
     let hdr := s.mem.dword 0x51000
     let chunk := judge 4 hdr (s.mem.bytes 0x51008 (fld hdr 31 16))
     Engaged s 0 j ∧ j.kind = 3 ∧ j.resumeAt = 0 ∧ j.short = none ∧ Leads s 0 (leased true) 0x1000 (8 + fld hdr 31 16) 0x51000 ∧
       chunk.good = true ∧ chunk.elen = 4) ∧
    ([1, 2, 3, 4] : List Byte).length ≤ 4096 := by
  refine ⟨?_, ?_, ?_, ?_⟩ <;> decide +kernel

theorem meets_GatherAndMergeJobs_rows :
    (let j := running 0x1010 (2 ^ 54 + 0xFE00) (2 ^ 32) (64 * 2 ^ 32 + 0x17FFF8)
     let s := spadOf 4 j [(0, 63)]
     Engaged s 4 j ∧ fld j.d2 63 48 = 0 ∧ (∀ i < fld j.d2 47 32, (s.core 0).spad.nat (4 * i) 4 < fld j.d3 63 32) ∧
       (leased true).kind = 0 ∧ (leased true).wr = true ∧ Leads s 0 (leased true) 0xFE00 512 0x5FE00 ∧ fld j.d0 13 12 = 1) ∧
    (let j := running 0x1010 (2 ^ 54 + 0xFE00) (2 ^ 32) (64 * 2 ^ 32 + 0x17FFF8)
     ∀ i < fld j.d2 47 32, ∀ i' < fld j.d2 47 32, i < i' → False) := by
  refine ⟨?_, ?_⟩ <;> decide +kernel

/-- A merge job of one row, from 0x100 on, with its results at 0x400 and 0x800. -/
def merging (d0 : Dword) : Job :=
  { running d0 (2 ^ 32) (24 * 2 ^ 32 + 0x400) (24 * 2 ^ 32 + 0x800) with
    params := dwordBytes [0x100 + 0x108 * 2 ^ 32, 0x10C + 0x110 * 2 ^ 32, 0x118 + 0x11C * 2 ^ 32, 1000] }

theorem meets_GatherAndMergeJobs_merges :
    (let j := merging 0x5020
     let s := spadOf 5 j [(0x100, 2 ^ 32), (0x108, 5 + 7 * 2 ^ 32), (0x110, 2 ^ 32), (0x118, 999 + 9 * 2 ^ 32)]
     Engaged s 5 j ∧ j.kind = 0x20 ∧ j.merge.int = true ∧ j.merge.keepz = true ∧ j.merge.negb = false ∧
       OneEntry (s.core 0) j.merge 5 7 999 9) ∧
    (let j := merging 0x1022
     let s := spadOf 5 j [(0x100, 2 ^ 32), (0x108, 5 + 7 * 2 ^ 32), (0x110, 2 ^ 32), (0x118, 5 + 9 * 2 ^ 32)]
     Engaged s 5 j ∧ j.kind = 0x22 ∧ j.merge.isect = true ∧ OneEntry (s.core 0) j.merge 5 0 5 0) ∧
    (let j := running 0x21 (4 * 2 ^ 32) (2 * 2 ^ 32 + 0x17FFF4) 1
     Engaged (queuing 5 j) 5 j) := by
  refine ⟨?_, ?_, ?_⟩ <;> decide +kernel

/-- Name table pages and a range: the two translations of a name job. -/
def nameJob (d0 d3 : Dword) (params : List Byte) : Job :=
  { running d0 0x100000 0x1000 d3 with
    params := params, leases := [{ leased true with base := 0x100000, frame := 0, kind := 2 }, { leased true with base := 0 }] }

theorem meets_NameAndFabricJobs_names :
    (let j := nameJob 0x40 0 (dwordBytes [0, 0, 1000 + 2 ^ 48, 0])
     let s := region (queuing 7 j)
     let lr := { leased true with base := 0x100000, frame := 0, kind := 2 }
     let l := leased true
     Works s 0 7 j ∧ j.leases = [lr, l] ∧ lr.kind = 2 ∧ Leads s 0 lr 0x100000 1 0 ∧ (s.nameRegion 0).isSome = true ∧ l.base ≠ lr.base ∧
       s.mem.wf = true ∧ (s.core 0).spad.wf = true ∧ j.kind = 0x40 ∧ (∀ b ∈ j.params.take 16, b = 0) ∧ fld j.d3 63 32 = 0 ∧
       1000 ≤ 128 * 8 ^ fld (bytesDword j.params 2) 51 48 ∧ fld (bytesDword j.params 2) 47 0 = 1000 ∧ Leads s 0 l 0x1000 1000 0x51000 ∧
       Apart 0x1000 1000 0x100000 65536) ∧
    (let j := nameJob 0x41 (1000 * 2 ^ 32) []
     let s := region (queuing 7 j)
     Works s 0 7 j ∧ j.kind = 0x41 ∧ ∀ i < 1000, s.mem.get (0x51000 + i) = 0) ∧
    (let j := nameJob 0x42 0 (dwordBytes [5, 0, 1000, 0, 5, 0, 1000, 0])
     Works (region (queuing 7 j)) 0 7 j ∧ j.kind = 0x42 ∧ j.params.take 16 = (j.params.drop 32).take 16) := by
  refine ⟨?_, ?_, ?_⟩ <;> decide +kernel

theorem meets_NameAndFabricJobs_fabric :
    (let j := running 0x30 0x7F8 0x800000000 0
     let s := queuing 6 j
     Works s 0 6 j ∧ j.fails = [] ∧ 0 < fld j.d2 63 32 ∧ fld j.d1 44 0 % 2048 + fld j.d2 63 32 ≤ 2048 ∧ fld j.d3 31 0 = 0 ∧
       (((s.core 0).queue 6).jobs.map Job.id).Nodup ∧ j.pchunk = 0) ∧
    (let j := { running 0x31 0x7F8 0x800000000 0 with pchunk := 1 }
     Works (queuing 6 j) 0 6 j ∧ j.pchunk = 1 ∧ j.fails = []) ∧
    (let j := { running 0x31 0 0 0 with pchunk := 0xFFFFFF }
     Works (queuing 6 j) 0 6 j ∧ fld j.d2 63 32 = 0 ∧ j.pchunk ≠ 0) := by
  refine ⟨?_, ?_, ?_⟩ <;> decide +kernel

/-- A job with its parameters read, as its pop reads them. -/
def readOf (s : State) (j : Job) : Job := ({ j with layout := none } : Job).readParams (s.core 0)

theorem meets_QueueJobs_pops :
    (let j := copying .queued
     let s := queuing 0 j
     (popCheck (s.core 0) 0 (readOf s j)).or (paramCheck (readOf s j)) = none ∧ j.layoutNo = 0) ∧
    (let j := { copying .queued with d2 := 0x800180000 }
     let s := queuing 0 j
     ((popCheck (s.core 0) 0 (readOf s j)).or (paramCheck (readOf s j))).isSome = true ∧ j.kind ≠ 0x41) ∧
    (let j := { jobOf 1 0x41 .queued with d1 := 2 ^ 63, d3 := 0x17FFE0 }
     let s := queuing 7 j
     ((popCheck (s.core 0) 7 (readOf s j)).or (paramCheck (readOf s j))).isSome = true ∧ j.kind = 0x41 ∧ j.state = .queued ∧ j.layoutNo = 0 ∧
       fld j.d3 31 0 % 32 = 0 ∧ fld j.d3 31 0 + 32 ≤ 0x180000 ∧ (s.core 0).spad.wf = true) ∧
    (let j := { copying .queued with d0 := 1 + 2 ^ 8 + 7 * 2 ^ 16 + 255 * 2 ^ 48 }
     let s := queuing 0 j (·.setSem 7 255)
     (popCheck (s.core 0) 0 (readOf s j)).or (paramCheck (readOf s j)) = none ∧ j.wen = true) := by
  refine ⟨?_, ?_, ?_, ?_⟩ <;> decide +kernel

theorem meets_QueueJobs_flushes :
    let s := on .s fun z => { z.wg 60 7 with flushes := [(0, 0, 8, 0)] }
    Ready s everyStrand [60, 61, 62, 63] ∧ pushOk (s.me.rg 60) 7 s.myInst.priv = true ∧ (s.here.queue 7).jobs.length < 32 ∧
      s.me.flushes ≠ [] := by decide +kernel

theorem meets_QueueJobs_renews :
    let l := { leased true with expiry := 124 }
    let j := { running 1 0x10 0x80017FFF8 0 with leases := [l] }
    let t := within .s id
    let t := { mapped .s with insts := t.insts }
    let s := t.setHere ({ t.here with inst := some 1 }.setQueue 0 { next := 2, jobs := [j] })
    s.walkStalls 0 j.space l.base.toNat = false := by decide +kernel

theorem meets_PackJobs_limits :
    (let j := running 6 0x1000000000 0x1000 0x10001
     fld j.d2 44 0 + 2 ≤ 2 ^ 45) ∧
    (let j := running 3 0x1000 0x400000000 0
     let s : State := { queuing 0 j with mem := State.reset.mem.putBytes 0x51000 (packChunk [1, 2, 3, 4]) }
     j.made = 0 ∧ fld j.d1 44 0 + 8 + fld (s.mem.dword 0x51000) 31 16 ≤ 2 ^ 45) := by
  refine ⟨?_, ?_⟩ <;> decide +kernel

/-! ### Walks, homes and the lease clocks -/

/-- Strand S of core 0 resolves an address through its handle 3. -/
def resolving (s : State) : State := s.setMe (s.me.wh 3 { Handle.none with state := .resolving })

theorem meets_ResultsAndFetches_walks :
    (let s := resolving (on .s)
     ((s.strand ⟨0, .s⟩).rh 3).state = .resolving ∧ (s.die 0).inFault = false ∧ (contextDword s 0 0).getLsbD 0 = false) ∧
    (let s := resolving (on .s)
     let u := s.setDie 0 { s.die 0 with inFault := true }
     ((u.strand ⟨0, .s⟩).rh 3).state = .resolving ∧ (u.die 0).inFault = true) ∧
    (let s := resolving (mapped .s)
     ContextAt s 0 0x40000 15 ∧ (s.die 0).entries = [] ∧ (s.physDword (0x40000 + 8 * 0x7FFF)).getLsbD 0 = false) ∧
    (let s := (resolving (mapped .s)).setPhys 0x7FFF8 8 (0x40000000 + 2 ^ 9 + 7)
     let e := s.physDword (0x40000 + 8 * 0x7FFF)
     let frame := fld e 56 16 * 2 ^ 16
     ContextAt s 0 0x40000 15 ∧ e.getLsbD 0 = true ∧ e.getLsbD 2 = true ∧ fld e 5 3 < 2 ∧ fld e 15 10 = 0 ∧ fld e 63 57 = 0 ∧
       fld e 9 6 = 8 ∧ frame % 2 ^ 30 = 0 ∧ s.assigned frame = true ∧ s.assigned (frame + 2 ^ 30 - 1) = true) ∧
    ((on .s).memoryWaits ⟨0, .s⟩ = false ∧ (on .s).crossing (· == ⟨0, .s⟩) = false ∧ (on .s).held = []) ∧
    (let s := (on .s).timer 1 (.homeAccess { (default : Access) with who := ⟨0, .s⟩ })
     s.memoryWaits ⟨0, .s⟩ = true) := by
  refine ⟨?_, ?_, ?_, ?_, ?_, ?_⟩ <;> decide +kernel

theorem meets_ResultsAndFetches_lines :
    (let s := on .s ({ · with lease := some (leased false) })
     (s.strand ⟨0, .s⟩).life = .running ∧ (0xFFC0#64).toNat < 2 ^ 45 ∧ Covers (leased false) 0xFFC0 (s.dieTime 0).toNat ∧ s.flaws = [] ∧
       s.assigned 0x5FFC0 = true) ∧
    (let s := on .s ({ · with lease := some (leased false) })
     (s.strand ⟨0, .s⟩).life = .running ∧ ¬Covers (leased false) 0x10000 (s.dieTime 0).toNat ∧ (s.die 0).inFault = false ∧
       (contextDword s 0 0).getLsbD 0 = false) ∧
    (let s := on .s
     let u := s.setDie 0 { s.die 0 with inFault := true }
     (u.strand ⟨0, .s⟩).life = .running ∧ (u.strand ⟨0, .s⟩).lease = none ∧ (u.die 0).inFault = true) ∧
    2 ^ 45 ≤ (0x200000000000#64).toNat := by
  refine ⟨?_, ?_, ?_, ?_⟩ <;> decide +kernel

/-- An access of strand S of core 0. -/
def access (pa n : Nat) (wr : Bool) (op : AccessOp) : Access :=
  { who := ⟨0, .s⟩, h := 3, off := 0, pa := pa, n := n, expiry := 1, wr := wr, space := 0, va := 0, kind := 0, at_ := 0, op := op }

theorem meets_HomeAccesses_homes :
    (let s := on .s
     let a := access 0x50007 1 false (.load 63)
     Clear s a ∧ Timely s a ∧ s.flaws = [] ∧ homeDie (s.homeOf a.pa) = dieOf a.who.core) ∧
    (let s := on .v
     let a := { access 0xC004 4 false (.laneLoad 31 63) with who := ⟨0, .v⟩ }
     Clear s a ∧ Timely s a ∧ s.flaws = [] ∧ homeDie (s.homeOf a.pa) = dieOf a.who.core) ∧
    (let s := on .s
     let a := access 0xC100000008 8 true (.store 1)
     Clear s a ∧ Timely s a ∧ s.flaws = [] ∧ homeDie (s.homeOf a.pa) = dieOf a.who.core ∧ s.mem.wf = true ∧ a.n ≤ 8 ∧ s.homeOf a.pa % 8 = 0) ∧
    (let s := on .s
     let a := access 0x50000 8 true (.atomic 63 .cas .package true 0 1)
     Clear s a ∧ Timely s a ∧ s.flaws = [] ∧ homeDie (s.homeOf a.pa) = dieOf a.who.core ∧ a.n ≤ 8) ∧
    (let s := on .s
     let a := access 0x3000000000 8 true (.store 1)
     Clear s a ∧ Timely s a ∧ s.flaws = [] ∧ homeDie (s.homeOf a.pa) ≠ dieOf a.who.core) := by
  refine ⟨?_, ?_, ?_, ?_, ?_⟩ <;> decide +kernel

theorem meets_HomeAccesses_errors :
    (let s : State := { on .s with flaws := [(0x50000, false)] }
     let a := access 0x50007 1 false (.load 63)
     Clear s a ∧ Timely s a ∧ s.homeOf a.pa / 8 * 8 = 0x50000 ∧ homeDie (s.homeOf a.pa) = dieOf a.who.core ∧ s.homeOf a.pa - 0x50000 + a.n ≤ 8) ∧
    (let s : State := { on .s with flaws := [(0x50000, true)] }
     (∀ a ∈ [access 0x50004 4 true (.store 1), access 0x50000 8 false (.load 63), access 0x50000 8 true (.store 1),
         access 0x50004 4 true (.atomic 63 .add .package true 1 0)],
       Clear s a ∧ Timely s a ∧ s.homeOf a.pa / 8 * 8 = 0x50000 ∧ homeDie (s.homeOf a.pa) = dieOf a.who.core ∧ s.homeOf a.pa - 0x50000 + a.n ≤ 8) ∧
       s.mem.wf = true) := by
  refine ⟨?_, ?_⟩ <;> decide +kernel

theorem meets_HomeAccesses_waits :
    (let a := access 0x50000 8 true (.store 1)
     ((on .s).timer 1 (.homeAccess a)).memoryWaits a.who = true) ∧
    (let s := on .s
     let u := s.setDie 0 { s.die 0 with inFault := true }
     let a := access 0x50000 8 true (.store 1)
     u.memoryWaits a.who = false ∧ u.held = [] ∧ (∀ d, (u.die d).xwrites = []) ∧ (u.die (homeDie (u.homeOf a.pa))).inFault = true) ∧
    (let s : State := { on .s with time := 1 }
     let a := access 0x50000 8 true (.store 1)
     Clear s a ∧ a.expiry.toNat ≤ (s.dieTime (homeDie (s.homeOf a.pa))).toNat ∧ (s.die (dieOf a.who.core)).inFault = false ∧
       (contextDword s a.space 0).getLsbD 0 = false) ∧
    (let s : State := { mapped .s with time := 1 }
     let a := access 0x50000 8 true (.store 1)
     let w := s.walk (dieOf a.who.core) a.space a.va.toNat
     Clear s a ∧ a.expiry.toNat ≤ (s.dieTime (homeDie (s.homeOf a.pa))).toNat ∧ (s.die (dieOf a.who.core)).inFault = false ∧
       (w.2.found.map fun x => (x.1.wr, x.1.kind, decide ((a.va + BitVec.ofNat 64 a.off).toNat + a.n ≤ x.1.base.toNat + pageBytes x.1.psz))) =
         some (true, 0, true)) ∧
    (let s := on .s
     (7 % 8 + 1 ≤ 8 ∧ s.homeOf 0xC0FFFFFFFF = 0xC0FFFFFFFF) ∧ s.assigned 0xC0FFFFFFFF = false ∧
       (s.assigned 0xC100000000 = true ∧ mgmtAddr 0xC100000000 = false ∧ (s.die (homeDie 0xC100000000)).inFault = false ∧ s.mem.wf = true ∧ s.flaws = [] ∧
         s.homeOf 0xC100000000 = 0xC100000000) ∧ mgmtAddr 0xC10010FFF8 = true ∧ s.homeOf 0xC10010FFF8 = 0xC10010FFF8) := by
  refine ⟨?_, ?_, ?_, ?_, ?_⟩ <;> decide +kernel

/-- A write of die 1 at die 0, the first that it sends. -/
def crossed (v : Vector Word 4) : State :=
  let s := on .s
  s.setDie 0 { s.die 0 with xwrites := [{ sender := 1, vec := v, a := access 0x50000 8 true (.store 7), by_ := [⟨128, .s⟩] }] }

theorem meets_HomeOrderAndMigrations_order :
    (let s := crossed #v[0, 1, 0, 0]
     (s.die 0).xwrites.length = 1 ∧ (s.die 0).inFault = false ∧
       (∀ f : DieId, ((s.die 0).known[f] - (if f = 1 then (#v[0, 1, 0, 0] : Vector Word 4)[f] - 1 else (#v[0, 1, 0, 0] : Vector Word 4)[f])).toNat < 2 ^ 31) ∧
       (s.dieTime 0).toNat < (1#64).toNat ∧ s.assigned (s.homeOf 0x50000) = true ∧ mgmtAddr (s.homeOf 0x50000) = false ∧ s.mem.wf = true ∧ s.flaws = []) ∧
    (let s := crossed #v[0, 1, 1, 0]
     (s.die 2).fenced = false ∧ ¬((s.die 0).known[(2 : DieId)] - (#v[0, 1, 1, 0] : Vector Word 4)[2]).toNat < 2 ^ 31) ∧
    (∀ d : DieId, ∀ x ∈ ((on .s).die d).xwrites, x.sender ≠ 1) ∧
    (let x : HeldLoc := { scope := .core, point := 0, loc := 0x50000, value := 7, bad := false, count := 63, since := 0, stamp := 0, last := access 0x50000 8 true (.store 7), by_ := [⟨0, .s⟩] }
     let s : State := { on .s with held := [x], time := 15 }
     s.held = [x] ∧ (s.die (homeDie (s.homeOf x.loc))).inFault = false ∧ x.count < 64 ∧ s.time.toNat < x.stamp + 16 ∧
       ({ s with time := 16 } : State).time.toNat = x.stamp + 16 ∧ x.bad = false ∧ s.flaws = []) ∧
    (let x : HeldLoc := { scope := .core, point := 0, loc := 0x50000, value := 0, bad := true, count := 64, since := 0, stamp := 0, last := access 0x50000 8 true (.store 7), by_ := [⟨0, .s⟩] }
     let s : State := { on .s with held := [x] }
     s.held = [x] ∧ (s.die (homeDie (s.homeOf x.loc))).inFault = false ∧ 64 ≤ x.count ∧ x.bad = true) := by
  refine ⟨?_, ?_, ?_, ?_, ?_⟩ <;> decide +kernel

/-- Die 0 with migration entry 15 in a state. -/
def migrating (m : Migration) : State := let s := on .s; s.setDie 0 { s.die 0 with migs := (s.die 0).migs.set 15 m }

theorem meets_HomeOrderAndMigrations_migrations :
    (let m : Migration := { Migration.reset with new := 0x20000 }
     let s := migrating m
     let x : Dword := 0x10001
     (entryAt s 0 15).state = 0 ∧ x.extractLsb' 2 2 ≠ 3 ∧ fld x 47 16 * 2 ^ 16 % 65536 = 0 ∧ m.new.toNat % 65536 = 0 ∧
       fld x 47 16 * 2 ^ 16 + 65536 ≤ m.new.toNat ∧ ∀ f, (entryAt s 0 f).state ≠ 0 → (entryAt s 0 f).old.toNat ≠ 0x10000) ∧
    (let x : Dword := 0x1000D
     (entryAt (on .s) 0 0).state = 0 ∧ ¬(x.extractLsb' 2 2 ≠ 3)) ∧
    (let m : Migration := { Migration.reset with state := 1, old := 0x10000, new := 0x20000, prog := 0xFF00 }
     (entryAt (migrating m) 0 15).state = 1 ∧ (migrating m).mem.wf = true ∧ (migrating m).flaws = [] ∧ (m.prog + 256).toNat = pageBytes m.psz) ∧
    (let m : Migration := { Migration.reset with state := 1, old := 0x10000, new := 0x20000, prog := 0xFF00 }
     let s : State := { migrating m with flaws := [(0x1FFF8, true)] }
     (entryAt s 0 15).state = 1 ∧ m.old.toNat + m.prog.toNat ≤ 0x1FFF8 ∧ 0x1FFF8 < m.old.toNat + m.prog.toNat + 256) ∧
    ((entryAt (migrating { Migration.reset with state := 2 }) 0 15).state = 2) := by
  refine ⟨?_, ?_, ?_, ?_, ?_⟩ <;> decide +kernel

theorem meets_ClocksAndFencing_clocks :
    ((((on .s).die 0).fenced = false ∧ ((on .s).die 0).lcuMaster = false ∧ ((on .s).die 0).inFault = false) ∧ (-16 : Int).natAbs ≤ 16 ∧
      16 < (17 : Int).natAbs) ∧
    (let s := on .s
     let u := s.setDie 3 { s.die 3 with inFault := true }
     (u.die 3).inFault = true ∧ (u.die 3).fenced = false) := by
  refine ⟨?_, ?_⟩ <;> decide +kernel

theorem meets_ClocksAndFencing_fences :
    (((on .s).die 3).fenced = false ∧ (on .s).dist.changes = [] ∧ (on .s).insts = []) ∧
    (let s := within .s ({ · with idem := true })
     let i := s.getInst 1
     s.insts = [(1, i)] ∧ i.cores = [0] ∧ dieOf 0 = 0 ∧ i.idem = true ∧ i.status = .running ∧ (s.die 0).fenced = false) ∧
    (let s := on .s
     let u : State := { s.setDie 0 { s.die 0 with fenced := true } with dist := { s.dist with electing := true } }
     u.dist.electing = true ∧ (u.die 1).fenced = false ∧ ∀ e : DieId, e < 1 → (u.die e).fenced = true) ∧
    (let c : Change := { ev := .instanceDispatch, need := [1, 3] }
     let s : State := { on .s with dist := { Dist.reset with changes := [c] } }
     s.dist.changes = [c] ∧ 3 ∈ c.need ∧ (∃ e ∈ c.need, e ≠ 3) ∧ ∀ e ∈ [3], e = (3 : DieId)) := by
  refine ⟨?_, ?_, ?_, ?_⟩ <;> decide +kernel

theorem meets_ResultsAndFetches_stalls :
    (let s := resolving (on .s)
     ((s.strand ⟨0, .s⟩).rh 3).state = .resolving ∧ s.walkStalls 0 0 0 = false ∧ s.flaws = []) ∧
    (let s := (resolving (on .s)).setDie 0 { (on .s).die 0 with inFault := true }
     ((s.strand ⟨0, .s⟩).rh 3).state = .resolving ∧ s.walkStalls 0 0 0 = true) ∧
    ((resolving (mapped .s)).walkStalls 0 0 0x1FFFC0000000 = false ∧ (resolving (mapped .s)).flaws = []) ∧
    ((on .s).strand ⟨0, .s⟩ |>.rh 3).state ≠ .resolving := by
  refine ⟨?_, ?_, ?_, ?_⟩ <;> decide +kernel

/-- Strand S flushes 8 bytes from 0xFFF8 on, which it asked for at time 0. -/
def flushing (s : State) : State := s.setMe { s.me with flushes := [(0, 0xFFF8, 8, 0)] }

theorem meets_ResultsAndFetches_flushes :
    ((on .s).strand ⟨0, .s⟩).flushes = [] ∧
    (let s := flushing (on .s)
     (s.strand ⟨0, .s⟩).flushes = [(0, 0xFFF8, 8, 0)] ∧ s.dieWrites 0 0 = false ∧ s.unseen = []) ∧
    (let s := (flushing (on .s)).timer 1 (.homeAccess (access 0x50000 8 true (.store 1)))
     s.dieWrites 0 0 = true) ∧
    (let s : State := { (flushing (on .s)).setDie 0 { (on .s).die 0 with inFault := true } with unseen := [(0x5FFF8, 0)] }
     s.dieWrites 0 0 = false ∧ s.unseen ≠ [] ∧ s.walkStalls 0 0 0xFFF8 = true) ∧
    (let s : State := { flushing (mapped .s) with unseen := [(0x5FFF8, 0)] }
     let f := (s.walk 0 0 0xFFF8).2.found
     s.dieWrites 0 0 = false ∧ s.unseen ≠ [] ∧ s.walkStalls 0 0 0xFFF8 = false ∧ f.isSome = true ∧
       (∀ x ∈ f.toList, 0xFFF8 + 8 ≤ x.1.base.toNat + pageBytes x.1.psz) ∧ ∀ e, ∀ m ∈ (s.die e).migs, m.state = 0) := by
  refine ⟨?_, ?_, ?_, ?_, ?_⟩ <;> decide +kernel

/-- An atomic location that core 0 holds, after its last of so many. -/
def pointHolds (pa count : Nat) (bad : Bool := false) : HeldLoc :=
  { scope := .core, point := 0, loc := 0x50000, value := 7, bad := bad, count := count, since := 0, stamp := 0
    last := access pa 8 true (.atomic 1 .add .core false 1 0), by_ := [⟨0, .s⟩] }

theorem meets_ResultsAndFetches_open :
    (let s := on .s ({ · with lease := some (leased false) })
     (∀ i < 8, s.behind 0 (0x5FFC0 + 8 * i) = false ∧ s.homeHolds (0x5FFC0 + 8 * i) = false) ∧
       (s.dieTime (homeDie (s.homeOf 0x5FFC0))).toNat < (leased false).expiry.toNat) ∧
    (let s : State := { on .s ({ · with lease := some { leased false with frame := 0x50000 } }) with held := [pointHolds 0x50000 1] }
     Covers { leased false with frame := 0x50000 } 0 0 ∧ ¬s.behind 0 0x50000 = false) ∧
    (let s := on .s
     s.walkStalls 0 0 0 = false ∧ (s.strand ⟨0, .s⟩).lease = none) ∧
    ((on .s).setDie 0 { (on .s).die 0 with inFault := true }).walkStalls 0 0 0 = true ∧
    (on .s ({ · with life := .idle }) |>.strand ⟨0, .s⟩).life ≠ .running := by
  refine ⟨?_, ?_, ?_, ?_, ?_⟩ <;> decide +kernel

theorem meets_HomeAccesses_ways :
    (let s : State := { on .s with held := [pointHolds 0x50000 1] }
     let a := access 0x50000 8 false (.load 63)
     (s.heldOnWay a.who.core (locOf a.pa)).isSome = true ∧ nearOf a (s.homeOf a.pa) = none ∧ s.unseen = []) ∧
    (let s : State := { on .s with cycle := { (on .s).cycle with served := [0x50000] } }
     let a := access 0x50000 8 false (.load 63)
     s.held = [] ∧ locOf (s.homeOf a.pa) ∈ s.cycle.served ∧ s.late a (s.homeOf a.pa) = false ∧ s.assigned (s.homeOf a.pa) = true) ∧
    (let s := on .s
     let u := s.setDie 0 { s.die 0 with inFault := true }
     let a := access 0x50000 8 true (.store 1)
     u.held = [] ∧ u.homeHolds (u.homeOf a.pa) = true) ∧
    (let s : State := { on .s with time := 1 }
     let a := access 0x50000 8 true (.store 1)
     mgmtAddr (s.homeOf a.pa) = false ∧ s.walkStalls 0 a.space a.va.toNat = false ∧ s.flaws = []) ∧
    (let s : State := { mapped .s with time := 1 }
     let a := access 0x50000 8 true (.store 1)
     Clear s a ∧ s.walkStalls 0 a.space a.va.toNat = false) := by
  refine ⟨?_, ?_, ?_, ?_, ?_⟩ <;> decide +kernel

theorem meets_HomeAccesses_host :
    (let s := on .s
     s.homeOf 0x50007 = 0x50007 ∧ 0x50007 % 8 + 1 ≤ 8 ∧ s.assigned 0x50007 = true ∧ mgmtAddr 0x50007 = false ∧ s.plat.safe = false ∧
       s.homeHolds 0x50007 = false ∧ locOf 0x50007 ∉ s.cycle.served ∧ s.flaws = [] ∧ s.mem.wf = true ∧ Rising s.unseen) ∧
    (let s := on .s
     let s : State := { s with plat := { s.plat with safe := true } }
     mgmtAddr 0x50007 = false ∧ s.plat.safe = true) ∧
    ¬(0xC000000000 < 0xC000000000 ∨ 0xC100000000 ≤ 0xC000000000) := by
  refine ⟨?_, ?_, ?_⟩ <;> decide +kernel

theorem meets_HomeOrderAndMigrations_points :
    (let s := (crossed #v[0, 1, 0, 0]).setDie 0 { (crossed #v[0, 1, 0, 0]).die 0 with inFault := true }
     (s.die 0).inFault = true) ∧
    (let s := crossed #v[0, 1, 0, 0]
     let s := s.setDie 0 { s.die 0 with migs := (s.die 0).migs.set 15 { Migration.reset with state := 2, old := 0x50000, new := 0x3000000000 } }
     let s := s.setDie 1 { s.die 1 with inFault := true }
     (s.die 0).inFault = false ∧ s.homeOf 0x50000 = 0x3000000000 ∧ s.homeHolds (s.homeOf 0x50000) = true) ∧
    (let x := pointHolds 0x50000 64
     let s : State := { on .s with held := [x] }
     (∀ d, (s.die d).xwrites = []) ∧ 64 ≤ x.count ∧ s.homeHolds (s.homeOf 0x50000) = false ∧
       (s.dieTime (homeDie (s.homeOf 0x50000))).toNat < x.last.expiry.toNat ∧ mgmtAddr (s.homeOf 0x50000) = false ∧
       s.assigned (s.homeOf 0x50000) = true ∧ s.flaws = [] ∧ homeDie (s.homeOf 0x50000) = dieOf x.last.who.core) ∧
    (let x := pointHolds 0x50000 64
     let s : State := { (on .s).setDie 0 { (on .s).die 0 with inFault := true } with held := [x] }
     s.homeHolds (s.homeOf (locOf x.last.pa)) = true) ∧
    (let x := pointHolds 0x3000000000 64
     let s : State := { on .s with held := [x] }
     s.homeHolds (s.homeOf 0x3000000000) = false ∧ s.assigned (s.homeOf 0x3000000000) = true ∧
       homeDie (s.homeOf (locOf x.last.pa)) ≠ dieOf x.last.who.core) := by
  refine ⟨?_, ?_, ?_, ?_, ?_⟩ <;> decide +kernel

theorem meets_ClocksAndFencing_slews :
    (let s := (on .s).setDie 3 { (on .s).die 3 with offset := -17 }
     (s.die 3).fenced = false ∧ (s.die 3).lcuMaster = false ∧ (s.die 3).inFault = false ∧ 16 < (s.die 3).offset.natAbs) ∧
    ((on .s).die 3).offset.natAbs ≤ 16 ∧
    (∀ x ∈ (on .s).insts, (∀ c ∈ x.2.cores, dieOf c ≠ 3) ∧ x.2.status ≠ .saved) ∧
    (let c : Change := { ev := .instanceDispatch, need := [3] }
     3 ∈ c.need ∧ ∀ e ∈ c.need, e = (3 : DieId)) := by
  refine ⟨?_, ?_, ?_, ?_⟩ <;> decide +kernel

/-! ### The distributor -/

/-- A leaf region at the root: 512 cores, 4095 units of power, 16 queues, a pool of two save slots at address 0 and a ring of two
records at 0x400000. -/
def root (policy : Nat) : Region :=
  (((((((Vector.replicate 32 0).set 0 (BitVec.ofNat 64 (3 + 16 * policy))).set 1 (512 + 4095 * 2 ^ 16 + 16 * 2 ^ 48)).set 2 0).set 3 2).set 4
    0x400000).set 5 2)

/-- Only die 0 is healthy, the root region is a leaf, and one GiB of virtual addresses from 0 on leads to physical addresses from
0x40000000 on. -/
def world (xs : List (Nat × Inst)) (f : Dist → Dist := id) : State :=
  let s := State.reset
  let dead : Die := { Die.reset with fenced := true }
  let t : State :=
    { s with
      agenda := [], insts := xs, dies := ((s.dies.set 1 dead).set 2 dead).set 3 dead
      plat := { s.plat with ready := true, ctxbase := 0x10000, rgnbase := 0x800000, wqbase := 0x20000 }
      dist := f { s.dist with regions := [(0, root 1)] } }
  (t.setPhys 0x10000 8 0x40001).setPhys 0x40000 8 0x40000207

/-- An instance of the root region. -/
def inst (st : InstStatus) (f : Inst → Inst := id) : Inst := f { Inst.none with status := st }

/-- A save slot of the root region's pool. -/
def areaAt (va : Nat) : SaveArea := { pool := 0, va := va, space := 0 }

theorem meets_Dispatching_pool :
    (let i := inst .ready
     let s := world [(1, i)]
     let u := s.keepPath 0
     Alone s ∧ s.insts = [(1, i)] ∧ i.status = .ready ∧ i.cluster = false ∧ i.copy = none ∧ i.tileops = [] ∧ i.slot = none ∧
       s.dist.reserved = none ∧ u.eligible i = true ∧ s.idleCore 0 = true ∧
       u.freeSlot i = some (areaAt 0) ∧ (u.badSavePage 0 0 33).2 = none) ∧
    (let i := inst .ready ({ · with leaf := 1 })
     let s := world [(1, i)]
     Alone s ∧ (s.keepPath 1).eligible i = false) := by
  refine ⟨?_, ?_⟩ <;> decide +kernel

/-- An instance on core 0 alone. -/
def placed (i : Inst) (f : Strand → Strand := id) (g : Dist → Dist := id) : State :=
  let s := world [(1, { i with cores := [0] })] g
  let s := s.setCore 0 { s.core 0 with inst := some 1 }
  s.setStrand ⟨0, .s⟩ (f { s.strand ⟨0, .s⟩ with life := .running })

theorem meets_Dispatching_victims :
    let hi := inst .ready ({ · with entry := 0 })
    let s := world [(1, inst .running ({ · with epri := 0, cores := [0] })), (2, hi)] fun d => { d with regions := [(0, (root 1).set 0 0x143)] }
    let s := { s with plat := { s.plat with ready := false } }
    Decides s ∧ s.waiter = some (2, hi) ∧ hi.cluster = false ∧ s.dist.preempting ≠ some 2 ∧
      s.victims (s.effective hi) = [(1, s.getInst 1)] ∧ { s.dist with electing := true }.electing = true := by decide +kernel

theorem meets_InstanceLife_resume :
    let x := keptOf Core.reset
    let s := placed (inst .saved ({ · with slot := some (areaAt 0), kept := [x] }))
    let i := s.getInst 1
    OnCore s 1 0 ∧ Decides s ∧ i.status = .saved ∧ i.kept = [x] ∧ i.acts = [] ∧ (s.getParts 0 0 [(0, x)]).2 = none :=
  ⟨by decide +kernel, by decide +kernel, by decide +kernel, rfl, rfl, by decide +kernel⟩

theorem meets_InstanceLife :
    (let s := placed (inst .running ({ · with preq := true, slot := some (areaAt 0) }))
     OnCore s 1 0 ∧ (s.getInst 1).leaving = true ∧ s.maySave (s.getInst 1) = false) ∧
    (let s := placed (inst .running ({ · with preq := true, slot := some (areaAt 0) })) ({ · with held := .atSafe 0 })
     OnCore s 1 0 ∧ (s.getInst 1).leaving = true ∧ s.maySave (s.getInst 1) = true ∧ Alone s) ∧
    (let s := placed (inst .suspended ({ · with slot := some (areaAt 0x40000000) })) ({ · with held := .live })
     OnCore s 1 0 ∧ (s.getInst 1).leaving = true ∧ s.maySave (s.getInst 1) = true ∧ Alone s ∧
       (s.putParts 0 0x40000000 [0]).2 = some 0x40000000) ∧
    (let s := placed (inst .running) ({ · with life := .halted })
     s.insts = [(1, s.getInst 1)] ∧ OnCore s 1 0 ∧ s.instDone 1 = true ∧ s.instQuiet 1 = true ∧ Alone s ∧ (s.getInst 1).origin = .none) ∧
    (let s := placed (inst .running)
     s.instDone 1 = false ∧ (s.getInst 1).status = .running) ∧
    (let s := (placed (inst .running) ({ · with life := .halted })).timer 1 (.homeAccess (access 0x50000 8 true (.store 1)))
     s.instDone 1 = true ∧ s.instQuiet 1 = false) := by
  refine ⟨?_, ?_, ?_, ?_, ?_, ?_⟩ <;> decide +kernel

/-- A record of a suspended instance's strand at 0x400000, with the action that its handler wrote. -/
def answered (action : Nat) : State :=
  (placed (inst .suspended ({ · with slot := some (areaAt 0) })) ({ · with held := .faulted 3 0x400000 }) fun d =>
    { d with awaiting := [{ inst := some 1, region := 0, addr := 0x400000, who := some ⟨0, .s⟩, cause := 3, page := none }] }).setPhys 0x40400038 8 action

theorem meets_FaultDomains :
    (let s := placed (inst .running ({ · with preq := true })) ({ · with spr := { Spr.reset with spcnt := 4096 } })
     (s.instOn 0).preq = true ∧ (s.strand ⟨0, .s⟩).issues = true ∧ 4096 ≤ (s.strand ⟨0, .s⟩).spr.spcnt.toNat) ∧
    (let s := placed (inst .running) ({ · with cond := .fullEmpty })
     let s := s.setCore 0 { s.core 0 with deadlock := 2 ^ 20 }
     let u := s.setCore 0 { s.core 0 with deadlock := 0 }
     let r : Rec := { cause := 0x0025, sid := none, queue := 0, arg := 0, pc := 0, cid := s.cid 0, addr := 0, detail := 0 }
     OnCore s 1 0 ∧ 2 ^ 20 ≤ (s.core 0).deadlock ∧ s.deadlocked 0 = true ∧ (u.post r (u.getInst 1)).2 = (some 0x400000, 0)) ∧
    (let s := answered (2 + 0x1FFFFFFFFFFE * 2 ^ 16)
     let a : Awaiting := { inst := some 1, region := 0, addr := 0x400000, who := some ⟨0, .s⟩, cause := 3, page := none }
     Decides s ∧ s.dist.awaiting = [a] ∧ (s.keepPath 0).owner 5 0 = (s.keepPath 0).owner 5 0 ∧ OnCore s 1 0 ∧ (s.getInst 1).status = .suspended ∧
       (s.strand ⟨0, .s⟩).life = .running ∧ (s.strand ⟨0, .s⟩).held = .faulted 3 0x400000 ∧
       ((s.keepPath 0).distRead ((s.keepPath 0).spaceOf 0) (a.addr.toNat + 0x38) 8).2 = some (leBytes 8 (2 + 0x1FFFFFFFFFFE * 2 ^ 16))) ∧
    ((((answered 1).keepPath 0).distRead 0 0x400038 8).2 = some (leBytes 8 1) ∧ (((answered 3).keepPath 0).distRead 0 0x400038 8).2 = some (leBytes 8 3) ∧
      (((answered (2 + 2 ^ 16)).keepPath 0).distRead 0 0x400038 8).2 = some (leBytes 8 (2 + 2 ^ 16))) ∧
    Decides (world []) ∧ (world []).posts = [] ∧ (world []).flaws = [] ∧ (∀ d, ((world []).die d).leave = []) ∧ ∀ a ∈ (world []).dist.awaiting, a.addr ≠ 8 := by
  refine ⟨?_, ?_, ?_, ?_, ?_, ?_, ?_, ?_⟩ <;> decide +kernel

/-- Queue 0 is bound to the root region, its entries begin at 0x400, and its producer word is 1; its first entry names the graph at
0x1000, whose one node is a kernel's. -/
def offered (kind patch : Nat) (infl : Nat) (f : Dist → Dist := id) : State :=
  let s := world [] f
  let m := s.mem.putNat 0x20000 8 1
  let m := (m.putNat 0x20008 8 0x400).putNat 0xC100000000 8 1
  let m := ((m.putNat 0x40000408 8 0x1000).putNat 0x40000418 8 (kind + patch * 2 ^ 32)).putNat 0x40000428 8 (64 * kind)
  let m := ((m.putNat 0x40001000 8 (1 + 2 ^ 16)).putNat 0x40001010 8 0x2000).putNat 0x40001018 8 (8 + infl)
  { s with mem := (m.putNat 0x40001050 8 (2 ^ 32)).putNat 0x40001058 8 1 }

/-- The first entry of `offered`, as its queue hands it over. -/
def entryOf (kind patch : Nat) : Handed :=
  { space := 0, leaf := 0, words := #v[0, 0x1000, 0, BitVec.ofNat 64 (kind + patch * 2 ^ 32), 0, BitVec.ofNat 64 (64 * kind), 0, 0] }

/-- That entry has been handed over. -/
def handing (kind patch infl : Nat) (f : Dist → Dist := id) : State :=
  offered kind patch infl fun d => f { d with heldQueues := [0], handed := [(0, entryOf kind patch)] }

/-- What its launch comes to. -/
def launched (kind patch infl : Nat) : LaunchEnd := ((readingFor (handing kind patch infl) 0).checkLaunch 0 0 (entryOf kind patch).dword).2

theorem meets_WorkAndReplays_queues :
    (let s := offered 0 0 0
     let d := s.queueDword 0 0
     let u := takingFrom s 0
     Decides s ∧ d.getLsbD 0 = true ∧ d.getLsbD 1 = false ∧ 0 ∉ s.dist.heldQueues ∧
       (s.consumed 0).toNat < (s.physDword 0xC100000000).toNat ∧ s.consumed 0 = 0 ∧ s.flaws = [] ∧ fld (s.queueDword 0 1) 44 0 = 0x400 ∧
       (u.distRead (u.spaceOf (s.queueLeaf 0)) 0x400 64).2.isSome = true) ∧
    (let e : DevEntry := { va := 0x400, space := 0, inst := none, who := ⟨0, .s⟩, placed := true }
     let s := offered 0 0 0 ({ · with devq := [(0xFFFF, [e])] })
     Decides s ∧ s.devEntries 0xFFFF = [e] ∧ (∀ x ∈ [e], x.placed = true) ∧ 0xFFFF ∉ s.dist.heldQueues ∧ (s.distRead 0 0x400 64).2.isSome = true) ∧
    (let e : DevEntry := { va := 0x400, space := 0, inst := none, who := ⟨0, .s⟩, placed := false }
     let s := (offered 0 0 0 ({ · with devq := [(0, [e])] })).timer 1 (.homeAccess (access 0x50000 8 true (.store 1)))
     Decides s ∧ s.devEntries 0 = [e] ∧ e.placed = false ∧ s.wrote e.who = false) := by
  refine ⟨?_, ?_, ?_⟩ <;> decide +kernel

/-- A launch starts one kernel node without predecessors. -/
def startsKernel : LaunchEnd → Bool
  | .start g _ => g.nodes.length == 1 && g.nodes.all fun n => nodeKind n.record == 0 && fld (nodeDword n.record 0) 31 16 == 0 && !(nodeRanges n.record).isEmpty
  | _ => false

/-- A launch waits. -/
def waitsFor : LaunchEnd → Bool
  | .wait _ => true
  | _ => false

theorem meets_WorkAndReplays_entries :
    (let s := handing 0 0 0
     Alone s ∧ Table.find s.dist.handed 0 = some (entryOf 0 0) ∧ (readingFor s 0).queueReason 0 = 0) ∧
    (let s := handing 2 0 0
     Alone s ∧ Table.find s.dist.handed 0 = some (entryOf 2 0) ∧ 2 ≤ fld ((entryOf 2 0).dword 3) 1 0 ∧ (readingFor s 0).queueReason 0 = 0) ∧
    (let s := handing 0 4 0
     Alone s ∧ Table.find s.dist.handed 0 = some (entryOf 0 4) ∧ fld ((entryOf 0 4).dword 3) 63 32 % 8 ≠ 0 ∧ (readingFor s 0).queueReason 0 = 0) ∧
    (let s := handing 0 0 0 ({ · with regions := [(0, (root 1).set 1 512)] })
     Alone s ∧ Table.find s.dist.handed 0 = some (entryOf 0 0) ∧ (readingFor s 0).queueReason 0 = 8) ∧
    waitsFor (launched 0 0 1) = true ∧ startsKernel (launched 0 0 0) = true ∧ Table.find (offered 0 0 0).dist.handed 0 = none := by
  refine ⟨?_, ?_, ?_, ?_, ?_, ?_, ?_⟩ <;> decide +kernel

theorem meets_WorkAndReplays_struct :
    let h := entryOf 1 8
    let s := handing 1 8 0
    let v := readingFor s 0
    let w := v.distRead h.space 0x1000 64
    let p := w.1.present h.space 0x1000 true (64 + 256)
    let hs := w.2.getD []
    Decides s ∧ Table.find s.dist.handed 0 = some h ∧ v.queueReason 0 = 0 ∧ entryReason h.dword = 0 ∧ fld (h.dword 1) 44 0 = 0x1000 ∧
      w.2.isSome = true ∧ ofBytes hs 0 15 0 = 1 ∧ p.2 = true ∧ (p.1.distRead h.space (fld (h.dword 2) 44 0) 8).2.isSome = true ∧
      ofBytes hs 3 2 0 = 0 ∧ s.dist.graphWaits = [] ∧ fld (h.dword 5) 31 0 = 64 ∧ fld (h.dword 3) 63 32 = 8 := by
  decide +kernel

/-- A node of a kind. -/
def nodeWith (kind : Nat) (succ fsucc : List Nat) : Node := { record := dwordBytes ((List.range 32).map fun i => if i = 0 then BitVec.ofNat 64 kind else 0), succ := succ, fsucc := fsucc }

/-- A replay in flight of three nodes, of which the first decides between the others. -/
def replayed (nodes : List NodeState) : Replay :=
  { origin := .entry 0 0x400, graph := 0x1000, space := 0, leaf := 0, slot := 0, number := 1, record := 0x2000
    recs := [nodeWith 1 [1] [2], nodeWith 0 [] [], nodeWith 0 [] []], nodes := nodes, failed := 0 }

theorem meets_WorkAndReplays_replays :
    (let x := replayed [.running 1 false, .waiting 2, .waiting 2]
     let s := offered 0 0 1 ({ · with replays := [(0, x)] })
     Alone s ∧ (s.die s.dist.master).inFault = false ∧ s.replay 0 = some x ∧ x.node 0 = some (nodeWith 1 [1] [2]) ∧
       x.state 0 = .running 1 false ∧ x.node 1 = some (nodeWith 0 [] []) ∧ x.node 2 = some (nodeWith 0 [] []) ∧ (nodeWith 0 [] []).all = [] ∧
       x.nodes.length = x.recs.length ∧ x.state 1 = .waiting 2 ∧ x.state 2 = .waiting 2 ∧
       (s.distRead 0 (nodeTarget (nodeWith 1 [1] [2]).record).toNat 4).2.isSome = true) ∧
    (let s := world []
     s.replay 0 = none ∧ (s.die s.dist.master).inFault = false) ∧
    (let x := replayed [.done, .done, .done]
     let s := offered 0 0 1 ({ · with replays := [(0, x)] })
     let u := s.writeStatus 0 0x400 (BitVec.ofNat 64 (3 + 2 ^ 32))
     Alone s ∧ s.dist.replays = [(0, x)] ∧ x.origin = .entry 0 0x400 ∧ s.dist.graphWaits = [] ∧ (∀ y ∈ x.nodes, y = .done) ∧
       (({ u with dist := { u.dist with replays := [] } } : State).distRead 0 0x1018 8).2.isSome = true) := by
  refine ⟨?_, ?_, ?_⟩ <;> decide +kernel

/-- The neighbours' last figures. -/
def figures : Vector (Option Nat) 6 := #v[none, some 1, some 2, none, some 2, none]

theorem meets_Stealing :
    (let s := world [] ({ · with figures := figures })
     let s := { s with plat := { s.plat with stealctl := 3 } }
     s.plat.stealctl.getLsbD 0 = true ∧ s.plat.stealctl.getLsbD 1 = true ∧ s.readyCount = 0 ∧ s.idleCore 0 = true ∧ s.freeSteal ≠ [] ∧
       s.dist.asked = none ∧ 2 ≤ (s.dist.figures[(2 : Port)]).getD 0 ∧
       (∀ q : Port, (s.dist.figures[q]).getD 0 ≤ (s.dist.figures[(2 : Port)]).getD 0) ∧
       ∀ q : Port, q < 2 → (s.dist.figures[q]).getD 0 < (s.dist.figures[(2 : Port)]).getD 0) ∧
    (Alone (world []) ∧ (world []).plat.stealctl.getLsbD 1 = false) ∧
    (let i₁ := inst .ready ({ · with steal := true, seq := 0 })
     let i₂ := inst .ready ({ · with steal := true, seq := 1, origin := .node 0 1 })
     let x := replayed [.running 1 false, .running 1 false, .waiting 2]
     let s := world [(1, i₁), (2, i₂)] ({ · with replays := [(0, x)] })
     let s := { s with plat := { s.plat with stealctl := 2 } }
     Alone s ∧ s.plat.stealctl.getLsbD 1 = true ∧ s.insts = [(1, i₁), (2, i₂)] ∧ s.stealable = s.insts ∧ s.before (1, i₁) (2, i₂) = true ∧
       s.before (2, i₂) (1, i₁) = false ∧ i₂.origin = .node 0 1 ∧ s.replay 0 = some x ∧ (x.node 1).isSome = true) ∧
    ((world [] ({ · with stealSlots := List.range 15 })).freeSteal = [15] ∧ (world [] ({ · with stealSlots := List.range 16 })).freeSteal = []) ∧
    (let i := inst .retired ({ · with origin := .stolen 5 7 15 })
     (world [(1, i)]).insts = [(1, i)] ∧ i.origin = .stolen 5 7 15 ∧ i.status = .retired ∧ ({ i with status := .terminated } : Inst).cores = [] ∧
       ({ i with status := .running } : Inst).status = .running) ∧
    (7, 5) ∉ (world []).dist.given := by
  refine ⟨?_, ?_, ?_, ?_, ?_, ?_⟩ <;> decide +kernel

theorem meets_Dispatching_full :
    let i := inst .ready
    let s := world [(1, i)] fun d => { d with regions := [(0, (root 1).set 3 0)] }
    (s.keepPath 0).eligible i = false ∧ s.insts = [(1, i)] ∧ Alone s := by decide +kernel

theorem meets_InstanceLife_suspended :
    ((placed (inst .suspended)).getInst 1).status = .suspended := by decide +kernel

theorem meets_WorkAndReplays_waits :
    (let e : DevEntry := { va := 0x400, space := 0, inst := none, who := ⟨0, .s⟩, placed := true }
     let s := world [] fun d => { d with devq := [(7, [e])], heldQueues := [7] }
     Decides s ∧ s.devEntries 7 = [e] ∧ (∀ x ∈ [e], x.placed = true) ∧ 7 ∈ s.dist.heldQueues) := by
  decide +kernel

theorem meets_WorkAndReplays_readied :
    (let x := replayed [.running 1 false, .waiting 2, .waiting 2]
     let s := world [] fun d => { d with replays := [(0, x)], readied := [(0, 1, 7)] }
     s.replay 0 = some x ∧ Alone s ∧ s.dist.readied = [(0, 1, 7)]) ∧
    (let x := replayed [.running 1 false, .waiting 2, .waiting 2]
     let s := world [] fun d => { d with replays := [(0, x)], readied := [(0, 1, 7)], electing := true }
     s.replay 0 = some x ∧ s.dist.electing = true ∧ s.dist.readied ≠ []) ∧
    (world []).dist.readied = [] := by
  refine ⟨?_, ?_, ?_⟩ <;> decide +kernel

/-- The fabric is on and sublink 1 of port 2 is up. -/
def joined (s : State) : State :=
  let s : State := { s with fab := { s.fab with cfg := 2 ^ 26, keys := s.fab.keys.set (keyIndex 2 false false).val (some { key := 0, swpt := 8 }) (by decide) } }
  s.setLink 2 1 { s.link 2 1 with up := true }

theorem meets_Stealing_leaves :
    Leaves (joined (world [])) 2 1 ∧ Shut (world []) 2 ∧ Shut (joined (world [])) 3 ∧
    (dwordBytes (stealWire (.request 2)).2).length ≤ 2048 ∧
    (joined (world [])).fabricOn = true ∧ Decides (joined (world [])) := by decide +kernel

theorem meets_Stealing_reports :
    let i := inst .given ({ · with origin := .node 0 1 })
    let s := world [(7, i)] ({ · with given := [(7, 5)] })
    Alone s ∧ s.dist.given = [(7, 5)] ∧ s.insts = [(7, i)] ∧ i.origin = .node 0 1 ∧ s.replay 0 = none ∧ (8, 5) ∉ s.dist.given := by
  decide +kernel

/-! ### The platform, the mailbox and the fabric -/

theorem meets_RegisterWrites :
    (let s := on .s
     (entryAt s 3 15).state = 0 ∧ s.plat.busy = false ∧ s.plat.stepNo.toNat < 11 ∧ s.plat.safe = false ∧ s.plat.mbuf.wf = true ∧
       s.plat.alarmpol.getLsbD 63 = false ∧ s.plat.ready = false) ∧
    (entryAt (migrating { Migration.reset with state := 2 }) 0 15).state ≠ 0 ∧
    (let p := { Plat.reset with stepNo := 11, busy := true, ready := true, alarmpol := 2 ^ 63 }
     11 ≤ p.stepNo.toNat ∧ p.busy = true ∧ { p with busy := false }.busy = false ∧ p.alarmpol.getLsbD 63 = true ∧ p.ready = true) ∧
    ((0x8000000000000040#64).getLsbD 63 = true ∧ fld (0x8000000000000040#64) 15 0 = 0x40 ∧
      fld (0x8000000000000003#64) 15 0 ∉ [0x01, 0x02, 0x10, 0x11, 0x20, 0x21, 0x22, 0x30, 0x40]) ∧
    (0x1FF8 < 0x2000 ∧ 0x1FF8 % 8 = 0) := by
  refine ⟨?_, ?_, ?_, ?_, ?_⟩ <;> decide +kernel

/-- A command of the mailbox with a request of so many bytes, the first dwords of which are `d` and `e`. -/
def asking (n : BitVec 14) (d e : Nat) (f : Plat → Plat := id) : State :=
  { on .s with plat := f { Plat.reset with mbLen := n, stepNo := 15, mbuf := (State.reset.mem.putNat 0 8 d).putNat 8 8 e } }

theorem meets_MailboxCommands :
    (let s := asking 8 6 0
     s.plat.mbLen.toNat = 8 ∧ (requested s 0).toNat = (5 : Port).val + 1 ∧ ¬Linkless s) ∧
    (let s := asking 8 7 0 ({ · with stepNo := 12 })
     s.plat.mbLen.toNat = 8 ∧ 6 < (requested s 0).toNat ∧ Linkless s) ∧
    (let s := asking 8 0x7FFFFFF 0
     fld (requested s 0) 63 27 = 0 ∧ ¬Linkless s ∧ 255 < (requested s 0).toNat) ∧
    (let s := asking 8 0x3D 0
     fld (requested s 0) 2 0 = (5 : Port).val ∧ fld (requested s 0) 5 4 = (3 : DieId).val ∧ fld (requested s 0) 63 6 = 0 ∧ ¬Linkless s) ∧
    (let s := asking 8 6 0
     5 < fld (requested s 0) 2 0) ∧
    (let s := asking 0 0 0
     s.plat.mbLen.toNat = 0 ∧ s.plat.attk = true ∧ { s.plat with attk := false }.attk = false) ∧
    ((asking 1088 0 0).plat.mbLen.toNat = 1088 ∧ (asking 48 0 0).plat.mbLen.toNat = 48 ∧ (asking 32 0 0).plat.mbLen.toNat = 32 ∧
      (asking 9 0 0).plat.mbLen.toNat ≠ 8) ∧
    (let s := asking 48 0x1D 0
     let d := requested s 0
     (fld d 2 0 ≤ 5 ∧ fld d 63 5 = 0 ∧ (d.getLsbD 3 = true → requested s 1 = 0)) ∧ ¬Linkless s ∧ wrappedKey s = none ∧
       s.fab.keys[keyIndex 5 (d.getLsbD 3) (d.getLsbD 4)] = none) ∧
    (let s := asking 48 255 0
     (requested s 0).toNat ≤ 255 ∧ requested s 1 = 0 ∧ wrappedKey s = none ∧ Table.find s.plat.cnKeys 255 = none) ∧
    (requested (asking 48 0 1) 1 ≠ 0 ∧ (asking 32 0 0 ({ · with alt := 0x4000 })).plat.alt.getLsbD 14 = true ∧
      (asking 32 0 0).plat.alt.getLsbD 14 = false) ∧
    ((asking 0 0 0).plat.reply = none ∧ (asking 0 0 0 ({ · with reply := some (0, [1]) })).plat.reply = some (0, [1]) ∧
      (asking 0 0 0).plat.mbuf.wf = true) := by
  refine ⟨?_, ?_, ?_, ?_, ?_, ?_, ?_, ?_, ?_, ?_, ?_⟩ <;> decide +kernel

/-- The results that rest on what a key unwraps to: for each that the integrity check can have, the request meets the others. -/
theorem meets_MailboxCommands_keys (k : BitVec 256) (h : Config.aesUnwrap 0 ((asking 48 0x1D 0).plat.mbuf.bytes 16 40) = some k) :
    wrappedKey (asking 48 0x1D 0 ({ · with kek := some 0 })) = some (some k) := by
  have e : (asking 48 0x1D 0 ({ · with kek := some 0 })).plat.mbuf.bytes 16 40 = (asking 48 0x1D 0).plat.mbuf.bytes 16 40 := rfl
  show some (Config.aesUnwrap 0 _) = _
  rw [e, h]

/-- Sublink 3 of port 5, with a transmit key and a receive key. -/
def linked (f : Link → Link) (swpt : Dword := 2 ^ 63) : State :=
  let s := on .s
  let k : Option LinkKey := some { key := 0, swpt := swpt }
  let s : State := { s with fab := { s.fab with keys := (s.fab.keys.set (keyIndex 5 false false).val k (by decide)).set (keyIndex 5 true false).val k (by decide) } }
  s.setLink 5 3 (f { Link.reset with up := true })

theorem meets_LinkFlits_sends :
    (let s := on .s
     s.key 5 false (s.link 5 3).slot = none ∧ (s.link 5 3).up = false) ∧
    (let s := linked fun l => { l with again := [(4095, true, true, [])] }
     Sending s 5 3 { key := 0, swpt := 2 ^ 63 } ∧ (s.link 5 3).counter ≠ 2 ^ 63 ∧ (s.link 5 3).again = [(4095, true, true, [])]) ∧
    (let s := linked fun l => { l with outq := [(true, false, [])], nextSeq := 4095 }
     Sending s 5 3 { key := 0, swpt := 2 ^ 63 } ∧ (s.link 5 3).again = [] ∧ (s.link 5 3).outq = [(true, false, [])] ∧
       (s.link 5 3).retry.length < 512) ∧
    (let s := linked fun l => { l with outq := [(true, false, [])], retry := List.replicate 512 (0, true, true, []) }
     Sending s 5 3 { key := 0, swpt := 2 ^ 63 } ∧ (s.link 5 3).again = [] ∧ 512 ≤ (s.link 5 3).retry.length) ∧
    (let s := linked (fun l => { l with counter := 8 }) 8
     Sending s 5 3 { key := 0, swpt := 8 } ∧ (s.link 5 3).counter = 8 ∧ s.key 5 false (!(s.link 5 3).slot) = none) ∧
    (let s := linked (fun l => { l with counter := 8 }) 8
     let s : State := { s with fab := { s.fab with keys := s.fab.keys.set (keyIndex 5 false true).val (some { key := 1, swpt := 9 }) (by decide) } }
     Sending s 5 3 { key := 0, swpt := 8 } ∧ (s.link 5 3).counter = 8 ∧ s.key 5 false (!(s.link 5 3).slot) ≠ none) := by
  refine ⟨?_, ?_, ?_, ?_, ?_, ?_⟩ <;> decide +kernel

/-- For each result of authentication, flits of every type and mark meet the other hypotheses. -/
theorem meets_LinkFlits_arrivals :
    (let s := linked fun l => { l with fails := 6, lastCounter := some 0xFFFF }
     (s.link 5 3).up = true ∧ (s.link 5 3).training = false ∧ (s.link 5 3).lastCounter = some 0xFFFF ∧ (s.link 5 3).fails < 7 ∧
       s.key 5 true (s.link 5 3).rxSlot = some { key := 0, swpt := 2 ^ 63 } ∧ (s.link 5 3).expect = 0 ∧ (s.link 5 3).rxSlot = false) ∧
    ([0x61#64, 0x60, 0x62, 0x161, 0x21].all fun h => !h.getLsbD 4 && !h.getLsbD 7 && fld h 47 32 == 0x10000 % 65536) = true ∧
    (fld (0x61#64) 3 0 = 1 ∧ (0x61#64).extractLsb' 8 12 = 0#12 ∧ (0x61#64).getLsbD 5 = true ∧ (0x61#64).getLsbD 6 = true) ∧
    (fld (0x161#64) 3 0 = 1 ∧ (0x161#64).extractLsb' 8 12 ≠ 0#12) ∧ (fld (0x21#64) 3 0 = 1 ∧ (0x21#64).getLsbD 6 = false) ∧
    fld (0x60#64) 3 0 = 0 ∧ fld (0x62#64) 3 0 = 2 := by
  refine ⟨?_, ?_, ?_, ?_, ?_, ?_⟩ <;> decide +kernel

theorem meets_LinkFlits_repairs :
    (let s := linked ({ · with training := true })
     (s.link 5 3).training = true ∧ 0 ≤ s.time.toNat) ∧
    (let s := linked id
     (s.link 5 3).training = false ∧ 0 < s.fab.spares ∧ { s.fab with spares := 0 }.spares = 0) := by
  refine ⟨?_, ?_⟩ <;> decide +kernel

/-- A packet of peer 0 to itself for 8 bytes at a virtual address. -/
def packet (k : PKind) (va : Nat) (data : List Byte) : Packet :=
  { kind := k, status := 0, src := 0, dst := 0, space := 0, va := va, len := 8, size := 3, op := 9, tag := 1, aux := 0, data := data }

/-- The fabric is on and die 0's destination cache holds a page. -/
def attached (l : Lease) : State :=
  let s := { on .s with fab := { Fab.reset with cfg := 2 ^ 26 } }
  s.setDie 0 { s.die 0 with portTrans := [{ space := 0, lease := l, cls := 1 }] }

theorem meets_Packets_requests :
    (let s := on .s
     s.fabricOn = false) ∧
    (let s := attached (leased true)
     let u := s.setDie 1 { s.die 1 with inFault := true }
     u.fabricOn = true ∧ (u.die 1).inFault = true ∧ (u.die 1).fenced = false) ∧
    (let l := { leased true with kind := 3 }
     let x := packet .write 0xFFF8 [1, 2, 3, 4, 5, 6, 7, 8]
     Serves (attached l) x ∧ (attached l).portCached 0 x.space x.va = some l ∧ l.kind = 3) ∧
    (let l := leased false
     let x := packet .read 0xFFF8 []
     Serves (attached l) x ∧ l.kind = 0 ∧ (attached l).flaws = [] ∧ l.wr = false ∧ LeadsTo (attached l) 0 x l x.len 0x5FFF8 ∧ LeadsTo (attached l) 0 x l 1 0x5FFF8) ∧
    (let l := leased true
     let x := packet .atomic 0xFFF8 [1, 2, 3, 4, 5, 6, 7, 8]
     Serves (attached l) x ∧ l.kind = 0 ∧ l.wr = true ∧ (attached l).mem.wf = true ∧ LeadsTo (attached l) 0 x l x.data.length 0x5FFF8 ∧
       AmoOp.ofBits x.op = some .cas ∧ LeadsTo (attached l) 0 x l (2 ^ x.size.toNat) 0x5FFF8) ∧
    (let l := leased true
     let s : State := { attached l with flaws := [(0x5FFF8, true)] }
     let x := packet .atomic 0xFFF8 [1, 2, 3, 4, 5, 6, 7, 8]
     Serves s x ∧ l.kind = 0 ∧ l.wr = true ∧ LeadsTo s 0 x l 8 0x5FFF8 ∧ 0x5FFF8 % 8 = 0 ∧ AmoOp.ofBits x.op = some .cas ∧ x.size.toNat = 3 ∧
       x.data.length = 8 ∧ s.mem.wf = true) ∧
    (let l := leased true
     let s : State := { attached l with flaws := [(0x5FFF8, true)] }
     LeadsTo s 0 (packet .read 0xFFF8 []) l 8 0x5FFF8 ∧ LeadsTo s 0 (packet .write 0xFFF8 [1]) l 8 0x5FFF8) := by
  refine ⟨?_, ?_, ?_, ?_, ?_, ?_, ?_⟩ <;> decide +kernel

theorem meets_Packets_held :
    (let s := { world [] with fab := { Fab.reset with cfg := 2 ^ 26 } }
     let x := { packet .write 0xFFFF0000 [1, 2, 3, 4, 5, 6, 7, 8] with space := 1 }
     let page := x.va / 65536 * 65536
     let til := s.time.toNat + 1000000
     let u := (s.setDie 0 { s.die 0 with heldReqs := [{ id := (s.die 0).nextReq, pkt := x, page := page, til := til }], nextReq := (s.die 0).nextReq + 1, arrived := [] }).timer
       (til + 1) (.heldRequestTimeout 0 (s.die 0).nextReq)
     Serves s x ∧ s.flaws = [] ∧ s.walkStalls 0 x.space x.va = false ∧ s.portCached 0 x.space x.va = none ∧ (contextDword s x.space 0).getLsbD 0 = false ∧ (∀ e, (s.die e).heldReqs = []) ∧
       s.pageAwaits x.space page = false ∧
       ((u.keepPath s.rfreg).postTo s.rfreg (u.destRecord 0 page x) { Inst.none with leaf := BitVec.ofNat 32 s.rfreg, space := x.space }).2 = (some 0x400000, 0)) ∧
    (let s : State := { within .s id with fab := { Fab.reset with cfg := 2 ^ 26 } }
     let i := s.instOn 0
     s.fabricOn = true ∧ (s.core 0).inst ≠ none ∧ i.status = .running ∧ i.space = (packet .signal 0 []).space ∧
       ¬(s.core 511).inst ≠ none) ∧
    (let s := on .s
     let h : HeldReq := { id := 7, pkt := packet .write 0 [], page := 0, til := 1000000 }
     let u := s.setDie 0 { s.die 0 with heldReqs := [h] }
     (u.die 0).heldReqs = [h] ∧ (packet .write 0 []).src = s.peer) := by
  refine ⟨?_, ?_, ?_⟩ <;> decide +kernel

theorem meets_Packets_responses :
    (let s := on .s
     ∀ r ∈ s.fab.remotes, r.tag ≠ 1) ∧
    (let r : Remote := { tag := 1, who := ⟨511, .m⟩, use := .load 63 }
     let s : State := { on .s with fab := { Fab.reset with remotes := [r] } }
     s.fab.remotes = [r] ∧ r.tag = (packet .readresp 0 []).tag ∧ (s.strand r.who).spr.rfail = 0) ∧
    (let r : Remote := { tag := 1, who := ⟨0, .s⟩, use := .atomic (some (0x17FFF8, 8)) false }
     let s : State := { on .s with fab := { Fab.reset with remotes := [r] } }
     s.fab.remotes = [r] ∧ (s.core 0).spad.wf = true ∧ Unclaimed (s.core 0) true 0x17FFF8 8) := by
  refine ⟨?_, ?_, ?_⟩ <;> decide +kernel

theorem meets_StartAndAlarms_image : Accepted imageReset 0 := by
  have n (a n : Nat) (h : a + n ≤ 64) : imageReset.nat a n = Mem.nat (byteCells 0 64 fun i => headerReset.getD i 0) a n :=
    Mem.nat_congr fun x _ hx => by rw [get_imageReset, get_byteCells]; grind
  have hs : signedPart imageReset = headerReset := by
    have h0 : imageReset.nat 16 4 = 0 := by rw [n 16 4 (by omega)]; decide
    have h1 : imageReset.bytes 0 64 = (List.range 64).map fun i => headerReset.getD i 0 := by
      rw [Mem.bytes_eq]
      exact List.map_congr_left fun i hi => by rw [get_imageReset, Nat.zero_add, if_pos (List.mem_range.1 hi)]
    rw [signedPart, h0, h1]; decide
  refine ⟨?_, ?_, ?_, ?_, ?_, .inl ?_, .inl ?_⟩
  · rw [n 0 4 (by omega)]; decide
  · rw [n 10 6 (by omega)]; decide
  · rw [n 20 4 (by omega)]; decide
  · rw [n 24 40 (by omega)]; decide
  · exact Nat.zero_le _
  · rw [hs, Mem.bytes_eq]
    exact List.map_congr_left fun i hi => by have := List.mem_range.1 hi; rw [get_imageReset]; grind
  · rw [hs, Mem.bytes_eq]
    exact List.map_congr_left fun i hi => by have := List.mem_range.1 hi; rw [get_imageReset]; grind

theorem meets_StartAndAlarms :
    ((on .s).plat.fail = 0 ∧ Accepted (on .s).plat.imgA (on .s).plat.fctr) ∧
    (let s := { on .s with plat := { Plat.reset with fail := 0x60 } }
     s.plat.fail = 0x60 ∧ (14#4) ≠ 15 ∧ Accepted s.plat.imgA s.plat.fctr) ∧
    (let s := { on .s with plat := { Plat.reset with imgA := [] } }
     s.plat.fail = 0 ∧ ¬Accepted s.plat.imgA s.plat.fctr) ∧
    (on .s).plat.alarmpol.getLsbD 3 = true ∧ ∀ e, ((on .s).die e).leave = [] :=
  ⟨⟨by decide +kernel, meets_StartAndAlarms_image⟩, ⟨by decide +kernel, by decide, meets_StartAndAlarms_image⟩,
    ⟨by decide +kernel, fun h => absurd h.1 (by decide)⟩, by decide +kernel, by decide +kernel⟩

theorem meets_RegisterWrites_more :
    (0 : Nat) < 0x2000 ∧ (Plat.reset.busy = false ∧ ({ Plat.reset with safe := true } : Plat).safe = true) := by decide +kernel

theorem meets_MailboxCommands_more :
    (let s := asking 8 255 0 ({ · with cnKeys := [(255, 0)] })
     (requested s 0).toNat ≤ 255 ∧ Table.del s.plat.cnKeys 255 = [] ∧ s.plat.cnKeys ≠ []) ∧
    (let s := asking 8 0x5 0 ({ · with safe := true })
     Linkless s ∧ fld (requested s 0) 63 27 = 0) ∧
    (let s := asking 32 0 0
     s.plat.mbLen.toNat = 32 ∧ s.plat.attk = true ∧ s.plat.alt.getLsbD 14 = false ∧ 14 ≤ s.plat.stepNo.toNat) ∧
    (asking 32 0 0 ({ · with stepNo := 13 })).plat.stepNo.toNat < 14 ∧
    (let s := asking 48 0x1D 0
     let s : State := { s with fab := { s.fab with keys := s.fab.keys.set (keyIndex 5 true true).val (some { key := 0, swpt := 0 }) (by decide) } }
     s.fab.keys[keyIndex 5 ((requested s 0).getLsbD 3) ((requested s 0).getLsbD 4)] ≠ none) ∧
    (let s := asking 48 0x06 0
     ¬(fld (requested s 0) 2 0 ≤ 5)) ∧
    (asking 48 255 0 ({ · with cnKeys := [(255, 0)] })).plat.cnKeys = [(255, 0)] := by
  refine ⟨?_, ?_, ?_, ?_, ?_, ?_, ?_⟩ <;> decide +kernel

theorem meets_LinkFlits_switches :
    (let s := linked (fun l => { l with counter := 8, txOld := true }) 8
     Sending s 5 3 { key := 0, swpt := 8 } ∧ (s.link 5 3).txOld = true) ∧
    (linked id |>.link 5 3).txOld = false ∧
    (let s := linked fun l => { l with txOld := true }
     (s.link 5 3).txOld = true ∧ ∃ e : DieId, e ≠ 3 ∧ ((s.link 5 e).txOld = false ∨ (s.link 5 e).farOld = false)) ∧
    (let l := { Link.reset with txOld := true, farOld := true }
     let s := (((((on .s).setLink 5 0 l).setLink 5 1 l).setLink 5 2 l).setLink 5 3 { l with farOld := false })
     ∀ e, (s.link 5 e).txOld = true ∧ (s.link 5 e).slot = (s.link 5 3).slot ∧ (e ≠ 3 → (s.link 5 e).farOld = true)) ∧
    (let s := linked fun l => { l with outq := [(true, false, [])], retry := List.replicate 500 (0, true, true, []) }
     (s.link 5 3).retry.length < 512) ∧
    (let s := linked id
     KeepsSlots s 5 ∧ ∃ e : DieId, e ≠ 3 ∧ (s.link 5 e).rxOld = false) ∧
    (let l := { Link.reset with rxOld := true, rxSlot := true }
     let s := (((linked id).setLink 5 0 l).setLink 5 1 l).setLink 5 2 l
     KeepsSlots s 5 ∧ ∀ e : DieId, e ≠ 3 → (s.link 5 e).rxOld = true ∧ (s.link 5 e).rxSlot = !(s.link 5 3).rxSlot) := by
  refine ⟨?_, ?_, ?_, ?_, ?_, ?_, ?_⟩ <;> decide +kernel

/-- The bound of a buffer, whatever it is: a sublink with nothing kept sends, and one past it does not. -/
theorem meets_LinkFlits_credit :
    (((linked fun l => { l with outq := [(true, false, [])] }).link 5 3).retry.length ≤ Config.flitBuffer) ∧
    ∃ n, Config.flitBuffer < (List.replicate n ((0 : BitVec 12), true, true, ([] : List Byte))).length :=
  ⟨Nat.zero_le _, Config.flitBuffer + 1, by simp⟩

theorem meets_LinkFlits_steal :
    (let z : Packet := { packet .steal 0 (dwordBytes [2]) with tag := 0, aux := 1 }
     let s := (joined (on .s))
     z.kind = .steal ∧ s.fabricOn = true ∧ stealOf z.aux.toNat (s.fab.stealIn[(2 : Port)] ++ z.data) = some (.request 2)) ∧
    ({ packet .steal 0 [] with tag := 1 } : Packet).tag ≠ 0 := by
  refine ⟨?_, ?_⟩ <;> decide +kernel

/-- The fabric is on and a request of the same requester to the same location is held on another page's account. -/
def holdsBefore : State :=
  let s := attached (leased true)
  s.setDie 0 { s.die 0 with heldReqs := [{ id := 0, pkt := packet .write 0xFFF8 [1], page := 0, til := 1000000 }] }

theorem meets_Packets_ways :
    (let s := holdsBefore
     let x := { packet .write 0xFFF8 [2] with tag := 2 }
     s.fabricOn = true ∧ s.heldBefore x = true ∧ (s.keepRequest 0 x (x.va / 65536 * 65536)).isSome = true) ∧
    (let x := { packet .write 0xFFF8 [2] with tag := 2 }
     let s := (attached (leased true)).timer 1 (.write 0 (packet .write 0xFFF8 [1]))
     s.fabricOn = true ∧ s.heldBefore x = false ∧ s.requestWaits (fun q => precedes q x) = true) ∧
    (let s := (attached (leased true)).setDie 0 { (on .s).die 0 with inFault := true }
     let x := packet .write 0xFFF8 [2]
     s.fabricOn = true ∧ s.heldBefore x = false ∧ s.portCached 0 x.space x.va = none ∧ s.walkStalls 0 x.space x.va = true) ∧
    (let s : State := { attached (leased true) with held := [{ pointHolds 0x5FFF8 1 with scope := .die, loc := 0x5FFF8 }] }
     let x := packet .write 0xFFF8 [1, 2, 3, 4, 5, 6, 7, 8]
     Serves s x ∧ s.portCached 0 x.space x.va = some (leased true) ∧ s.assigned (s.homeOf ((leased true).at x.va)) = true ∧
       s.dieWaits 0 (s.requestLocs (leased true) x) = true) ∧
    (let l := { leased true with frame := 0x3000000000, expiry := 1 }
     let s : State := attached l
     let s := s.setDie 1 { s.die 1 with offset := 2 }
     let x := packet .write 0xFFF8 [1, 2, 3, 4, 5, 6, 7, 8]
     Passes s 0 x l ∧ ∃ a ∈ s.requestLocs l x, l.expiry.toNat ≤ (s.dieTime (homeDie a)).toNat) := by
  refine ⟨?_, ?_, ?_, ?_, ?_⟩ <;> decide +kernel

/-! ### Issue, encodings and exceptions -/

/-- Strand S in the body of a block of `len` halfwords at 2, whose line is in its loop buffer. -/
def coded (hs : List Half) (len : Nat) (f : Strand → Strand := id) : State :=
  on .s fun z => f { z with
    pc := 2, cond := .issuing, block := { inBody := true, start := 2, len := len, remain := 1 }
    lines := [{ addr := 0, halves := 0 :: hs ++ List.replicate (31 - hs.length) 0 }] }

theorem meets_StepRunsDecoded :
    (let s := coded [0x2042] 1
     Fetches s ∧ s.me.block.inBody = true ∧ (s.me.halvesFrom s.me.pc 1).toOption = some [0x2042] ∧ (decode [0x2042]).toOption = some (.cMov 1 2, 1) ∧
       RoomFor s.me 1 ∧ guards (.cMov 1 2) = false ∧ went (exec (.cMov 1 2) (touching s 1)) (fun t => t.me.guard.isNone) = true) ∧
    (let s := coded [0x1860, 0x2042] 2
     Fetches s ∧ s.me.block.inBody = true ∧ (s.me.halvesFrom s.me.pc 1).toOption = some [0x1860] ∧ (decode [0x1860]).toOption = some (.cIfn 3, 1) ∧
       RoomFor s.me 2 ∧ guards (.cIfn 3) = true) ∧
    went (exec (.cIfn 3) (touching (coded [0x1860, 0x2042] 2) 1)) (fun t => t.me.guard.isSome && decide (Unhindered t) && t.me.block.inBody &&
      (t.me.halvesFrom t.me.pc 1).toOption == some [0x2042] && decide (RoomFor t.me 1)) = true ∧
    (let s := on .s ({ · with life := .idle })
     s.agenda = [] ∧ s.me.issues = false) ∧
    State.reset.agenda = [.moduleStart Startup.good] := by
  refine ⟨?_, ?_, ?_, ?_, ?_⟩ <;> decide +kernel

theorem meets_EncodeDecode : OfStrand (.cMov 1 2) ∧ (Instr.cMov 1 2).wf = true ∧ (decode [0x2042]).toOption = some (.cMov 1 2, 1) := by decide

theorem meets_Blocks :
    (Fetches (on .s) ∧ (on .s).me.half (on .s).me.pc = none) ∧
    (let s := coded [0xFF] 1 fun z => { z with block := { z.block with inBody := false } }
     Fetches s ∧ s.me.block.inBody = false ∧ s.me.half s.me.pc = some 0xFF ∧ s.me.spr.rc.toNat = 0) ∧
    (let s := coded [0xE000] 1
     Fetches s ∧ s.me.block.inBody = true ∧ s.me.half s.me.pc = some 0xE000 ∧ ¬RoomFor s.me (unitLen [0xE000])) ∧
    (let s := coded [0xED00, 0] 2
     let hs : List Half := [0xED00, 0]
     s.me.half s.me.pc = some 0xED00 ∧ unitLen hs = 2 ∧ unitLen [0xED00] = 2 ∧ (s.me.halvesFrom s.me.pc 2).toOption = some hs ∧ RoomFor s.me 2 ∧
       (decode hs).toOption = none) := by
  refine ⟨?_, ?_, ?_, ?_⟩ <;> decide +kernel

theorem meets_IssueAndGuards :
    (OfStrand (.vadd 1 2 3 0 .i32) ∧ (Instr.vadd 1 2 3 0 .i32).wf = true ∧ guards (.vadd 1 2 3 0 .i32) = false ∧
      (on .s).turn.strand ∉ strandsOf (.vadd 1 2 3 0 .i32)) ∧
    (let s := on .v ({ · with guard := some false, pc := 4 })
     s.turn.strand ∈ strandsOf (.vadd 1 2 3 0 .i32) ∧ s.me.issues = true ∧ s.me.guard = some false ∧ ¬Overrun s) ∧
    (let s := within .v ({ · with preq := true }) fun z => { z with guard := some false, pc := 4, spr := { z.spr with spcnt := 4096 } }
     s.me.issues = true ∧ s.me.guard = some false ∧ Overrun s) ∧
    (let s := on .s ({ · with full := BitVec.allOnes 64 - 2 })
     s.me.issues = true ∧ s.me.guard = none ∧ s.me.isFull 1 = false ∧ s.me.isFull 2 = true) ∧
    (let s := within .s ({ · with preq := true }) fun z => { z with spr := { z.spr with spcnt := 4096 } }
     s.me.isFull 1 = true ∧ Overrun s) := by
  refine ⟨?_, ?_, ?_, ?_, ?_⟩ <;> decide +kernel

theorem meets_Exceptions :
    (let s := world [] ({ · with regions := [(0, ((root 1).set 4 0).set 5 0)] })
     fld (s.region (s.owner 5 0))[5] 15 0 = 0) ∧
    (let a : Awaiting := { inst := none, region := 0, addr := 0x400000, who := none, cause := 3, page := none }
     let s := world [] ({ · with awaiting := [a] })
     s.dist.awaiting = [a] ∧ fld (s.region 0)[4] 44 0 + 64 * (fld (s.region 0)[6] 31 0 % fld (s.region 0)[5] 15 0) = 0x400000) ∧
    (let s := world []
     let r := recordOf s ⟨0, .s⟩ 0 3 0 0 0
     fld (s.region 0)[5] 15 0 ≠ 0 ∧ (∀ a ∈ s.dist.awaiting, a.addr ≠ 0x400000) ∧
       (s.vaWrite s.dist.master 0 0x400000 (dwordBytes (r.dwords Inst.none s.time))).2 = true) ∧
    (let s := placed (inst .running ({ · with slot := some (areaAt 0) }))
     (s.core 0).inst = some 1 ∧ 0 ∈ (s.getInst 1).cores ∧
       (s.post (recordOf s ⟨0, .s⟩ (s.strand ⟨0, .s⟩).pc 3 0 0 0) (s.getInst 1)).2 = (some 0x400000, 0) ∧
       (s.getInst 1).status = .running ∧ (s.getInst 1).preq = false ∧ (∀ y ∈ (s.getInst 1).strands, y ≠ ⟨0, .s⟩ → (s.strand y).issues = false)) ∧
    (let s := placed (inst .running ({ · with slot := some (areaAt 0) })) id ({ · with regions := [(0, (root 0).set 5 0)] })
     (s.post (recordOf s ⟨0, .s⟩ (s.strand ⟨0, .s⟩).pc 3 0 0 0) (s.getInst 1)).2 = (none, 0)) ∧
    (let s := on .v ({ · with held := .atSafe 0x8000000100000002 })
     (s.strand ⟨0, .v⟩).life = .running ∧ (s.strand ⟨0, .v⟩).held = .atSafe 0x8000000100000002) := by
  refine ⟨?_, ?_, ?_, ?_, ?_, ?_⟩ <;> decide +kernel

theorem meets_RegistersStayOwn :
    OfStrand (.add 1 2 3 false false) ∧ (⟨0, .v⟩ : Who) ≠ (on .s).turn ∧
      went (exec (.add 1 2 3 false false) (on .s)) (fun _ => true) = true := by decide +kernel

theorem meets_MemoryStaysCanonical :
    Canonical State.reset ∧ went (step { State.reset with agenda := [] }) (fun _ => true) = true := by
  refine ⟨⟨by decide +kernel, by decide +kernel, by decide +kernel, fun c => ?_⟩, by decide +kernel⟩
  have : State.reset.core c = Core.reset := by simp [State.core, State.reset]
  rw [this]
  decide +kernel

theorem meets_StepRunsDecoded_own :
    Unhindered (coded [0x2042] 1) ∧ (∀ e ∈ [Event.recordPost, .instanceReturn 1, .poolReadied, .slew 0, .deckDone 0, .farSwitch 0 0,
      .resultReady ⟨0, .s⟩ none none 0 0], ownStep e = true) ∧
      ownStep (.jobPop 0 0) = false := by decide +kernel

theorem meets_Exceptions_places :
    (let s := world []
     let p := s.vaPlaces s.dist.master 0 0x400000 64
     fld (s.region 0)[5] 15 0 ≠ 0 ∧ p.2.2 = true ∧ s.posts = [] ∧ s.flaws = [] ∧ s.writesOut [0] s.time.toNat [] = false) ∧
    (let s := (world []).timer 1 (.homeAccess (access 0x50000 8 true (.store 1)))
     (s.vaPlaces s.dist.master 0 0x400000 64).2.2 = true ∧ s.posts = [] ∧ s.writesOut [0] s.time.toNat [] = true) ∧
    (let s := world [] ({ · with regions := [(0, (root 1).set 4 0x40000000)] })
     fld (s.region 0)[5] 15 0 ≠ 0 ∧ (s.vaPlaces s.dist.master 0 0x40000000 64).2.2 = false) ∧
    (let s := placed (inst .running ({ · with slot := some (areaAt 0) }))
     (s.core 0).inst = some 1 ∧ 0 ∈ (s.getInst 1).cores ∧
       (s.post (recordOf s ⟨0, .s⟩ (s.strand ⟨0, .s⟩).unitPc 0x22 0 0 0) (s.getInst 1)).2 = (some 0x400000, 0)) := by
  refine ⟨?_, ?_, ?_, ?_⟩ <;> decide +kernel

/-! ### Clauses of instructions and of what holds them -/

theorem meets_DivisionsAndFields_divider :
    (on .s).dividing = false ∧
    (let s := (on .v).timer 34 (.resultReady ⟨0, .v⟩ (some 5) none 0x100 0)
     Begins s ∧ (∀ r ∈ [1, 2, 3], s.me.isFull r = true) ∧ s.resultDue [1, 2, 3] [] = false ∧
       (34, Event.resultReady s.turn (some 5) none 0x100 0) ∈ s.timers) := by
  refine ⟨?_, ?_⟩ <;> decide +kernel

theorem meets_StrandLife_under_way :
    (let s := (on .s).due (.homeAccess { (default : Access) with who := ⟨0, .v⟩ })
     Event.homeAccess { (default : Access) with who := ⟨0, .v⟩ } ∈ s.agenda) ∧
    (let s := (on .s).timer 4 (.resultReady ⟨0, .v⟩ none (some 1) 1 0)
     ∃ e ∈ s.timers, e.2 = .resultReady ⟨0, .v⟩ none (some 1) 1 0) ∧
    (let s := (on .s).setCluster 0 { (on .s).cluster 0 with ops := [{ (default : BarOp) with who := ⟨3, .m⟩ }] }
     ∃ o ∈ (s.cluster (clusterOf 3)).ops, o.who = ⟨3, .m⟩) := by
  refine ⟨?_, ?_, ?_⟩ <;> decide +kernel

theorem meets_SafePointsAndTraps_fault :
    let s := within .m fun x => { x with stop := true }
    CanIssue s everyStrand [] ∧ s.myInst.preq = false ∧ s.myInst.stop = true := by decide +kernel

theorem meets_HandleInstructions_absent :
    (let s := holding .s { served true with state := .absent } 0
     Ready s everyStrand [1, 2, 3] ∧ (s.me.rh 3).state = .absent) ∧
    (let s := holding .s { served true with state := .resolving } 0x200000000000
     Ready s everyStrand [1, 2, 3] ∧ (s.me.rh 3).state = .resolving) := by
  refine ⟨?_, ?_⟩ <;> decide +kernel

theorem meets_FencesAndFlushes_scopes :
    (let s := on .s
     Ready s everyStrand [1, 2] ∧ s.agenda = [] ∧ s.timers = [] ∧ s.held = [] ∧ ∀ d, (s.die d).xwrites = []) ∧
    (let x : Access := { (default : Access) with who := ⟨0, .s⟩ }
     let s := (on .s).due (.homeAccess x)
     Ready s everyStrand [1, 2] ∧ OnItsWay s (.homeAccess x) ∧ x.who = s.turn) ∧
    (let s := (on .s).timer 9 (.flushComplete ⟨0, .s⟩)
     Ready s everyStrand [1, 2] ∧ OnItsWay s (.flushComplete s.turn)) ∧
    (let s := (on .s).timer 9 (.clusterAccess ⟨0, .s⟩ 0 0 8 (some 1) 0)
     Ready s everyStrand [1, 2] ∧ (9, Event.clusterAccess s.turn 0 0 8 (some 1) 0) ∈ s.timers ∧ s.turn.core = 0) ∧
    (let s := (on .s).timer 9 (.clusterAccess ⟨0, .s⟩ 3 0 8 none 1)
     Ready s everyStrand [1, 2] ∧ (9, Event.clusterAccess s.turn 3 0 8 none 1) ∈ s.timers) ∧
    (let s := (on .s).setDie 3 { (on .s).die 3 with xwrites := [{ (default : XWrite) with by_ := [⟨0, .s⟩] }] }
     Ready s everyStrand [1, 2] ∧ ∃ x ∈ (s.die 3).xwrites, s.turn ∈ x.by_) ∧
    (let x : HeldLoc := { (default : HeldLoc) with scope := .die, point := 0 }
     let s : State := { on .s with held := [x] }
     Ready s everyStrand [1, 2] ∧ x ∈ s.held ∧ scopeRank x.scope < scopeRank .package ∧ x.point = pointOf s.turn.core x.scope) := by
  refine ⟨?_, ?_, ?_, ?_, ?_, ?_, ?_⟩ <;> decide +kernel

/-- Queue 0 of core 0 is halted on job 2, the second of three. -/
def halted : State := (queued .s [jobOf 1 0 .running, jobOf 2 0x0A .halted, jobOf 3 0 .queued] 4).setMe
  ((queued .s [jobOf 1 0 .running, jobOf 2 0x0A .halted, jobOf 3 0 .queued] 4).me.wg 1 3)

theorem halted_on : HaltedOn (halted.here.queue 0) (jobOf 2 0x0A .halted) :=
  ⟨[jobOf 1 0 .running], [jobOf 3 0 .queued], rfl, rfl, by decide⟩

theorem meets_QueuesAndRings_halted :
    Ready halted everyStrand [1, 2] ∧ HaltedOn (halted.here.queue 0) (jobOf 2 0x0A .halted) ∧ (halted.here.queue 0).watermark = 1 ∧
      (halted.here.queue 0).next = 4 ∧ ((3 : Word) - (jobOf 2 0x0A .halted).id).toNat < 2 ^ 31 ∧
      2 ^ 31 ≤ ((1 : Word) - (jobOf 2 0x0A .halted).id).toNat :=
  ⟨by decide +kernel, halted_on, by decide, by decide, by decide, by decide⟩

theorem meets_Semaphores_forms :
    (Instr.ksig 0 7 15 false).wf = true ∧ (Instr.ksig 1 7 0 true).wf = true ∧ (Instr.kwait 0 7 1 false).wf = true ∧ (1#4) ≠ 0 ∧
    (Instr.ktwait 1 7 15 false).wf = true ∧
    (let e : Event := .clusterAccess ⟨0, .s⟩ 1 0 8 (some 1) 0
     let s := (counting .s 0).timer 9 e
     e ∈ s.remoteStores s.turn ∧ (9, e) ∈ s.timers) := by
  refine ⟨?_, ?_, ?_, ?_, ?_, ?_⟩ <;> decide +kernel

theorem meets_SemaphoreCycles_held :
    let e : Event := .clusterAccess ⟨0, .s⟩ 1 0 8 (some 1) 0
    let s := (core .s fun c => { c with signals := [{ set := false, k := 7, n := 1, src := .strand .s, after := [e] }] }).timer 9 e
    ∀ x ∈ (s.core 0).signals, HeldSignal s 0 x := by decide +kernel

/-! ### Clauses of engines and results -/

theorem meets_MatrixInstructions_held :
    ((Instr.mgo .e4m3 .e5m2 .fp 1 false).wf = true ∧ (on .m).myInst.preq = false ∧ (on .m).myInst.stop = false) ∧
    (let s := frame ({ · with deckOp := some (0, 1) })
     Ready s [.m] [1, 2] ∧ (frameOf s).deckOp = some (0, 1) ∧ Nest.addresses (frameOf s).shadow (0 : BitVec 5).toNat = true) ∧
    (let s := frame ({ · with drain := some { draining with deck := 0 } })
     Ready s [.m] [1, 2] ∧ (frameOf s).drain = some { draining with deck := 0 } ∧ Nest.addresses (frameOf s).shadow (0 : BitVec 5).toNat = true) := by
  refine ⟨?_, ?_, ?_⟩ <;> decide +kernel

theorem meets_ClusterAccesses_order :
    (let s := (on .s).timer 9 (.clusterAccess ⟨0, .s⟩ 3 0 8 (some 1) 0)
     (9, Event.clusterAccess ⟨0, .s⟩ 3 0 8 (some 1) 0) ∈ s.timers) ∧
    (let s := (on .s).timer 9 (.clusterAccess ⟨0, .v⟩ 3 7 1 (some 1) 0)
     (9, Event.clusterAccess ⟨0, .v⟩ 3 7 1 (some 1) 0) ∈ s.timers ∧ (⟨0, .v⟩ : Who) ≠ ⟨0, .s⟩ ∧ 7 < 0 + 8 ∧ 0 < 7 + 1) := by
  refine ⟨?_, ?_⟩ <;> decide +kernel

/-- Command words of a QFENCE that names queue 3 and the frame. -/
def fencing (f : Core → Core) : State :=
  let s := core .s f
  s.setMe ((s.me.wg 60 7).wg 61 0x108)

theorem meets_QueueJobs_fences :
    (let s := fencing fun c => { c.setQueue 3 { next := 1, jobs := [] } with frame := { c.frame with job := some (newJob .queued) } }
     Ready s everyStrand [60, 61, 62, 63] ∧ pushOk (s.me.rg 60) 0 s.myInst.priv = true ∧ fld (s.me.rg 60) 7 0 = 7 ∧
       (s.me.rg 61).getLsbD 3 = true ∧ (s.here.queue 3).next - 1 = 0 ∧ s.here.frame.job = some (newJob .queued)) ∧
    (let j := { jobOf 1 7 .awaitLeave with fence := [(3, 0), (8, 2)] }
     let s := queuing 0 j fun c => { c.setQueue 3 { next := 1, jobs := [] } with frame := { c.frame with job := some (newJob .queued) } }
     Goes s 0 ∧ ((s.core 0).queue 0).head = some j ∧ j.state = .awaitLeave ∧ j.kind = 7 ∧
       1 ≤ (((s.core 0).queue 3).watermark - 0).toNat ∧ (((s.core 0).queue 3).watermark - 0).toNat ≤ 2 ^ 31 ∧ (newJob .queued).id ≠ 2) ∧
    (let j := { jobOf 1 7 .awaitLeave with fence := [(3, 1)] }
     let s := queuing 0 j (·.setQueue 3 { next := 2, jobs := [jobOf 1 1 .running] })
     Goes s 0 ∧ ((s.core 0).queue 0).head = some j ∧ j.kind = 7 ∧ ¬(1 ≤ (((s.core 0).queue 3).watermark - 1).toNat)) := by
  refine ⟨?_, ?_, ?_⟩ <;> decide +kernel

theorem meets_QueueJobs_reverts :
    let back (j : Job) : State := let s := queuing 0 j; s.setInst 1 { s.getInst 1 with status := .saved }
    (((back (copying .queued)).core 0).inst = some 1 ∧ ((back (copying .queued)).getInst 1).status ≠ .running ∧
      (((back (copying .queued)).core 0).queue 0).head = some (copying .queued)) ∧
    (((back (copying .awaitSem)).core 0).queue 0).head = some (copying .awaitSem) ∧
    (let j := { copying .awaitLeave with d0 := 1 + 2 ^ 8 + 7 * 2 ^ 16 + 255 * 2 ^ 48, units := 3 }
     (((back j).core 0).queue 0).head = some j ∧ j.wen = true ∧ j.state ≠ .queued ∧ ((back j).getInst 1).status ≠ .running) := by
  refine ⟨?_, ?_, ?_⟩ <;> decide +kernel

/-- The walk of handle 3 for an address is under way. -/
def resolvingAt (s : State) (va : Nat) : State :=
  s.setMe (s.me.wh 3 { Handle.none with state := .resolving, base := BitVec.ofNat 64 (va / 65536 * 65536) })

theorem meets_ResultsAndFetches_spaces :
    (let s := resolvingAt (on .s) 0
     let z := s.strand ⟨0, .s⟩
     (z.rh 3).state = .resolving ∧ (z.rh 3).base = 0 ∧ z.spr.space = 0 ∧ s.walkStalls 0 0 0xFFFF = false ∧ s.flaws = [] ∧
       (contextDword s 0 0).getLsbD 0 = false) ∧
    (let s := resolvingAt (mapped .s) 0x1FFFC0000000
     let z := s.strand ⟨0, .s⟩
     (z.rh 3).state = .resolving ∧ (z.rh 3).base = BitVec.ofNat 64 (0x1FFFC0000000 / 65536 * 65536) ∧ z.spr.space = 0 ∧
       s.walkStalls 0 0 0x1FFFC0000000 = false ∧ s.flaws = [] ∧ ContextAt s 0 0x40000 15 ∧ (s.die 0).entries = [] ∧
       (s.physDword (0x40000 + 8 * (0x1FFFC0000000 / 2 ^ 30 % 2 ^ 15))).getLsbD 0 = false) ∧
    (let s := resolvingAt ((mapped .s).setPhys 0x7FFF8 8 (0x40000000 + 2 ^ 9 + 7)) 0x1FFFC0000000
     let e := s.physDword (0x40000 + 8 * (0x1FFFC0000000 / 2 ^ 30 % 2 ^ 15))
     ((s.strand ⟨0, .s⟩).rh 3).state = .resolving ∧ s.walkStalls 0 0 0x1FFFC0000000 = false ∧ ContextAt s 0 0x40000 15 ∧ e.getLsbD 0 = true) ∧
    (let s := resolvingAt (on .s) 0
     ¬(s.strand ⟨0, .s⟩).spr.space = 1 ∧ s.walkStalls 0 1 0 = false ∧ s.flaws = []) := by
  refine ⟨?_, ?_, ?_, ?_⟩ <;> decide +kernel

theorem meets_ResultsAndFetches_homes :
    (let s := on .s ({ · with lease := some (leased false) })
     (∀ i < 8, s.behind 0 (0x5FFC0 + 8 * i) = false ∧ s.homeHolds (0x5FFC0 + 8 * i) = false ∧ s.taken (s.homeOf (0x5FFC0 + 8 * i)) = false)) ∧
    (let l := { leased false with frame := 0x3000000000, expiry := 1, span := 8 }
     let s := on .s ({ · with lease := some l })
     let s := (s.setDie 1 { s.die 1 with offset := 2 }).setDie 0 { s.die 0 with inFault := true }
     (s.strand ⟨0, .s⟩).life = .running ∧ Covers l 0xFFC0 (s.dieTime 0).toNat ∧ s.flaws = [] ∧
       (∀ i < 8, s.behind 0 (0x300000FFC0 + 8 * i) = false ∧ s.homeHolds (0x300000FFC0 + 8 * i) = false ∧
         s.taken (s.homeOf (0x300000FFC0 + 8 * i)) = false) ∧
       mgmtAddr 0x300000FFC0 = false ∧ l.expiry.toNat ≤ (s.dieTime (homeDie (s.homeOf 0x300000FFC0))).toNat ∧ s.walkStalls 0 0 0xFFC0 = true) ∧
    (let s : State := { on .s ({ · with lease := some (leased false) }) with cycle := { Cycle.none with served := [0x5FFF8] } }
     (s.strand ⟨0, .s⟩).life = .running ∧ Covers (leased false) 0xFFC0 (s.dieTime 0).toNat ∧ ¬s.taken (s.homeOf (0x5FFC0 + 8 * 7)) = false) := by
  refine ⟨?_, ?_, ?_⟩ <;> decide +kernel

/-! ### Clauses of homes, ports and fences -/

/-- The slice of a location has served the port before the host's last, so that the host is next. -/
def hostNext (pa : Nat) (s : State) : State := { s with slices := Table.put s.slices (sliceOf pa) ((hostPort + 7) % 8) }

theorem hostNext_turn {pa port : Nat} {s u : State} (hu : u.slices = (hostNext pa s).slices) (hp : port < 8) (h : port ≠ hostPort) :
    u.portTurn (sliceOf pa) hostPort < u.portTurn (sliceOf pa) port := by
  have hh : hostPort < 8 := (Config.slicePort 512).isLt
  have hg : Table.get 7 u.slices (sliceOf pa) = (hostPort + 7) % 8 := by simp [hu, hostNext, Table.get_put]
  simp only [State.portTurn, hg]
  omega

theorem slices_due (s : State) (e : Event) : (s.due e).slices = s.slices := rfl

theorem hostReaches {s : State} {pa n : Nat} {wr : Bool} {x : Dword} (h : (s.plat.safe || s.homeHolds pa || mgmtAddr pa) = false) :
    s.reachOf (.hostAccess pa n wr x) = some (locOf (s.homeOf pa), hostPort) := by
  simp only [State.reachOf, h, Bool.false_eq_true, if_false]

/-- The host is about to read a location of which its port is next. -/
def hostDue : State := (hostNext 0x50000 (on .s)).due (.hostAccess 0x50000 8 false 0)

theorem hostDue_turn {port : Nat} (hp : port < 8) (h : port ≠ hostPort) :
    hostDue.portTurn (sliceOf 0x50000) hostPort < hostDue.portTurn (sliceOf 0x50000) port :=
  hostNext_turn (slices_due _ _) hp h

theorem meets_HomeAccesses_ports (h : corePort 0 ≠ hostPort) :
    let e : Event := .hostAccess 0x50000 8 false 0
    let a := access 0x50000 8 false (.load 63)
    e ∈ hostDue.agenda ∧ hostDue.held = [] ∧ hostDue.homeOf a.pa = 0x50000 ∧ hostDue.reachOf e = some (locOf (hostDue.homeOf 0x50000), hostPort) ∧
      hostDue.portTurn (sliceOf 0x50000) hostPort < hostDue.portTurn (sliceOf 0x50000) (accessPort a) ∧
      hostDue.late a 0x50000 = false ∧ hostDue.assigned 0x50000 = true :=
  ⟨by decide +kernel, by decide +kernel, by decide +kernel, hostReaches (by decide +kernel), hostDue_turn (Config.slicePort 0).isLt h,
    by decide +kernel, by decide +kernel⟩

theorem meets_HomeAccesses_free :
    ((on .s).passedBy hostPort 0x50007 = false ∧ locOf 0x50007 ∉ (on .s).cycle.served) ∧
    (let s : State := { on .s with cycle := { Cycle.none with served := [0x50000] } }
     locOf (s.homeOf 0x50000) ∈ s.cycle.served) := by
  refine ⟨?_, ?_⟩ <;> decide +kernel

theorem meets_HomeOrderAndMigrations_turns :
    (let s := crossed #v[0, 1, 0, 0]
     let a := access 0x50000 8 true (.store 7)
     locOf (s.homeOf a.pa) ∉ s.cycle.served ∧ s.passedBy (accessPort a) (s.homeOf a.pa) = false ∧ s.late a (s.homeOf a.pa) = false) ∧
    (let s : State := { crossed #v[0, 1, 0, 0] with cycle := { Cycle.none with served := [0x50000] } }
     let a := access 0x50000 8 true (.store 7)
     s.late a (s.homeOf a.pa) = false ∧ locOf (s.homeOf a.pa) ∈ s.cycle.served) ∧
    (let s : State := { on .s with held := [pointHolds 0x50000 64] }
     let pa := s.homeOf (locOf (pointHolds 0x50000 64).last.pa)
     locOf pa ∉ s.cycle.served ∧ s.passedBy (accessPort (pointHolds 0x50000 64).last) pa = false) ∧
    (let m : Migration := { Migration.reset with state := 1, old := 0x10000, new := 0x3000000000, prog := 0xFF00 }
     ((migrating m).die (homeDie (m.old.toNat + m.prog.toNat))).inFault = false ∧ ((migrating m).die (homeDie (m.new.toNat + m.prog.toNat))).inFault = false ∧
       (((migrating m).setDie 1 { (migrating m).die 1 with inFault := true }).die (homeDie (m.new.toNat + m.prog.toNat))).inFault = true) := by
  refine ⟨?_, ?_, ?_, ?_⟩ <;> decide +kernel

theorem meets_ClocksAndFencing_held :
    (let a := access 0x50000 8 true (.store 1)
     let s := ((on .s).setDie 0 { (on .s).die 0 with inFault := true }).timer 9 (.homeAccess a)
     (s.die 0).fenced = false ∧ s.dist.changes = [] ∧ s.insts = [] ∧ s.timers = [(9, .homeAccess a)] ∧ (s.die 0).inFault = true ∧
       homeDie (s.homeOf a.pa) = 0 ∧ mgmtAddr (s.homeOf a.pa) = false ∧ s.owes a = false ∧ s.behind a.who.core (locOf a.pa) = false) ∧
    (let a := { access 0xC100100000 8 true (.store 1) with who := ⟨128, .s⟩ }
     let s := (on .s).timer 9 (.homeAccess a)
     (s.die 0).fenced = false ∧ s.timers = [(9, .homeAccess a)] ∧ mgmtAddr (s.homeOf a.pa) = true ∧ dieOf a.who.core ≠ 0) := by
  refine ⟨?_, ?_⟩ <;> decide +kernel

/-! ### Clauses of the distributor -/

theorem meets_Dispatching_stalled :
    (let s := (world []).setDie 1 { (world []).die 1 with inFault := true }
     s.dist.electing = false ∧ s.calm = false ∧ (s.stall true).cycle.stalled = true ∧ s.cycle.stalled = false ∧ s.sending s.dist.master = false) ∧
    (let s := (world []).setDie 1 { (world []).die 1 with xwrites := [{ (default : XWrite) with sender := 0, vec := #v[1, 0, 0, 0] }] }
     let t := s.setDie 0 { s.die 0 with clock := #v[1, 0, 0, 0] }
     s.dist.electing = false ∧ s.dist.master = 0 ∧ s.calm = false ∧ s.sending 0 = true ∧ (t.die 0).clock[(0 : DieId)] ≠ (s.die 0).clock[(0 : DieId)]) ∧
    (world []).calm = true := by
  refine ⟨?_, ?_, ?_⟩ <;> decide +kernel

theorem meets_InstanceLife_area :
    let s := world []
    let e := s.physDword 0x40000
    ContextAt s 0 0x40000 15 ∧ (∀ d, (s.die d).entries = [] ∧ ∀ m ∈ (s.die d).migs, m.state = 0) ∧ s.mem.wf = true ∧ s.flaws = [] ∧
      e.getLsbD 0 = true ∧ e.getLsbD 1 = true ∧ e.getLsbD 2 = true ∧ fld e 5 3 < 2 ∧ fld e 15 10 = 0 ∧ fld e 63 57 = 0 ∧ fld e 9 6 ≠ 0 ∧
      fld e 56 16 * 2 ^ 16 % 2 ^ 30 = 0 ∧ s.assigned 0x40000000 = true ∧ s.assigned (0x40000000 + 2 ^ 30 - 1) = true ∧
      (partImage (s.core 0) s.now).wf = true ∧ Apart 0x40000000 0x208000 0x40000 8 ∧ Apart 0x40000000 0x208000 0x10000 32 := by
  refine ⟨?_, ?_, ?_, ?_, ?_, ?_, ?_, ?_, ?_, ?_, ?_, ?_, ?_, ?_, ?_, ?_, ?_⟩ <;> decide +kernel

theorem meets_InstanceLife_lost :
    let x := keptOf Core.reset
    let s := placed (inst .saved ({ · with slot := some (areaAt 0x40000000), kept := [x] }))
    OnCore s 1 0 ∧ Decides s ∧ (s.getInst 1).status = .saved ∧ (s.getInst 1).kept = [x] ∧ (s.getParts 0 0x40000000 [(0, x)]).2 ≠ none :=
  ⟨by decide +kernel, by decide +kernel, by decide +kernel, rfl, by decide +kernel⟩

theorem meets_FaultDomains_posts : ({ world [] with posts := [default] } : State).posts ≠ [] := by decide +kernel

/-! ### Clauses of the platform, the fabric and issue -/

theorem meets_StartAndAlarms_failing :
    (2 ≤ 2 ∧ 2 < 16 ∧ 2 ∉ [3, 8, 9, 11, 12, 15] ∧ (on .s).plat.fail = 0 ∧ Accepted (on .s).plat.imgA (on .s).plat.fctr) ∧
    (15 < 16 ∧ 15 ∈ [3, 8, 9, 11, 12, 15] ∧ 3 ∈ [3, 8, 9, 11, 12, 15] ∧ (on .s).plat.alarmpol.getLsbD 3 = true) ∧
    (let s := { on .s with plat := { Plat.reset with alarmpol := 0 } }
     s.plat.fail = 0 ∧ Accepted s.plat.imgA s.plat.fctr ∧ 3 < 12 ∧ s.plat.alarmpol.getLsbD 3 = false) :=
  ⟨⟨by decide, by decide, by decide, by decide +kernel, meets_StartAndAlarms_image⟩, by decide +kernel,
    ⟨by decide +kernel, meets_StartAndAlarms_image, by decide, by decide +kernel⟩⟩

theorem meets_MailboxCommands_dark :
    (let s := asking 8 0x3D 0 ({ · with alt := 0x2000 })
     fld (requested s 0) 2 0 ≤ 5 ∧ fld (requested s 0) 63 6 = 0 ∧ Dark s ∧ ¬Linkless s) ∧
    ¬Dark (asking 8 0x3D 0) := by
  refine ⟨?_, ?_⟩ <;> decide +kernel

/-- For each result of authentication, a flit of the new slot that says NAK is the last that the switch waits for. -/
theorem meets_LinkFlits_newSlot :
    (let l := { Link.reset with rxOld := true, rxSlot := true }
     let s := (((linked id).setLink 5 0 l).setLink 5 1 l).setLink 5 2 l
     let s : State := { s with fab := { s.fab with keys := s.fab.keys.set (keyIndex 5 true true).val (some { key := 1, swpt := 9 }) (by decide) } }
     let h : Dword := 0x90
     (s.link 5 3).up = true ∧ (s.link 5 3).training = false ∧ h.getLsbD 4 = (!(s.link 5 3).rxSlot) ∧ (s.link 5 3).rxOld = false ∧
       s.key 5 true (!(s.link 5 3).rxSlot) = some { key := 1, swpt := 9 } ∧ 0 % 65536 = fld h 47 32 ∧ fld h 3 0 = 0 ∧
       (∀ e : DieId, e ≠ 3 → (s.link 5 e).rxOld = true ∧ (s.link 5 e).rxSlot = !(s.link 5 3).rxSlot) ∧ h.getLsbD 7 = true) := by
  decide +kernel

theorem meets_LinkFlits_responses :
    (linked id).fabricOn = false ∧ (joined (on .s)).fabricOn = true ∧ responseOf PKind.ack = none ∧ responseOf PKind.write ≠ none ∧
      (packet .ack 0 []).dst = (linked id).peer := by decide +kernel

/-- The request of `meets_Packets_requests`, and the state it arrives in. -/
def wrote : Packet := packet .write 0xFFF8 [1, 2, 3, 4, 5, 6, 7, 8]

theorem meets_Packets_full :
    let h (n : Nat) : HeldReq := { id := n, pkt := { packet .write 0xFFF8 [1] with tag := BitVec.ofNat 32 (n + 2) }, page := 65536 * n, til := 1000000 }
    let s := attached (leased true)
    let s := s.setDie 3 { s.die 3 with heldReqs := (List.range 64).map fun n => h (n + 1) }
    s.fabricOn = true ∧ s.heldBefore { wrote with tag := 99 } = true ∧ (s.keepRequest 0 { wrote with tag := 99 } 0).isNone = true := by decide +kernel

theorem meets_Packets_sending :
    (let l := { leased true with frame := 0x3000000000 }
     let s := attached l
     let s := s.setDie 2 { s.die 2 with xwrites := [{ (default : XWrite) with sender := 0, a := access 0x60000 8 true (.store 1) }] }
     Serves s wrote ∧ s.portCached 0 wrote.space wrote.va = some l ∧ l.kind = 0 ∧ l.wr = true ∧ s.assigned (s.homeOf (l.at wrote.va)) = true ∧
       s.sending 0 = true ∧ (∃ a ∈ s.requestLocs l wrote, homeDie a ≠ 0) ∧ s.dieWaits 0 (s.requestLocs l wrote) = false) ∧
    (let s : State := { attached (leased true) with cycle := { Cycle.none with served := [0x5FFF8] } }
     Serves s wrote ∧ s.portCached 0 wrote.space wrote.va = some (leased true) ∧ ∃ a ∈ s.requestLocs (leased true) wrote, a / 8 * 8 ∈ s.cycle.served) := by
  refine ⟨?_, ?_⟩ <;> decide +kernel

/-- The host is about to read the location that the request reaches, and its port is next. -/
def hostBefore : State := (hostNext 0x5FFF8 (attached (leased true))).due (.hostAccess 0x5FFF8 8 false 0)

theorem meets_Packets_ports (h : fabricPort 0 ≠ hostPort) :
    Serves hostBefore wrote ∧ hostBefore.portCached 0 wrote.space wrote.va = some (leased true) ∧
      hostBefore.assigned (hostBefore.homeOf ((leased true).at wrote.va)) = true ∧
      hostBefore.requestLocs (leased true) wrote = [0x5FFF8] ∧ hostBefore.passedBy (fabricPort 0) 0x5FFF8 = true := by
  refine ⟨by decide +kernel, by decide +kernel, by decide +kernel, by decide +kernel, ?_⟩
  have ha : Event.hostAccess 0x5FFF8 8 false 0 ∈ hostBefore.agenda := by decide +kernel
  have hr : hostBefore.reachOf (.hostAccess 0x5FFF8 8 false 0) = some (locOf (hostBefore.homeOf 0x5FFF8), hostPort) :=
    hostReaches (by decide +kernel)
  have hl : locOf (hostBefore.homeOf 0x5FFF8) = locOf 0x5FFF8 := by decide +kernel
  have ht : hostBefore.portTurn (sliceOf 0x5FFF8) hostPort < hostBefore.portTurn (sliceOf 0x5FFF8) (fabricPort 0) :=
    hostNext_turn (slices_due _ _) (Config.slicePort 513).isLt h
  rw [State.passedBy, List.any_eq_true]
  exact ⟨_, ha, by rw [hr, hl]; simpa using ht⟩

theorem meets_Packets_came :
    (let s := { world [] with fab := { Fab.reset with cfg := 2 ^ 26 } }
     (s.die 0).arrived = [] ∧ s.time.toNat = s.time.toNat) ∧
    (let x := { packet .write 0xFFFF0000 [1, 2, 3, 4, 5, 6, 7, 8] with space := 1 }
     let page := x.va / 65536 * 65536
     let s : State := { world [] with fab := { Fab.reset with cfg := 2 ^ 26 }, time := 5 }
     let s := s.setDie 0 { s.die 0 with arrived := [(x, 2)] }
     let u := (s.setDie 0 { s.die 0 with heldReqs := [{ id := (s.die 0).nextReq, pkt := x, page := page, til := 1000002 }],
                                         nextReq := (s.die 0).nextReq + 1, arrived := [] }).timer 1000003 (.heldRequestTimeout 0 (s.die 0).nextReq)
     (s.die 0).arrived = [(x, 2)] ∧ Serves s x ∧ s.flaws = [] ∧ s.walkStalls 0 x.space x.va = false ∧ s.portCached 0 x.space x.va = none ∧
       (contextDword s x.space 0).getLsbD 0 = false ∧ (∀ e, (s.die e).heldReqs = []) ∧ s.pageAwaits x.space page = false ∧
       ((u.keepPath s.rfreg).postTo s.rfreg (u.destRecord 0 page x) { Inst.none with leaf := BitVec.ofNat 32 s.rfreg, space := x.space }).2 =
         (some 0x400000, 0)) := by
  refine ⟨?_, ?_⟩ <;> decide +kernel

theorem meets_IssueAndGuards_space :
    OfStrand (.mts 11 1 false) ∧ (Instr.mts 11 1 false).wf = true ∧ guards (.mts 11 1 false) = false ∧ ToSpace (.mts 11 1 false) ∧
      (on .s ({ · with guard := some false })).myInst.priv = false ∧ ¬ToSpace (.vadd 1 2 3 0 .i32) :=
  ⟨by decide, by decide, by decide, ⟨_, _, rfl⟩, by decide +kernel, fun h => by obtain ⟨_, _, h⟩ := h; cases h⟩

/-- A result with flags is on its way to `g5`, from a division where the flag is IDZ. -/
def awaiting (f : Flags) (i : StrandId) (g : Strand → Strand := id) : State := (on i g).timer 34 (.resultReady ⟨0, i⟩ (some 5) none f 0)

theorem comesTo_awaiting (f : Flags) : ComesTo (awaiting f .s) [1, 2, 5] :=
  ⟨_, .head _, 5, none, f, 0, rfl, by decide, by decide⟩

theorem comesNot {s : State} {regs : List GReg} (h : s.timers = []) : ¬ComesTo s regs := fun ⟨e, he, _⟩ => by simp [h] at he

theorem meets_IssueAndGuards_holds :
    (let s := awaiting 0x100 .s ({ · with full := BitVec.allOnes 64 - 2 })
     s.me.issues = true ∧ s.me.guard = none ∧ s.me.isFull 1 = false ∧ s.me.isFull 3 = true ∧ s.dividing = true ∧ s.resultDue [1, 2, 3] [] = false) ∧
    (let s := holding .s { served true with state := .resolving } 0
     let s := s.setMe { s.me with full := 0 }
     s.me.issues = true ∧ s.me.guard = none ∧ s.me.isFull 1 = false ∧ s.me.isFull 2 = false ∧ s.timers = [] ∧
       (s.me.rh 3).state = .resolving ∧ (s.me.rh 4).state ≠ .resolving ∧ s.inFlight s.turn = false) ∧
    (let s := storing.setMe { storing.me with full := 0 }
     s.me.issues = true ∧ s.me.isFull 1 = false ∧ s.timers = [] ∧ s.inFlight s.turn = true) := by
  refine ⟨?_, ?_, ?_⟩ <;> decide +kernel

theorem meets_Exceptions_calm : (world []).calm = true ∧ (world []).posts = [] := by decide +kernel

/-! ### The number formats -/

theorem means_one : Means (FFmt.fp32.decode 0x3F800000) 1 := by
  have h : FFmt.fp32.decode 0x3F800000 = .fin false 8388608 (-23) := by decide +kernel
  rw [h]; norm_num [Means]

theorem means_two : Means (FFmt.fp32.decode 0x40000000) 2 := by
  have h : FFmt.fp32.decode 0x40000000 = .fin false 8388608 (-22) := by decide +kernel
  rw [h]; norm_num [Means]

theorem means_neg : Means (FFmt.fp32.decode 0xBF800000) (-1) := by
  have h : FFmt.fp32.decode 0xBF800000 = .fin true 8388608 (-23) := by decide +kernel
  rw [h]; norm_num [Means]

theorem means_least : Means (FFmt.fp32.decode 0xC3150000) (-149 : ℤ) := by
  have h : FFmt.fp32.decode 0xC3150000 = .fin true 9764864 (-16) := by decide +kernel
  rw [h]; norm_num [Means]

theorem means_most : Means (FFmt.fp32.decode 0x42FE0000) (127 : ℤ) := by
  have h : FFmt.fp32.decode 0x42FE0000 = .fin false 16646144 (-17) := by decide +kernel
  rw [h]; norm_num [Means]

theorem meets_FloatResults_formats : IeeeFormat .fp32 ∧ IeeeFormat .fp16 ∧ IeeeFormat .bf16 := by decide

theorem meets_FloatResults_patterns :
    (0x7FFF < 2 ^ (FFmt.bf16.fb + FFmt.bf16.eb + 1) ∧ 0x007F / 2 ^ FFmt.bf16.fb % 2 ^ FFmt.bf16.eb = 0) ∧
    (0xFF7F < 2 ^ (FFmt.bf16.fb + FFmt.bf16.eb + 1) ∧ 0xFF7F / 2 ^ FFmt.bf16.fb % 2 ^ FFmt.bf16.eb < 2 ^ FFmt.bf16.eb - 1) ∧
    (0xFFFF < 2 ^ (FFmt.fp16.fb + FFmt.fp16.eb + 1) ∧ 0xFFFF / 2 ^ FFmt.fp16.fb % 2 ^ FFmt.fp16.eb = 2 ^ FFmt.fp16.eb - 1) := by decide

theorem meets_FloatResults_sums :
    ((1 : ℝ) + 2 ≠ 0 ∧ (1 : ℝ) - 2 ≠ 0 ∧ (1 : ℝ) * 2 ≠ 0 ∧ (1 : ℝ) + 1 * 2 ≠ 0 ∧ (1 : ℝ) < 2) ∧ ((1 : ℝ) + -1 = 0) ∧
    (FFmt.fp32.decode 0x80000000 = .zero true ∧ Means (FFmt.fp32.decode 0x80000000) 0 ∧ FFmt.fp32.decode 0 = .zero false ∧
      Means (FFmt.fp32.decode 0) 0) := by
  have h : FFmt.fp32.decode 0x80000000 = .zero true := by decide +kernel
  have k : FFmt.fp32.decode 0 = .zero false := by decide +kernel
  exact ⟨by norm_num, by norm_num, h, by rw [h]; rfl, k, by rw [k]; rfl⟩

theorem meets_FloatResults_specials :
    FFmt.fp32.decode 0x7F800001 = .nan ∧ FFmt.fp32.decode 0x7F800000 = .inf false ∧ FFmt.fp32.decode 0xFF800000 = .inf (!false) ∧
      FFmt.fp32.decode 0x80000000 = .zero true ∧ FFmt.fp32.decode 0x3F800000 ≠ .nan := by decide +kernel

theorem meets_FloatResults_estimates :
    (∃ a x, Means (FFmt.fp32.decode a) x ∧ x ≠ 0 ∧ 0 < x) ∧ (∃ a x, Means (FFmt.fp32.decode a) x ∧ x < 0) ∧
    (∃ a x, Means (FFmt.fp32.decode a) x ∧ x = (-149 : ℤ)) ∧ ∃ a x, Means (FFmt.fp32.decode a) x ∧ x = (127 : ℤ) :=
  ⟨⟨_, _, means_one, by norm_num, by norm_num⟩, ⟨_, _, means_neg, by norm_num⟩, ⟨_, _, means_least, rfl⟩, ⟨_, _, means_most, rfl⟩⟩

end Sys2Proof.Tests
end

section
/-!
PROOF. What `issue` answers on a strand that is ready, in the words of the statements: the strand it leaves, the fault it takes, the
wait it begins.
-/

namespace Sys2Proof.Proofs

open Sys2Proof Sys2Proof.Machine Sys2Proof.Claims

/-! ### The counted strand -/

theorem count_eq_counted (z : Strand) : z.count = counted z := rfl
@[simp] theorem counted_pc (z : Strand) : (counted z).pc = z.pc := rfl
@[simp] theorem counted_rg (z : Strand) (r : GReg) : (counted z).rg r = z.rg r := rfl
@[simp] theorem counted_rp (z : Strand) (n : PReg) : (counted z).rp n = z.rp n := rfl
@[simp] theorem counted_issues (z : Strand) : (counted z).issues = z.issues := rfl

/-- SPCNT and the `g` registers are written independently. -/
theorem counted_wg (z : Strand) (d : GReg) (x : Dword) : (counted z).wg d x = counted (z.wg d x) := by
  unfold Strand.wg
  split <;> rfl

theorem counted_wp (z : Strand) (d : PReg) (b : Bool) : (counted z).wp d b = counted (z.wp d b) := by
  unfold Strand.wp
  split <;> rfl

@[simp] theorem wg_issues (z : Strand) (d : GReg) (x : Dword) : (z.wg d x).issues = z.issues := by simp [Strand.issues]
@[simp] theorem wp_issues (z : Strand) (d : PReg) (b : Bool) : (z.wp d b).issues = z.issues := by simp [Strand.issues]

/-! ### Passing and jumping -/

theorem advance_issuing (z : Strand) (len : Nat) : { z.advance len with cond := .issuing } = passed z len := by
  simp only [Strand.advance, passed, EndsPass, after]
  by_cases h : z.pc + dw (2 * len) = z.block.start + dw (2 * z.block.len)
  · by_cases k : 1 < z.block.remain <;> simp [h, k]
  · simp [h]

/-- A unit that leaves a running strand as `z` passes it on (R31). -/
theorem pass_of_issues (s : State) (z : Strand) (len : Nat) (h : z.issues = true) :
    (s.setMe z).pass len = s.setMe (passed z len) := by
  rw [State.pass_setMe, if_pos h, advance_issuing]

/-- A step put off does not hold up the strand (R31). -/
theorem pass_timer (s : State) (t : Nat) (e : Event) (len : Nat) : (s.timer t e).pass len = (s.pass len).timer t e := rfl

theorem jump_counted (z : Strand) (t : Dword) : (counted z).jump t = entered z t := rfl

/-! ### Checks that hold -/

theorem overrun_eq_false {s : State} (h : ¬Overrun s) : s.overrun = false := by
  rw [State.overrun, Bool.and_eq_false_imp]
  exact fun hp => decide_eq_false fun hn => h ⟨hp, hn⟩

/-- A result on its way into none of some registers is on its way into none of fewer (R23). -/
theorem resultDue_of_subset {s : State} {gs hs : List GReg} (h : s.resultDue gs [] = false) (hsub : hs ⊆ gs) :
    s.resultDue hs [] = false := by
  rw [State.resultDue, List.any_eq_false] at h ⊢
  intro x hx hb
  refine h x hx ?_
  obtain ⟨t, e⟩ := x
  cases e <;> simp only [Event.brings, Bool.false_eq_true] at hb ⊢
  case resultReady w g v f n =>
    cases g with
    | none => exact hb
    | some r =>
      simp only [Option.any_some, List.contains_eq_mem, Bool.and_eq_true, Bool.or_eq_true, decide_eq_true_eq] at hb ⊢
      exact ⟨hb.1, hb.2.imp_left fun hr => ⟨hr.1, hsub hr.2⟩⟩

/-- The instruction is one of every strand, and its `g` operands are among the registers `regs`. -/
structure Names (u : Use) (regs : List GReg) : Prop where
  on : u.on = anyStrand
  src : u.src.map (·.1) ⊆ regs
  dst : u.dst ⊆ regs

/-- Moreover it is no safe point, and no hold of its own stands in `s`. -/
structure Asks (u : Use) (regs : List GReg) (s : State) : Prop extends Names u regs where
  safe : u.safe = false
  hold : u.hold s = none

theorem issues_of_ready {s : State} {regs : List GReg} (h : Ready s everyStrand regs) : s.me.issues = true := h.1.1

section
variable {u : Use} {s : State} {regs : List GReg} {d a b : GReg} {ta tb : Bool}

theorem asks_useR (hd : d ∈ regs) (ha : a ∈ regs) (hb : b ∈ regs) : Asks (useR d a b ta tb) regs s :=
  ⟨⟨rfl, by simpa [useR] using ⟨ha, hb⟩, by simpa [useR] using hd⟩, rfl, rfl⟩

theorem asks_useR1 (hd : d ∈ regs) (ha : a ∈ regs) : Asks (useR1 d a ta) regs s :=
  ⟨⟨rfl, by simpa [useR1] using ha, by simpa [useR1] using hd⟩, rfl, rfl⟩

theorem asks_useS {len : Nat} {src : List (GReg × Bool)} (h : src.map (·.1) ⊆ regs) : Asks (useS len src) regs s :=
  ⟨⟨rfl, h, List.nil_subset _⟩, rfl, rfl⟩

theorem asks_useD {len : Nat} (h : d ∈ regs) : Asks (useD len d) regs s :=
  ⟨⟨rfl, List.nil_subset _, by simpa [useD] using h⟩, rfl, rfl⟩

theorem asks_use0 {len : Nat} : Asks (use0 len) regs s := asks_useS (List.nil_subset _)

/-- What the checks of `issue` need, of a ready strand and an instruction of its registers (R17, R23, R25, R36, R119). -/
theorem checks_of_ready (h : Ready s everyStrand regs) (ha : Asks u regs s) :
    s.turn.strand ∈ u.on ∧ s.me.guard ≠ some false ∧ (∀ x ∈ u.src, s.me.isFull x.1 = true) ∧
      (∀ r ∈ u.dst, s.me.isFull r = true) ∧ s.resultDue (u.dst ++ u.src.map (·.1)) [] = false ∧ s.overrun = false := by
  obtain ⟨⟨_, hon, hg, hfull, hdue⟩, hover⟩ := h
  exact ⟨ha.on ▸ hon, hg, fun x hx => hfull _ (ha.src (List.mem_map_of_mem hx)), fun r hr => hfull r (ha.dst hr),
    resultDue_of_subset hdue (List.append_subset.2 ⟨ha.dst, ha.src⟩), overrun_eq_false hover⟩

/-- A body that completes: the strand passes its unit. -/
theorem issue_next_of_ready {body : State → Body} {t : State} (h : Ready s everyStrand regs) (ha : Asks u regs s)
    (hb : body (s.setMe (counted s.me)) = .next t) : issue u body s = .next (t.pass u.len) := by
  obtain ⟨hon, hg, hsrc, hdst, hdue, hover⟩ := checks_of_ready h ha
  rw [issue_of_full u body s hon hg hsrc hdst hdue ha.hold (.inl hover), ha.safe, if_neg Bool.false_ne_true,
    count_eq_counted, hb]

/-- A body that jumps: the strand leaves its block (R32). -/
theorem issue_jump_of_ready {body : State → Body} {t : State} {a : Dword} (h : Ready s everyStrand regs) (ha : Asks u regs s)
    (hb : body (s.setMe (counted s.me)) = .jump t a) : issue u body s = .next (t.setMe (t.me.jump a)) := by
  obtain ⟨hon, hg, hsrc, hdst, hdue, hover⟩ := checks_of_ready h ha
  rw [issue_of_full u body s hon hg hsrc hdst hdue ha.hold (.inl hover), ha.safe, if_neg Bool.false_ne_true,
    count_eq_counted, hb]

/-- A body that traps changes nothing else (R111). -/
theorem issue_trap_of_ready {body : State → Body} {c : BitVec 16} (h : Ready s everyStrand regs) (ha : Asks u regs s)
    (hb : body (s.setMe (counted s.me)) = .trap c 0 0) : issue u body s = traps s c := by
  obtain ⟨hon, hg, hsrc, hdst, hdue, hover⟩ := checks_of_ready h ha
  rw [issue_of_full u body s hon hg hsrc hdst hdue ha.hold (.inl hover), ha.safe, if_neg Bool.false_ne_true,
    count_eq_counted, hb]
  rfl

/-- A body that changes the strand alone, once it is counted, leaves it as `z`. -/
theorem issue_leaves {body : State → Body} {z : Strand} (h : Ready s everyStrand regs) (ha : Asks u regs s)
    (hz : z.issues = true) (hb : body (s.setMe (counted s.me)) = .next (s.setMe (counted z))) :
    issue u body s = leaves s u.len z := by
  rw [issue_next_of_ready h ha hb, pass_of_issues s (counted z) _ hz]
  rfl

/-- A body that writes one `g` register (R87). -/
theorem issue_puts {d : GReg} {f : Strand → Dword} (h : Ready s everyStrand regs) (ha : Asks u regs s) :
    issue u (writeG d f) s = puts s u.len d (f (counted s.me)) := by
  refine issue_leaves h ha (by simpa using issues_of_ready h) ?_
  simp [writeG, counted_wg]

/-- A body that writes one predicate (R94). -/
theorem issue_putsP {d : PReg} {f : Strand → Bool} (h : Ready s everyStrand regs) (ha : Asks u regs s) (hlen : u.len = 2) :
    issue u (writeP d f) s = putsP s d (f (counted s.me)) := by
  rw [putsP, ← hlen]
  refine issue_leaves h ha (by simpa using issues_of_ready h) ?_
  simp [writeP, counted_wp]

/-- A body that jumps and leaves the counted strand as `z` enters the block at its target (R32). -/
theorem issue_entered {body : State → Body} {z : Strand} {a : Dword} (h : Ready s everyStrand regs) (ha : Asks u regs s)
    (hb : body (s.setMe (counted s.me)) = .jump (s.setMe (counted z)) a) :
    issue u body s = .next (s.setMe (entered z a)) := by
  rw [issue_jump_of_ready h ha hb, State.me_setMe, State.setMe_setMe, jump_counted]

end

/-! ### Waiting -/

/-- Settling leaves memory and the strand whose turn it is alone (R115, R121). -/
theorem settleHere_me (s : State) : s.settleHere.me = s.me ∧ s.settleHere.mem = s.mem := by
  unfold State.settleHere
  split
  · next k _ =>
    obtain ⟨i, a, t, h⟩ := State.settle_eq s k
    rw [h]
    exact ⟨rfl, rfl⟩
  · exact ⟨rfl, rfl⟩

/-- The semaphore's waiters stand outside the strands. -/
theorem strand_setCore_semWait (s : State) (w : Who) (x : List SemWait) :
    (s.setCore w.core { s.core w.core with semWait := x }).strand w = s.strand w := by
  rw [State.strand, State.core_setCore, State.strand]
  cases w.strand <;> rfl

/-- A strand that leaves its wait changes in nothing but that (R140). -/
theorem unregister_me (s : State) :
    (s.unregister s.turn).mem = s.mem ∧ (s.unregister s.turn).me = { s.me with wait := .none } := by
  unfold State.unregister
  dsimp only
  rw [strand_setCore_semWait]
  split <;> exact ⟨rfl, State.strand_setStrand _ _ _⟩

/-- The strand of a unit that waits: back at its beginning, its SPCNT 0 in a safe condition (R24, R118). -/
def waiting (z : Strand) (c : StrandCond) : Strand :=
  { z.rewind with cond := c, spr := { z.rewind.spr with spcnt := if c.safe then 0 else z.rewind.spr.spcnt } }

/-- The strand whose turn it is stops where it waits (R120). -/
def stoppedThere (s : State) : State :=
  let s := s.unregister s.turn
  (s.setMe { s.me with held := .live, live := BitVec.allOnes 64 }).settleHere

/-- A strand that blocks waits; it stops there when it must stop and the condition lets it (R120). -/
theorem block_eq (s : State) (c : StrandCond) :
    s.block c =
      if (s.setMe (waiting s.me c)).myInst.stopping && (c.safe || c.withdrawn) then stoppedThere (s.setMe (waiting s.me c))
      else s.setMe (waiting s.me c) := rfl

theorem stoppedThere_me (s : State) :
    (stoppedThere s).me = { s.me with held := .live, live := BitVec.allOnes 64, wait := .none } ∧ (stoppedThere s).mem = s.mem := by
  obtain ⟨hmem, hme⟩ := unregister_me s
  obtain ⟨kme, kmem⟩ := settleHere_me
    ((s.unregister s.turn).setMe { (s.unregister s.turn).me with held := .live, live := BitVec.allOnes 64 })
  exact ⟨kme.trans (by rw [State.me_setMe, hme]), kmem.trans hmem⟩

/-- A strand that waits has not moved, whether or not it must stop there (R24, R120). -/
theorem block_stays (s : State) (c : StrandCond) : Stays s (s.block c) c := by
  rw [block_eq]
  split
  · obtain ⟨hme, hmem⟩ := stoppedThere_me (s.setMe (waiting s.me c))
    rw [Stays, hme, hmem, State.me_setMe]
    exact ⟨rfl, rfl, rfl, fun _ => rfl, rfl, rfl, rfl⟩
  · rw [Stays, State.me_setMe]
    exact ⟨rfl, rfl, rfl, fun _ => rfl, rfl, rfl, rfl⟩

theorem waits_of_block {s : State} {i : Instr} {c : StrandCond} (h : exec i s = .next (s.block c)) : Waits s i c :=
  ⟨_, h, block_stays s c⟩

section
variable {u : Use} {body : State → Body} {s : State}

/-- The checks before the sources hold (R17, R36). -/
theorem issue_on_of_begins (h : Begins s) (hon : u.on = anyStrand) :
    (!u.on.contains s.turn.strand) = false ∧ (s.me.guard == some false) = false := by
  rw [hon, h.2]
  cases s.turn.strand <;> exact ⟨rfl, rfl⟩

/-- An empty source without a trap bit blocks (R25). -/
theorem issue_empty_source (h : Begins s) (hon : u.on = anyStrand) {r : GReg} (hr : (r, false) ∈ u.src)
    (he : s.me.isFull r = false) : issue u body s = .next (s.block .fullEmpty) := by
  obtain ⟨e1, e2⟩ := issue_on_of_begins h hon
  have e3 : (u.src.any fun x => !x.2 && !s.me.isFull x.1) = true := List.any_eq_true.2 ⟨_, hr, by simp [he]⟩
  simp only [issue, e1, e2, e3, Bool.false_eq_true, if_false, if_true]

/-- An empty destination holds the instruction by the interlock (R23, R25). -/
theorem issue_empty_destination (h : Begins s) (hon : u.on = anyStrand) (hsrc : u.src = []) {r : GReg} (hr : r ∈ u.dst)
    (he : s.me.isFull r = false) : issue u body s = .next (s.block .interlock) := by
  obtain ⟨e1, e2⟩ := issue_on_of_begins h hon
  have e4 : (u.dst.any fun r => !s.me.isFull r) = true := List.any_eq_true.2 ⟨_, hr, by simp [he]⟩
  simp only [issue, e1, e2, e4, hsrc, List.any_nil, Bool.true_or, Bool.false_eq_true, if_false, if_true]

/-- A hold of R23 makes an instruction wait whose registers are full and not due. -/
theorem issue_held {regs : List GReg} {c : StrandCond} (h : Begins s) (hu : Names u regs) (hfull : ∀ r ∈ regs, s.me.isFull r = true)
    (hdue : s.resultDue regs [] = false) (hh : u.hold s = some c) : issue u body s = .next (s.block c) := by
  obtain ⟨e1, e2⟩ := issue_on_of_begins h hu.on
  have e3 : (u.src.any fun x => !x.2 && !s.me.isFull x.1) = false := by
    rw [List.any_eq_false]
    intro x hx
    simp [hfull _ (hu.src (List.mem_map_of_mem hx))]
  have e4 : (u.dst.any fun r => !s.me.isFull r) = false := by
    rw [List.any_eq_false]
    intro r hr
    simp [hfull r (hu.dst hr)]
  have e5 := resultDue_of_subset hdue (List.append_subset.2 ⟨hu.dst, hu.src⟩)
  simp only [issue, e1, e2, e3, e4, e5, hh, Bool.or_false, Bool.false_eq_true, if_false]

end

end Sys2Proof.Proofs
end

section
/-!
PROOF. Compares, predicate logic and the moves of the predicates (R94, R95).
-/

namespace Sys2Proof.Proofs

open Sys2Proof Sys2Proof.Machine Sys2Proof.Claims

section
variable {s : State} {regs : List GReg}

/-- A register compare writes what it finds (R94). -/
theorem cmpR_puts {d : PReg} {a b : GReg} {ta tb : Bool} (f : Dword → Dword → Bool) (h : Ready s everyStrand [a, b]) :
    cmpR d a b ta tb f s = putsP s d (f (s.me.rg a) (s.me.rg b)) := issue_putsP h (asks_useS (by simp)) rfl

theorem execCmpi_puts {d : PReg} {a : GReg} {c : Cond} {i : BitVec 9} (h : Ready s everyStrand regs) (ha : a ∈ regs) :
    execCmpi d a c i s = putsP s d (condHolds c (s.me.rg a) (sext64 i)) := issue_putsP h (asks_useS (by simpa using ha)) rfl

theorem predR_puts {d a b : PReg} (f : Bool → Bool → Bool) (h : Ready s everyStrand regs) :
    predR d a b f s = putsP s d (f (s.me.rp a) (s.me.rp b)) := issue_putsP h asks_use0 rfl

end

/-- The signed value of an immediate is kept by its sign extension (R43). -/
theorem toInt_sext64 {n : Nat} (i : BitVec n) (h : n ≤ 64) : (sext64 i).toInt = i.toInt :=
  BitVec.toInt_signExtend_of_le h

/-- PGET reads the predicate register with `p0` as 1 (R94). -/
theorem getLsbD_or_one (p : Dword) (i : Nat) : (p ||| 1).getLsbD i = (decide (i = 0) || p.getLsbD i) := by
  rw [BitVec.getLsbD_or, Bool.or_comm]
  exact congrArg (· || _) (BitVec.getLsbD_one.trans (by simp))

theorem rp_ofFin (z : Strand) (i : Fin 64) : z.rp (BitVec.ofFin i) = (decide (i.val = 0) || z.p.getLsbD i) := by
  have h : (BitVec.ofFin i : PReg) = 0 ↔ i.val = 0 := by rw [← BitVec.toNat_inj]; rfl
  rw [Strand.rp, beq_eq_decide, decide_eq_decide.2 h]
  rfl

/-- Settles O4: each instruction writes the predicate or the register that its body computes, and an empty source of CMPI blocks. -/
theorem comparesAndPredicates : Obligations.ComparesAndPredicates := by
  unfold Obligations.ComparesAndPredicates
  refine ⟨⟨?_, ?_⟩, ?_⟩
  · intro s d a b i ta tb h
    have hk : sext64 i = BitVec.ofInt 64 i.toInt := rfl
    have hi : (BitVec.ofInt 64 i.toInt).toInt = i.toInt := toInt_sext64 i (by decide)
    have hc (c : Cond) : execCmpi d a c i s = putsP s d (condHolds c (s.me.rg a) (sext64 i)) := execCmpi_puts h (by simp)
    simp only [exec_cmpeq, execCmpeq, exec_cmpne, execCmpne, exec_cmplt, execCmplt, exec_cmpltu, execCmpltu, exec_cmple, execCmple,
      exec_cmpleu, execCmpleu, cmpR_puts _ h, exec_cmpi, hc, condHolds, hk, hi, bne, beq_eq_decide, ne_eq, decide_not, and_self]
  · intro s d a c i h he
    apply waits_of_block
    rw [exec_cmpi]
    exact issue_empty_source h rfl (List.mem_singleton_self _) he
  · intro s d a b r ta h
    simp only [exec_pand, execPand, exec_por, execPor, exec_pxor, execPxor, exec_pandn, execPandn, predR_puts _ h, exec_pnot, execPnot,
      exec_pmov, execPmov, exec_pget, execPget, exec_pset, execPset]
    refine ⟨trivial, trivial, trivial, trivial, issue_putsP h asks_use0 rfl,
      issue_putsP h asks_use0 rfl, ⟨s.me.p ||| 1, issue_puts h (asks_useD (by simp)), fun i => ?_⟩,
      ⟨s.me.rg r ||| 1, issue_leaves h (asks_useS (by simp)) (issues_of_ready h) ?_, fun i hi => ?_⟩⟩
    · rw [getLsbD_or_one, rp_ofFin]
    · simp only [State.me_setMe, State.setMe_setMe, counted_rg]
      rfl
    · rw [getLsbD_or_one, decide_eq_false (Fin.val_ne_zero_iff.2 hi), Bool.false_or]

end Sys2Proof.Proofs
end

section
/-!
PROOF. Branches, calls and register jumps (R96 to R98).
-/

namespace Sys2Proof.Proofs

open Sys2Proof Sys2Proof.Machine Sys2Proof.Claims

/-- A branch of `off` halfwords from the instruction of `s`: into the code space, where the counted strand is left as `z`, or an
illegal operand (R96). -/
def branched (s : State) (off : Int) (z : Strand) : Out :=
  let t : Int := s.me.pc.toNat + 2 * off
  if 0 ≤ t ∧ t < 2 ^ 45 then .next (s.setMe (entered z (BitVec.ofInt 64 t))) else traps s 0x0002

/-- A jump to `t`, which must be an even address of the code space (R98). -/
def jumped (s : State) (t : Dword) (z : Strand) : Out :=
  if t.toNat % 2 = 0 ∧ t.toNat < 2 ^ 45 then .next (s.setMe (entered z t)) else traps s 0x0002

theorem codeAddr_iff (t : Dword) : codeAddr t = true ↔ t.toNat % 2 = 0 ∧ t.toNat < 2 ^ 45 := by
  rw [codeAddr, Bool.and_eq_true, decide_eq_true_iff, BitVec.getLsbD, Nat.testBit_zero]
  simp [Config.codeLimit]

/-- A branch jumps where its target is in the code space (R96). -/
theorem takeBranch_eq {n : Nat} (off : BitVec n) (s : State) :
    takeBranch off s =
      if 0 ≤ branchTarget s.me.pc off ∧ branchTarget s.me.pc off < 2 ^ 45 then .jump s (BitVec.ofInt 64 (branchTarget s.me.pc off))
      else illegalOperand := by
  rw [takeBranch, ← ite_not]
  congr 1
  rw [eq_iff_iff, not_or, not_lt, not_le]
  rfl

section
variable {u : Use} {s : State} {regs : List GReg}

/-- A body that jumps, or finds an illegal operand and changes nothing (R96, R98). -/
theorem issue_jump_or_illegal {body : State → Body} {c : Prop} [Decidable c] {z : Strand} {a : Dword}
    (h : Ready s everyStrand regs) (ha : Asks u regs s)
    (hb : body (s.setMe (counted s.me)) = if c then .jump (s.setMe (counted z)) a else illegalOperand) :
    issue u body s = if c then .next (s.setMe (entered z a)) else traps s 0x0002 := by
  split at hb
  · next hc => rw [if_pos hc, issue_entered h ha hb]
  · next hc => rw [if_neg hc, issue_trap_of_ready h ha hb]

theorem issue_branched {body : State → Body} {n : Nat} {off : BitVec n} (h : Ready s everyStrand regs) (ha : Asks u regs s)
    (hb : body (s.setMe (counted s.me)) = takeBranch off (s.setMe (counted s.me))) :
    issue u body s = branched s off.toInt s.me := by
  refine issue_jump_or_illegal h ha ?_
  rw [hb, takeBranch_eq, State.me_setMe]
  rfl

/-- A register jump whose body leaves the counted strand as `z` before it goes on. -/
theorem issue_jumped {body : State → Body} {z : Strand} {t : Dword} (h : Ready s everyStrand regs) (ha : Asks u regs s)
    (hb : body (s.setMe (counted s.me)) = jumpTo t (s.setMe (counted z))) :
    issue u body s = jumped s t z := by
  refine issue_jump_or_illegal h ha ?_
  rw [hb, jumpTo]
  simp only [codeAddr_iff]

/-- CALL writes its link where it branches, and nothing where its target is illegal (R97). -/
theorem execCall_branched {c : BitVec 24} (h : Ready s everyStrand regs) (h63 : 63 ∈ regs) :
    execCall c s = branched s c.toInt (s.me.wg 63 (s.me.pc + 4)) := by
  have hb := takeBranch_eq c (s.setMe (counted s.me))
  rw [State.me_setMe, counted_pc] at hb
  refine issue_jump_or_illegal h (asks_useD h63) ?_
  by_cases hc : 0 ≤ branchTarget s.me.pc c ∧ branchTarget s.me.pc c < 2 ^ 45
  · simp only [hb, if_pos hc, linkOf, State.me_setMe, State.setMe_setMe, counted_wg]
    exact (if_pos hc).symm
  · simp only [hb, if_neg hc]
    exact (if_neg hc).symm

end

/-- Settles O5: a body jumps or finds an illegal operand, by its target; an empty `g63` is CALL's destination and RET's source. -/
theorem branches : Obligations.Branches := by
  unfold Obligations.Branches
  refine ⟨fun s n p o c w d a ta h => ?_, fun s c h he => ⟨?_, ?_⟩⟩
  · rw [exec_br, exec_cBr, exec_call, exec_jr, exec_jalr, exec_ret]
    refine ⟨?br, ?cBr, execCall_branched h (by simp), ?jr, ?jalr, ?ret⟩
    case br =>
      by_cases hp : s.me.rp p = n
      · rw [if_neg (not_not_intro hp)]
        exact issue_leaves h asks_use0 (issues_of_ready h) (by simp [hp])
      · rw [if_pos hp]
        exact issue_branched h asks_use0 (by simp [hp])
    case cBr => exact issue_branched h asks_use0 rfl
    case jr => exact issue_jumped h (asks_useS (by simp)) (by simp)
    case jalr => exact issue_jumped h (asks_useR1 (by simp) (by simp)) (by simp [linkOf, counted_wg])
    case ret => exact issue_jumped h (asks_useS (by simp)) (by simp)
  · apply waits_of_block
    rw [exec_call]
    exact issue_empty_destination h rfl rfl (List.mem_singleton_self _) he
  · apply waits_of_block
    rw [exec_ret]
    exact issue_empty_source h rfl (List.mem_singleton_self _) he

end Sys2Proof.Proofs
end

section
/-!
PROOF. Divisions and remainders (R90), field extract and insert (R91).
-/

namespace Sys2Proof.Proofs

open Sys2Proof Sys2Proof.Machine Sys2Proof.Claims

/-! ### Quotients and remainders -/

/-- A remainder is what the quotient leaves of the dividend (R90). -/
theorem ofInt_tmod (x y : Dword) :
    BitVec.ofInt 64 (x.toInt.tmod y.toInt) = x - BitVec.ofInt 64 (x.toInt.tdiv y.toInt) * y := by
  rw [Int.tmod_def, Int.mul_comm, Int.sub_eq_add_neg, BitVec.ofInt_add, BitVec.ofInt_neg, BitVec.ofInt_mul, BitVec.ofInt_toInt,
    BitVec.ofInt_toInt, ← BitVec.sub_eq_add_neg]

theorem ofNat_mod (x y : Dword) : BitVec.ofNat 64 (x.toNat % y.toNat) = x - BitVec.ofNat 64 (x.toNat / y.toNat) * y := by
  rw [BitVec.eq_sub_iff_add_eq]
  calc BitVec.ofNat 64 (x.toNat % y.toNat) + BitVec.ofNat 64 (x.toNat / y.toNat) * y
      = BitVec.ofNat 64 (x.toNat % y.toNat) + BitVec.ofNat 64 (x.toNat / y.toNat) * BitVec.ofNat 64 y.toNat := by
        rw [BitVec.ofNat_toNat, BitVec.setWidth_eq]
    _ = BitVec.ofNat 64 (x.toNat % y.toNat + x.toNat / y.toNat * y.toNat) := by rw [BitVec.ofNat_add, BitVec.ofNat_mul]
    _ = x := by rw [Nat.mod_add_div', BitVec.ofNat_toNat, BitVec.setWidth_eq]

/-- The one quotient that does not fit wraps to the least value, and leaves no remainder (R90). -/
theorem ofInt_tdiv_min {x y : Dword} (hx : x.toInt = -2 ^ 63) (hy : y.toInt = -1) :
    BitVec.ofInt 64 (x.toInt.tdiv y.toInt) = 0x8000000000000000#64 ∧ BitVec.ofInt 64 (x.toInt.tmod y.toInt) = 0#64 := by
  rw [hx, hy]
  decide

/-- DIVS of a divisor other than 0 (R90). -/
theorem divs_of_ne {x y : Dword} (h : y ≠ 0) :
    divs x y = if x.toInt = -2 ^ 63 ∧ y.toInt = -1 then 0x8000000000000000#64 else BitVec.ofInt 64 (x.toInt.tdiv y.toInt) := by
  rw [divs, if_neg h]
  split
  · next hc => exact (ofInt_tdiv_min hc.1 hc.2).1
  · rfl

/-- REMS of a divisor other than 0 (R90). -/
theorem rems_of_ne {x y : Dword} (h : y ≠ 0) :
    rems x y = if x.toInt = -2 ^ 63 ∧ y.toInt = -1 then 0#64 else x - divs x y * y := by
  rw [rems, if_neg h, divs, if_neg h]
  split
  · next hc => exact (ofInt_tdiv_min hc.1 hc.2).2
  · exact ofInt_tmod x y

theorem divu_of_ne {x y : Dword} (h : y ≠ 0) : divu x y = BitVec.ofNat 64 (x.toNat / y.toNat) := if_neg h

theorem remu_of_ne {x y : Dword} (h : y ≠ 0) : remu x y = x - BitVec.ofNat 64 (x.toNat / y.toNat) * y :=
  (if_neg h).trans (ofNat_mod x y)

/-- What a divisor of 0 gives (R90). -/
theorem divs_zero (x : Dword) : divs x 0 = 0xFFFFFFFFFFFFFFFF := if_pos rfl
theorem divu_zero (x : Dword) : divu x 0 = 0xFFFFFFFFFFFFFFFF := if_pos rfl
theorem rems_zero (x : Dword) : rems x 0 = x := if_pos rfl
theorem remu_zero (x : Dword) : remu x 0 = x := if_pos rfl

theorem divFlags_of_ne {y : Dword} (h : y ≠ 0) : divFlags y = 0 := by
  rw [divFlags, beq_eq_false_iff_ne.2 h]
  rfl

/-! ### The divider -/

/-- A result without flags or drops is in its register at once (log entry 67). -/
theorem arrives_plain (s : State) (g : Option GReg) (v : Option VReg) (n : Nat) : s.arrives g v n 0 0 = s := if_pos ⟨rfl, rfl⟩

/-- A result with flags comes `n` cycles later; one for `g0` names no register (R22, R23). -/
theorem arrives_flags (s : State) (d : GReg) (n : Nat) {f : Flags} (h : f ≠ 0) :
    s.arrives (some d) none n f 0 =
      s.timer (s.time.toNat + n) (.resultReady s.turn (if d = 0 then none else some d) none f 0) := by
  have hd : (some d).filter (· != 0) = if d = 0 then none else some d := by
    by_cases h0 : d = 0
    · subst h0
      rfl
    · rw [if_neg h0, Option.filter_some, if_pos (bne_iff_ne.2 h0)]
  rw [State.arrives, if_neg fun k => h k.1, State.resultIn, hd]

section
variable {s : State} {d a b : GReg} {ta tb : Bool} {f : Dword → Dword → Dword}

/-- The operands of a division, whose hold is the strand's divider (R90). -/
def useDiv (d a b : GReg) (ta tb : Bool) : Use := { useR d a b ta tb with hold := fun s => interlockWhile s.dividing }

theorem names_useDiv : Names (useDiv d a b ta tb) [a, b, d] := ⟨rfl, by simp [useDiv, useR], by simp [useDiv, useR]⟩

theorem asks_useDiv (h : s.dividing = false) : Asks (useDiv d a b ta tb) [a, b, d] s :=
  ⟨names_useDiv, rfl, by simp [useDiv, interlockWhile, h]⟩

/-- A division of a divisor other than 0 raises no flag, and its result is there at once (R90). -/
theorem divR_puts (h : Ready s everyStrand [a, b, d]) (hd : s.dividing = false) (hb : s.me.rg b ≠ 0) :
    divR d a b ta tb f s = puts s 2 d (f (s.me.rg a) (s.me.rg b)) := by
  refine issue_leaves h (asks_useDiv hd) (by simpa using issues_of_ready h) ?_
  dsimp only
  rw [State.me_setMe, counted_rg, counted_rg, divFlags_of_ne hb, arrives_plain, State.setMe_setMe, counted_wg]

/-- A division by 0 leaves its result and puts off its IDZ flag for 34 cycles (R22, R90). -/
theorem divR_by_zero (h : Ready s everyStrand [a, b, d]) (hd : s.dividing = false) (hb : s.me.rg b = 0) :
    divR d a b ta tb f s =
      .next ((s.setMe (gone (s.me.wg d (f (s.me.rg a) 0)) 2)).timer (s.time.toNat + 34)
        (.resultReady s.turn (if d = 0 then none else some d) none 0x100 0)) := by
  have hz : (counted (s.me.wg d (f (s.me.rg a) 0))).issues = true := by simpa using issues_of_ready h
  have hrun : divR d a b ta tb f s =
      .next (((s.setMe (counted (s.me.wg d (f (s.me.rg a) 0)))).arrives (some d) none 34 fIDZ 0).pass 2) := by
    refine issue_next_of_ready h (asks_useDiv hd) ?_
    dsimp only
    rw [State.me_setMe, counted_rg, counted_rg, hb, State.setMe_setMe, counted_wg]
    rfl
  rw [hrun, arrives_flags _ _ _ (by decide), pass_timer, pass_of_issues s _ _ hz]
  rfl

/-- A division whose flag has yet to come holds the next (R90). -/
theorem divR_held {e : Nat × Event} {g : Option GReg} {v : Option VReg} {n : Nat} (h : Begins s)
    (hfull : ∀ r ∈ [a, b, d], s.me.isFull r = true) (hdue : s.resultDue [a, b, d] [] = false) (he : e ∈ s.timers)
    (hr : e.2 = .resultReady s.turn g v 0x100 n) : divR d a b ta tb f s = .next (s.block .interlock) := by
  have hd : s.dividing = true := List.any_eq_true.2 ⟨e, he, by simp [hr, Event.divides, fIDZ]⟩
  exact issue_held h names_useDiv hfull hdue (by simp [interlockWhile, hd])

end

/-! ### Fields -/

/-- The mask's one bits are those of the field (R91). -/
theorem getLsbD_bfMask (c : Dword) (i : Nat) : (bfMask c).getLsbD i = inField (bfPos c) (bfWidth c) i := by
  have h : bfPos c + bfWidth c ≤ 64 := by
    have hp : bfPos c < 64 := Nat.mod_lt _ (by decide)
    unfold bfWidth
    omega
  rw [bfMask, BitVec.getLsbD_ofNat, Nat.testBit_mul_two_pow, Nat.testBit_two_pow_sub_one, inField, ← Bool.decide_and, ← Bool.decide_and,
    decide_eq_decide]
  omega

/-- BFX reads the field's bits from bit 0 up, and 0 above them (R91). -/
theorem getLsbD_bfx (x c : Dword) (i : Nat) : (bfx x c).getLsbD i = (decide (i < bfWidth c) && x.getLsbD (bfPos c + i)) := by
  rw [bfx, BitVec.getLsbD_ushiftRight, BitVec.getLsbD_and, getLsbD_bfMask, Bool.and_comm]
  simp [inField]

/-- BFI takes the field's bits from `x` and the others from `old` (R91). -/
theorem getLsbD_bfi (old x c : Dword) {i : Nat} (h : i < 64) :
    (bfi old x c).getLsbD i = if inField (bfPos c) (bfWidth c) i then x.getLsbD (i - bfPos c) else old.getLsbD i := by
  rw [bfi, BitVec.getLsbD_or, BitVec.getLsbD_and, BitVec.getLsbD_and, BitVec.getLsbD_not, BitVec.getLsbD_shiftLeft, getLsbD_bfMask]
  by_cases hf : inField (bfPos c) (bfWidth c) i = true
  · have hp : bfPos c ≤ i := (of_decide_eq_true hf).1
    simp [hf, h, hp]
  · simp [hf, h]

section
variable {s : State} {d a b : GReg} {ta tb : Bool}

/-- BFI names its destination as a source too (R91). -/
theorem execBfi_puts (h : Ready s everyStrand [a, b, d]) :
    execBfi d a b ta tb s = puts s 2 d (bfi (s.me.rg d) (s.me.rg a) (s.me.rg b)) :=
  issue_puts h ⟨⟨rfl, by simp, by simp⟩, rfl, rfl⟩

/-- An instruction of two `g` sources and a `g` destination writes its result and nothing else (R87). -/
theorem intR_puts {f : Dword → Dword → Dword} (h : Ready s everyStrand [a, b, d]) :
    intR d a b ta tb f s = puts s 2 d (f (s.me.rg a) (s.me.rg b)) :=
  issue_puts h (asks_useR (by simp) (by simp) (by simp))

end

/-- Settles O2: by whether the divisor is 0, and bit by bit. -/
theorem divisionsAndFields : Obligations.DivisionsAndFields := by
  unfold Obligations.DivisionsAndFields
  refine ⟨⟨?_, ?_⟩, ?_, ?_⟩
  · intro s d a b ta tb h hd
    dsimp only
    simp only [exec_divs, execDivs, exec_divu, execDivu, exec_rems, execRems, exec_remu, execRemu]
    refine ⟨fun hy => ?_, fun hy => ?_⟩
    · simp only [divR_puts h hd hy, divs_of_ne hy, divu_of_ne hy, rems_of_ne hy, remu_of_ne hy, and_self]
    · simp only [divR_by_zero h hd hy, divs_zero, divu_zero, rems_zero, remu_zero, and_self]
  · intro s d a b ta tb e g v n h hfull hdue he hr
    have hf (f) : divR d a b ta tb f s = .next (s.block .interlock) := divR_held h hfull hdue he hr
    exact ⟨waits_of_block (hf divs), waits_of_block (hf divu), waits_of_block (hf rems), waits_of_block (hf remu)⟩
  · intro s d a b ta tb h
    have hw : bfWidth (s.me.rg b) = min (min ((s.me.rg b).toNat / 256 % 128) 64) (64 - (s.me.rg b).toNat % 64) := rfl
    dsimp only
    rw [exec_bfx, execBfx, exec_bfi, ← hw]
    exact ⟨⟨_, intR_puts h, fun i _ => getLsbD_bfx _ _ i⟩, ⟨_, execBfi_puts h, fun i hi => getLsbD_bfi _ _ _ hi⟩⟩
  · intro s d a b ta tb h he
    apply waits_of_block
    rw [exec_bfi]
    exact issue_empty_source h rfl (by simp) he

end Sys2Proof.Proofs
end
